-- ==== Sys2Proof/Word.lean ====
section
/-! DEFINITION. The one word of this hardware: the byte of a rack-line payload (R18, R30). Quantities of
the block (voltages, charges, counts, addresses) are numbers, not words. -/

namespace Sys2Proof

/-- One byte of a notice's payload. -/
abbrev Byte := BitVec 8

end Sys2Proof
end

