-- ==== Sys2Proof/Syntax.lean ====
section
/-! DEFINITION. The commands of the VG48: one constructor of `Instr` for each row of spec/opcode_table.json,
with the operands that reach the node from outside with that event. -/

namespace Sys2Proof

/-- A carrier tag reading: the present flag and the profile id 0..3 (R71). -/
structure TagReading where
  present : Bool
  profile : BitVec 2
deriving DecidableEq, Repr

/-- What a converter sense input reports of one quantity (R61): a value in range, or over-range on one side. -/
inductive SenseReading where
  | value (v : Int)
  | overLow
  | overHigh
deriving DecidableEq, Repr

/-- One sample set as the sense inputs and the tag input give it (R61, R71). -/
structure RawSample where
  voltage : SenseReading
  current : SenseReading
  temp1 : SenseReading
  temp2 : SenseReading
  bus : SenseReading
  tag : TagReading
deriving DecidableEq, Repr

/-- A frame heard from another station: its source address and its payload (R24). The frame has passed the
checks of R23; its kind is the command's. -/
structure Heard where
  source : Nat
  payload : List Byte
deriving DecidableEq, Repr

/-- A frame as its bits stood on the line (R18), before the checks of R23. `endMark` is the level read where
the end mark is expected; `payload` holds the bytes received, fewer than `length` where the line went
recessive. -/
structure RawFrame where
  priority : BitVec 8
  source : BitVec 6
  kind : BitVec 5
  length : BitVec 6
  payload : List Byte
  check : BitVec 16
  endMark : Bool
deriving DecidableEq, Repr

/-- The holder of a rest watch (R66). -/
inductive Watcher where
  | grade
  | position
deriving DecidableEq, Repr

/-- The driven part whose confirmation is awaited (R173). -/
inductive Drive where
  | contactor
  | switch
deriving DecidableEq, Repr

/-- A notice of the Rail Allocator under repeat, by its fields (R140). -/
inductive RailNotice where
  | release (id units cause : Nat)
  | suspend (id : Nat)
  | resume (id : Nat)
deriving DecidableEq, Repr

/-- A notice of the Position Manager under repeat, by its fields (R164, R166). Of the ENGAGEs under repeat only a settled
report carries a SoC, and none a voltage. -/
inductive PosNotice where
  | claim (position partner : Nat)
  | engage (position step : Nat) (soc : Option Nat)
  | vacate (position step reason : Nat)
deriving DecidableEq, Repr

/-- The commands, in the order of the table. -/
inductive Instr where
  /-- POWER_ON_RESET (R36): release of the reset pin with these strap and tag readings. -/
  | powerOnReset (straps : BitVec 6) (tag : TagReading)
  /-- LINE_FREE (R20). -/
  | lineFree
  /-- FRAME_START (R21). -/
  | frameStart
  /-- ARBITRATION_LOST (R21). -/
  | arbitrationLost
  /-- FRAME_ABANDONED (R22). -/
  | frameAbandoned
  /-- FRAME_COMPLETE_CLEAN (R22). -/
  | frameCompleteClean
  /-- RECEIVE_ERROR (R23). -/
  | receiveError (f : RawFrame)
  /-- SILENT_DISCARD (R23). -/
  | silentDiscard (f : RawFrame)
  /-- PLAN (R39). -/
  | plan (h : Heard)
  /-- LISTEN_WINDOW_EXPIRY (R37). -/
  | listenWindowExpiry
  /-- PRESENCE_TIMER_EXPIRY (R46). -/
  | presenceTimerExpiry
  /-- LINE_REJOIN (R44). -/
  | lineRejoin
  /-- PRESENCE (R50). -/
  | presence (h : Heard)
  /-- GRADE (R51). -/
  | grade (h : Heard)
  /-- READOUT (R52). -/
  | readout (h : Heard)
  /-- FAULT (R52). -/
  | fault (h : Heard)
  /-- ENTRY_EXPIRES (R53): the entry of this address. -/
  | entryExpires (address : Nat)
  /-- SAMPLE_SET (R61). -/
  | sampleSet (r : RawSample)
  /-- LIMIT_CLEAR_EXPIRY (R70). -/
  | limitClearExpiry
  /-- MODULE_CHANGE (R72). -/
  | moduleChange
  /-- REST_WATCH_COMPLETE (R66): the watch of this holder. -/
  | restWatchComplete (w : Watcher)
  /-- PERIODIC_REST_READING (R67). -/
  | periodicRestReading
  /-- RAMP_DOWN_COMPLETE (R78). -/
  | rampDownComplete
  /-- LEVEL_STOP (R83). -/
  | levelStop
  /-- GRADE_REPEAT_EXPIRY (R95). -/
  | gradeRepeatExpiry
  /-- NEED (R128). -/
  | need (h : Heard)
  /-- OFFER (R129). -/
  | offer (h : Heard)
  /-- AGREE (R119). -/
  | agree (h : Heard)
  /-- RELEASE (R120). -/
  | release (h : Heard)
  /-- SUSPEND (R121). -/
  | suspend (h : Heard)
  /-- RESUME (R121). -/
  | resume (h : Heard)
  /-- NEED_TIMEOUT (R128). -/
  | needTimeout
  /-- OFFER_WINDOW_EXPIRY (R129). -/
  | offerWindowExpiry
  /-- RETRY_TIMER_EXPIRY (R130). -/
  | retryTimerExpiry
  /-- AGREE_TIMEOUT (R130). -/
  | agreeTimeout
  /-- OFFER_HOLD_EXPIRY (R131). -/
  | offerHoldExpiry
  /-- START_TIMER_EXPIRY (R134). -/
  | startTimerExpiry
  /-- SUSPEND_HOLD_EXPIRY (R138). -/
  | suspendHoldExpiry
  /-- PARTY_SILENCE_EXPIRY (R139). -/
  | partySilenceExpiry
  /-- RAIL_REPEAT_EXPIRY (R140): the interval of this notice. -/
  | railRepeatExpiry (x : RailNotice)
  /-- UNCERTAINTY_EXPIRY (R124). -/
  | uncertaintyExpiry
  /-- PROPOSE (R150). -/
  | propose (h : Heard)
  /-- BIND (R151). -/
  | bind (h : Heard)
  /-- UNBIND (R152). -/
  | unbind (h : Heard)
  /-- PROPOSAL_TIMER_EXPIRY (R149). -/
  | proposalTimerExpiry
  /-- BAR_TIMER_EXPIRY (R157). -/
  | barTimerExpiry
  /-- PARTNER_SILENCE_EXPIRY (R159). -/
  | partnerSilenceExpiry
  /-- CLAIM (R166). -/
  | claim (h : Heard)
  /-- ENGAGE (R173). -/
  | engage (h : Heard)
  /-- VACATE (R175). -/
  | vacate (h : Heard)
  /-- QUIET_WINDOW_EXPIRY (R169). -/
  | quietWindowExpiry
  /-- POSITION_REPEAT_EXPIRY (R164): the interval of this notice. -/
  | positionRepeatExpiry (x : PosNotice)
  /-- LIVE_REPORT_TIMER_EXPIRY (R171). -/
  | liveReportTimerExpiry
  /-- CONTACTOR_CONFIRM (R173). -/
  | contactorConfirm
  /-- TRANSFER_SWITCH_CONFIRM (R173). -/
  | transferSwitchConfirm
  /-- CONFIRM_TIMEOUT (R173): the move of this drive. -/
  | confirmTimeout (d : Drive)
  /-- ENGAGE_TIMEOUT (R174). -/
  | engageTimeout
  /-- LEAVE_TIMER_EXPIRY (R175). -/
  | leaveTimerExpiry
  /-- QUERY (R181). -/
  | query (h : Heard)
  /-- REGRADE (R112). -/
  | regrade (h : Heard)
  /-- DIRECTIVE_RELEASE (R160). -/
  | directiveRelease (h : Heard)
  /-- HOLD (R43). -/
  | hold (h : Heard)
  /-- RESUME_NODE (R43). -/
  | resumeNode (h : Heard)
  /-- CLEAR_FAULTS (R182). -/
  | clearFaults (h : Heard)
  /-- DIRECTIVE_UNKNOWN_KIND (R182). -/
  | directiveUnknownKind (h : Heard)
deriving DecidableEq, Repr

end Sys2Proof
end

