-- ==== Sys2Proof/Decode.lean ====
section
/-! DEFINITION. The command that a word spells by the bits of spec/opcode_table.json. The table gives no row a
bit: a command of this block is an event, not a word, so every word spells none (log entry 3). The decoder
of what does have bits here, the rack line's frames and payloads, is Machine/Codec.lean. -/

namespace Sys2Proof

/-- The command spelled by `w`: none, since no row of the table has bits. -/
def decodeTableWord (_nbits _w : Nat) : Option Instr := none

end Sys2Proof
end

