-- ==== Sys2Proof/Config.lean ====
section
/-! DEFINITION. What the carrier and the board fix around one VG48: the readings of the pins at the release of
the reset pin that `State.reset` stands for. Every other power-on is the command POWER_ON_RESET with the
readings it carries. -/

namespace Sys2Proof.Config

/-- The strap pins as `State.reset` finds them: station address 1. DESIGN CHOICE (log entry 4): the pins are
board wiring, and R35 calls every value 1..48 legal. -/
def straps : BitVec 6 := 1#6

/-- The carrier tag input as `State.reset` finds it: no carrier. DESIGN CHOICE (log entry 4). -/
def tag : TagReading := ⟨false, 0#2⟩

end Sys2Proof.Config
end

