-- ==== Sys2Proof/Machine/State.lean ====
section
/-! DEFINITION. The state of the VG48 as plain data: one structure for each block of the node (00_scope.md),
the queue of waiting commands, and the machine right after reset. A timer holds its deadline on the node's
clock; `none` is "stopped". -/

namespace Sys2Proof.Machine

/-- A timer: the moment, in ms since the release of the reset pin, at which it expires, or stopped. -/
abbrev Timer := Option Nat

/-! ### Figures (chapter 1) -/

/-- The kinds of figure of R3. -/
inductive FigKind where
  | cap | nam | res | hlt | sdr | ocv | cel | tmp | soc | hdr | sco
deriving DecidableEq, Repr

/-- A figure (R1): sign, digit count, point position, magnitude and clamp mark. -/
structure Fig where
  neg : Bool
  digits : Nat
  point : Nat
  mag : Nat
  mark : Bool
deriving DecidableEq, Repr

/-! ### The rack line (chapter 2) -/

/-- The line states of R20. -/
inductive LineState where
  | settling | free | busy | sending
deriving DecidableEq, Repr

/-- The nineteen notice kinds of R29. -/
inductive Kind where
  | plan | directive | query | presence | grade | readout | fault | need | offer | agree | release
  | suspend | resume | propose | bind | unbind | claim | engage | vacate
deriving DecidableEq, Repr

/-- A notice waiting to be sent: its kind, the priority fixed when it was built, its part number for a READOUT
(0 otherwise) and its payload (R26). -/
structure Queued where
  kind : Kind
  priority : Nat
  part : Nat
  payload : List Byte
deriving DecidableEq, Repr

/-- The Line Interface: line state, transmit queue, frame in transmission, abandon count, and whether the
first clean frame after a line rejoin is still to come (R20, R22, R26, R27). -/
structure Line where
  state : LineState
  queue : List Queued
  sending : Option Queued
  abandons : Nat
  cleanDue : Bool
deriving DecidableEq, Repr

/-- The value of a payload field as read (R30): "not known", an unsigned or signed number, a figure or an
address list. -/
inductive Value where
  | notKnown
  | num (n : Nat)
  | signed (i : Int)
  | fig (f : Fig)
  | list (l : List Nat)
deriving DecidableEq, Repr

/-! ### The plan (chapter 3) -/

/-- A part of a plan (R39, R40): identity, index, part count, section and the items carried by field code. -/
structure PlanPart where
  identity : Nat
  index : Nat
  count : Nat
  sect : Nat
  items : List (Nat × Value)
deriving DecidableEq, Repr

/-- The operation of a chain criterion (R109). -/
inductive ChainOp where
  | load | and | or | andNot | orNot
deriving DecidableEq, Repr

/-- One criterion of a qualification chain: figure kind, relation (≥ or ≤), operation, limit (R109). -/
structure Criterion where
  kind : FigKind
  atLeast : Bool
  op : ChainOp
  limit : Fig
deriving DecidableEq, Repr

/-- A module profile: limits and eleven points (R40). -/
structure Profile where
  cells : Nat
  nam : Fig
  cellMin : Fig
  cellMax : Fig
  warn : Fig
  hard : Fig
  points : List Fig
deriving DecidableEq, Repr

/-- The stored plan, its timers as clamped (R40, R41). Times keep the plan's units. -/
structure Plan where
  identity : Nat
  roster : Nat
  rowLength : Nat
  capacity : Nat
  share : Nat
  slots : Nat
  offerCount : Nat
  testDepth : Nat
  testUnits : Nat
  pulseCurrent : Nat
  classDistance : Nat
  joinWindow : Nat
  joinMax : Nat
  releaseFraction : Nat
  serveLow : Nat
  serveHigh : Nat
  wQ : Nat
  wR : Nat
  maxScore : Nat
  presencePeriod : Nat
  lifetimeCount : Nat
  offerWindow : Nat
  proposalPeriod : Nat
  quietWindow : Nat
  suspendHold : Nat
  restTime : Nat
  selfRest : Nat
  joinSettle : Nat
  weights : List (Nat × Nat)
  profiles : List (Option Profile)
  chainA : List Criterion
  chainB : List Criterion
  chainC : List Criterion
deriving DecidableEq, Repr

/-- The assembly buffer while an assembly is open: identity, part count and parts by index (R39). -/
structure Assembly where
  identity : Nat
  count : Nat
  parts : List (Nat × PlanPart)
deriving DecidableEq, Repr

/-- The node states of R36. -/
inductive NodeState where
  | listen | unplanned | active | hold | quiet | strapFault | clashed
deriving DecidableEq, Repr

/-- The Presence Controller (R35, R36, R39, R44, R46). -/
structure Presence where
  address : Nat
  state : NodeState
  listenTimer : Timer
  presenceTimer : Timer
  quietTimer : Timer
  holdFlag : Bool
  plan : Option Plan
  assembly : Option Assembly
deriving DecidableEq, Repr

/-! ### Grade, pair and peer data -/

/-- The grade states of R92, in the order of their codes. -/
inductive GradeState where
  | ungraded | restA | pulse | capTest | restB | compute | graded | selfRest | failed | regrading
deriving DecidableEq, Repr

/-- The classes of R110. -/
inductive Class where
  | none | a | b | c | reject
deriving DecidableEq, Repr

/-- The pair states of R145, in the order of their codes. -/
inductive PairState where
  | unpaired | seeking | proposing | bound | joining | joined | leaving
deriving DecidableEq, Repr

/-- The exchange statement of a PRESENCE, whole (R47). -/
structure Statement where
  id : Nat
  role : Nat
  other : Nat
  units : Nat
  draw : Nat
deriving DecidableEq, Repr

/-- A Peer Table entry (R49). `heardAt` is the moment its age last restarted; `none` in a state field is "not
heard" or absent. The row is derived from the address and the plan. -/
structure Peer where
  address : Nat
  heardAt : Nat
  nodeState : Option NodeState
  planId : Option Nat
  gradeState : Option GradeState
  announced : Option Nat
  pairState : Option PairState
  partner : Option Nat
  position : Option Nat
  statement : Option Statement
  lastPresence : Option Nat
  heldGen : Option Nat
  cls : Class
  profile : Option Nat
  cap : Option Fig
  res : Option Fig
deriving DecidableEq, Repr

/-- The Peer Table: entries by address, the candidate list as last handed, and the moment at which the ages of all
entries stopped, with the entry into STRAPFAULT or CLASHED; `none` while they run (R48, R54, R58). -/
structure Peers where
  entries : List Peer
  cands : List (Nat × Fig)
  stopped : Option Nat
deriving DecidableEq, Repr

/-! ### Module measurement (chapter 5) -/

/-- A sample set as held, with its saturation marks (R61). -/
structure SampleSet where
  voltage : Nat
  voltageSat : Bool
  current : Int
  currentSat : Bool
  temp1 : Int
  temp1Sat : Bool
  temp2 : Int
  temp2Sat : Bool
  bus : Nat
  busSat : Bool
deriving DecidableEq, Repr

/-- The coulomb counter (R63). -/
structure Counter where
  count : Int
  residue : Int
  running : Bool
  saturated : Bool
deriving DecidableEq, Repr

/-- An open rest watch: its duration in ms, and whether a sample set has come since it opened (R66). -/
structure RestWatch where
  duration : Nat
  sampled : Bool
deriving DecidableEq, Repr

/-- A rest reading (R67): the rest OCV in mV, its OCV figure, the state of charge, the rest timer and the moment. -/
structure RestReading where
  millivolts : Nat
  ocv : Fig
  soc : Option Nat
  rest : Nat
  moment : Nat
deriving DecidableEq, Repr

/-- The tag states of R71. -/
inductive TagState where
  | absent | pending | valid | unknown
deriving DecidableEq, Repr

/-- The limit states of R70. -/
inductive LimitState where
  | clear | soft | hard
deriving DecidableEq, Repr

/-- The kind of a limit breach (R69). -/
inductive BreachKind where
  | current | voltage | temperature
deriving DecidableEq, Repr

/-- The Module Monitor. `tagRun` counts the consecutive sample sets that held the differing reading `tagSeen`. -/
structure Monitor where
  now : Nat
  sample : SampleSet
  cell : Option Nat
  volts : List Nat
  counter : Counter
  rest : Nat
  watchGrade : Option RestWatch
  watchPosition : Option RestWatch
  reading : Option RestReading
  tag : TagReading
  tagSeen : TagReading
  tagRun : Nat
  tagState : TagState
  limit : LimitState
  clearTimer : Timer
deriving DecidableEq, Repr

/-! ### Duty levels (chapter 6) -/

/-- The five levels, highest first (R75). -/
inductive LevelId where
  | protect | join | serve | test | pulse
deriving DecidableEq, Repr

/-- The states of a level context (R75). -/
inductive LevelState where
  | empty | ready | running | suspended | ending
deriving DecidableEq, Repr

/-- Direction of a level or exchange (R75, R76). -/
inductive Dir where
  | off | source | sink
deriving DecidableEq, Repr

/-- The end causes of R83. -/
inductive EndCause where
  | charge | cell | time | ended | invalid
deriving DecidableEq, Repr

/-- A level context (R75). `reported` is false where the ending of a cleared context makes no report (R89); `sampled` says that a
sample set has been handed over since the level became RUNNING (R83, log entry 1). Both are the model's own. -/
structure Level where
  state : LevelState
  dir : Dir
  setpoint : Nat
  charge : Int
  residue : Int
  elapsed : Nat
  target : Option Nat
  bound : Option Nat
  limit : Option Nat
  exchange : Option Nat
  other : Option Nat
  heldHere : Bool
  heldThere : Bool
  resumeOut : Bool
  cause : Option EndCause
  reported : Bool
  sampled : Bool
deriving DecidableEq, Repr

/-- A request that makes a level READY (R79). -/
structure LevelRequest where
  dir : Dir
  setpoint : Nat
  target : Option Nat
  bound : Option Nat
  limit : Option Nat
  exchange : Option Nat
  other : Option Nat
deriving DecidableEq, Repr

/-- The converter paths of R76. -/
inductive Path where
  | open | rail | buffer
deriving DecidableEq, Repr

/-- The slot converter (R77). -/
structure Converter where
  setpoint : Int
  actual : Int
  path : Path
  holder : Option LevelId
deriving DecidableEq, Repr

/-- A completion report (R83), with the exchange that its level carried; a PULSE that met its time limit carries I_p and V_end
(R88). -/
structure Completion where
  level : LevelId
  cause : EndCause
  charge : Int
  elapsed : Nat
  exchange : Option Nat
  pulse : Option (Int × Nat)
deriving DecidableEq, Repr

/-- The Duty Level Controller. `kept…` are the requests kept for an ENDING level (R79); `reports` the
completions not yet taken within the present step. -/
structure Duty where
  protect : Level
  join : Level
  serve : Level
  test : Level
  pulse : Level
  keptJoin : Option LevelRequest
  keptServe : Option LevelRequest
  keptTest : Option LevelRequest
  keptPulse : Option LevelRequest
  conv : Converter
  pulseEnd : Option (Int × Nat)
  reports : List Completion
deriving DecidableEq, Repr

/-! ### Grading (chapter 7) -/

/-- A grade record (R94). -/
structure Record where
  cls : Class
  profile : Option Nat
  cells : Option Nat
  cap : Option Fig
  res : Option Fig
  hlt : Option Fig
  sdr : Option Fig
  ocv : Option Fig
  tmp : Option Fig
  attempts : Nat
deriving DecidableEq, Repr

/-- The Grade Engine (R92, R94, R95, R106). -/
structure Grader where
  state : GradeState
  attempts : Nat
  readingA : Option RestReading
  readingB : Option RestReading
  restStart : Option Nat
  working : Record
  published : Record
  generation : Nat
  repeatTimer : Timer
deriving DecidableEq, Repr

/-! ### Rail units and exchanges (chapter 8) -/

/-- A record of the rail view (R118). The initiator is `id / 16`. -/
structure Exchange where
  id : Nat
  initiator : Nat
  counterpart : Nat
  units : Nat
  draw : Nat
  suspended : Bool
deriving DecidableEq, Repr

/-- The states of the own side (R125), in the order R181 numbers them. -/
inductive OwnSide where
  | idle | waiting | needing | window | agreeing | starting | party
deriving DecidableEq, Repr

/-- The request of the own side: a capacity test with its terms (R100), or an equalizing transfer (R133). -/
inductive Request where
  | test (dir : Dir) (units target bound : Nat) (expected : Fig)
  | join (units : Nat)
deriving DecidableEq, Repr

/-- The own record of the node's exchange (R125). `headroom` is a counterpart's, in 0.01 Ah (R134); `released`
says that a final RELEASE has been handed. `dropped` says that the block which the exchange serves asks for it no more, the
request being withdrawn, the JOIN ended or the test complete, while the exchange is still in view (R101, R126, R135): what is
requested from then on is a later request. -/
structure OwnRecord where
  id : Nat
  initiator : Bool
  other : Nat
  join : Bool
  dir : Dir
  units : Nat
  driven : Nat
  original : Nat
  flagOwn : Bool
  flagOther : Bool
  headroom : Nat
  released : Bool
  dropped : Bool
deriving DecidableEq, Repr

/-- An offer the node holds (R131). -/
structure HeldOffer where
  id : Nat
  initiator : Nat
  headroom : Fig
deriving DecidableEq, Repr

/-- The Rail Allocator. `boot` says that an uncertainty of power-on or rejoin stands; `heardSince` lists the
peers heard by PRESENCE since the latest cause (R124). `testOrdinary` is the end classification of the node's
TEST and `testEnded` says that its completion ENDED waits for it (R136). `repeats` holds each notice under repeat with the moment of its
next hand-over (R140). -/
structure Rail where
  view : List Exchange
  certain : Bool
  boot : Bool
  heardSince : List Nat
  certainTimer : Timer
  side : OwnSide
  request : Option Request
  own : Option OwnRecord
  testOrdinary : Option Bool
  testEnded : Bool
  current : Option Nat
  asked : Nat
  offers : List (Nat × Fig)
  held : Option HeldOffer
  serial : Nat
  wait : Nat
  needTimer : Timer
  windowTimer : Timer
  retryTimer : Timer
  agreeTimer : Timer
  heldTimer : Timer
  startTimer : Timer
  suspendTimer : Timer
  silenceTimer : Timer
  repeats : List (RailNotice × Nat)
deriving DecidableEq, Repr

/-! ### Pairing (chapter 9) -/

/-- The Pairing Engine (R145). -/
structure Pairing where
  state : PairState
  partner : Option Nat
  proposed : Option Nat
  target : Option Nat
  proposalTimer : Timer
  frames : Nat
  silent : Bool
  silenceTimer : Timer
  barred : Option Nat
  barTimer : Timer
  lastCause : Option Nat
  byDirective : Bool
deriving DecidableEq, Repr

/-! ### Positions (chapter 10) -/

/-- The phases of R164, in the order R181 numbers them. -/
inductive Phase where
  | none | bonded | claiming | claimWait | settleWait | reported | transfer | engaging | inString | vacating
deriving DecidableEq, Repr

/-- The states of a position record (R165). -/
inductive PosState where
  | free | claimed | engaging | engaged | leaving
deriving DecidableEq, Repr

/-- A position record: its state, and its couple as lead and partner; FREE holds none (R165). -/
structure PosRecord where
  state : PosState
  couple : Option (Nat × Nat)
deriving DecidableEq, Repr

/-- A driven part: the drive (true: closed, or in the string), the confirmed position, and the 100 ms
confirmation timer of a move under way (R173). -/
structure Actuator where
  drive : Bool
  position : Bool
  timer : Timer
deriving DecidableEq, Repr

/-- The step the Position Manager takes when a confirmation arrives (R173, R175). -/
inductive PosStep where
  | engage1 | engage2 | engage3 | vacate1 | vacate2 | vacate3
deriving DecidableEq, Repr

/-- The reasons of a VACATE (R166), in the order of their codes. -/
inductive Reason where
  | abort | timeout | contactor | breach | module | directive | ended
deriving DecidableEq, Repr

/-- The Position Manager (R164, R165). `leaveStep` says how far a leave has come: 0 none, 1 bypassing
(lead) or asking (partner), 2 step 1 handed (lead) or heard (partner), 3 opening for step 3 (lead). `repeats` holds
each notice under repeat with the moment of its next hand-over. -/
structure Positions where
  phase : Phase
  lead : Bool
  partner : Option Nat
  position : Option Nat
  claims : Nat
  attempts : Nat
  ownReport : Option Nat
  partnerReport : Option Nat
  claimed : Option Nat
  firstCheck : Bool
  contactor : Actuator
  switch : Actuator
  engageLine : Bool
  onContactor : Option PosStep
  onSwitch : Option PosStep
  leaveStep : Nat
  leaveReason : Reason
  windowTimer : Timer
  engageTimer : Timer
  leaveTimer : Timer
  liveTimer : Timer
  repeats : List (PosNotice × Nat)
  view : Option (List PosRecord)
deriving DecidableEq, Repr

/-! ### Status and service (chapter 11) -/

/-- The fault codes of R179, in the order of their numbers 1..10. -/
inductive FaultCode where
  | strap | addressClash | planInvalid | planConflict | lineQuiet | limit | tag | contactor | gradeFail
  | equalizeFail
deriving DecidableEq, Repr

/-- A fault list entry (R178). -/
structure FaultEntry where
  code : FaultCode
  detail : Option BreachKind
  active : Bool
  seen : Nat
deriving DecidableEq, Repr

/-- Status and Service. `quietFaultDue` says that the FAULT of the LINE QUIET entry waits for line rejoin (R180). -/
structure Service where
  faults : List FaultEntry
  lastResult : Nat
  quietFaultDue : Bool
deriving DecidableEq, Repr

/-! ### The node, the machine and its stops -/

/-- The node: its eleven blocks (the Notice Codec keeps nothing between notices, R30). -/
structure Node where
  line : Line
  pres : Presence
  peers : Peers
  mon : Monitor
  duty : Duty
  grade : Grader
  rail : Rail
  pair : Pairing
  pos : Positions
  serv : Service
deriving DecidableEq, Repr

/-- The machine: the node and the commands that wait, first in, first out. -/
structure State where
  node : Node
  pending : List Instr
deriving DecidableEq, Repr

/-- The faults that stop the machine: none. No rule of spec/ stops the node; STRAPFAULT and CLASHED are node
states (R45). Safe: nothing is raised. -/
inductive Fault where
deriving DecidableEq, Repr

/-- The refusals of the model. -/
inductive Refusal where
  /-- Raised by `exec` alone, for a command that has no meaning yet; safe. No command is refused now. -/
  | notModelled (mnemonic : String)
deriving DecidableEq, Repr

/-! ### Reset (R28, R36, R60, R74, R75, R77, R116, R144, R163, R177, R184) -/

/-- An EMPTY level context holds no other field (R75). -/
def Level.empty : Level :=
  { state := .empty, dir := .off, setpoint := 0, charge := 0, residue := 0, elapsed := 0, target := none,
    bound := none, limit := none, exchange := none, other := none, heldHere := false, heldThere := false,
    resumeOut := false, cause := none, reported := true, sampled := false }

/-- The cleared coulomb counter (R64). -/
def Counter.cleared : Counter := { count := 0, residue := 0, running := false, saturated := false }

/-- The latest sample set before the first one: all zero. DESIGN CHOICE (log entry 5). -/
def SampleSet.initial : SampleSet :=
  { voltage := 0, voltageSat := false, current := 0, currentSat := false, temp1 := 0, temp1Sat := false,
    temp2 := 0, temp2Sat := false, bus := 0, busSat := false }

/-- A cleared grade record without profile (R94). -/
def Record.cleared : Record :=
  { cls := .none, profile := none, cells := none, cap := none, res := none, hlt := none, sdr := none,
    ocv := none, tmp := none, attempts := 0 }

/-- A strap value that a node may carry (R35). -/
def legalStrap (a : Nat) : Bool := 1 ≤ a && a ≤ 48

/-- The Line Interface after power-on reset (R20, R22, R28). -/
def Line.initial : Line :=
  { state := .settling, queue := [], sending := none, abandons := 0, cleanDue := false }

/-- The Presence Controller after power-on reset (R36). -/
def Presence.initial (straps : BitVec 6) : Presence :=
  { address := straps.toNat
    state := if legalStrap straps.toNat then .listen else .strapFault
    listenTimer := if legalStrap straps.toNat then some 1500 else none
    presenceTimer := none, quietTimer := none, holdFlag := false, plan := none, assembly := none }

/-- The Peer Table after power-on reset and at line rejoin (R60). -/
def Peers.initial : Peers := { entries := [], cands := [], stopped := none }

/-- The Module Monitor after power-on reset; the tag reading is accepted as it stands (R71, R74). -/
def Monitor.initial (tag : TagReading) : Monitor :=
  { now := 0, sample := .initial, cell := none, volts := [], counter := .cleared, rest := 0
    watchGrade := none, watchPosition := none, reading := none
    tag := tag, tagSeen := tag, tagRun := 0, tagState := if tag.present then .pending else .absent
    limit := .clear, clearTimer := none }

/-- The Duty Level Controller after power-on reset (R75, R77). -/
def Duty.initial : Duty :=
  { protect := .empty, join := .empty, serve := .empty, test := .empty, pulse := .empty
    keptJoin := none, keptServe := none, keptTest := none, keptPulse := none
    conv := { setpoint := 0, actual := 0, path := .open, holder := none }, pulseEnd := none, reports := [] }

/-- The Grade Engine after power-on reset (R116). -/
def Grader.initial : Grader :=
  { state := .ungraded, attempts := 0, readingA := none, readingB := none, restStart := none
    working := .cleared, published := .cleared, generation := 0, repeatTimer := none }

/-- The Rail Allocator after power-on reset (R144). -/
def Rail.initial : Rail :=
  { view := [], certain := false, boot := true, heardSince := [], certainTimer := none, side := .idle
    request := none, own := none, testOrdinary := none, testEnded := false, current := none, asked := 0
    offers := [], held := none, serial := 0, wait := 0, needTimer := none, windowTimer := none
    retryTimer := none, agreeTimer := none, heldTimer := none, startTimer := none, suspendTimer := none
    silenceTimer := none, repeats := [] }

/-- The Pairing Engine after power-on reset (R163). -/
def Pairing.initial : Pairing :=
  { state := .unpaired, partner := none, proposed := none, target := none, proposalTimer := none, frames := 0
    silent := false, silenceTimer := none, barred := none, barTimer := none, lastCause := none
    byDirective := false }

/-- A driven part in its safe position: contactor open, transfer switch in bypass (R177). -/
def Actuator.safe : Actuator := { drive := false, position := false, timer := none }

/-- The Position Manager after power-on reset (R177). R177 gives the own record no role there: the role of a partner, and the values
of the model's own `firstCheck`, `leaveStep` and `leaveReason`, are the model's choice (log entry 57). -/
def Positions.initial : Positions :=
  { phase := .none, lead := false, partner := none, position := none, claims := 0, attempts := 0
    ownReport := none, partnerReport := none, claimed := none, firstCheck := false
    contactor := .safe, switch := .safe, engageLine := false, onContactor := none, onSwitch := none
    leaveStep := 0, leaveReason := .ended, windowTimer := none, engageTimer := none, leaveTimer := none
    liveTimer := none, repeats := [], view := none }

/-- Status and Service after power-on reset (R184); an illegal strap value is entered as the fault STRAP (R35). -/
def Service.initial (straps : BitVec 6) : Service :=
  { faults := if legalStrap straps.toNat then []
      else [{ code := .strap, detail := none, active := true, seen := 0 }]
    lastResult := 0, quietFaultDue := false }

/-- Every block in its power-on state, for these strap and tag readings (R36). -/
def Node.powerOn (straps : BitVec 6) (tag : TagReading) : Node :=
  { line := .initial, pres := .initial straps, peers := .initial
    mon := .initial tag, duty := .initial, grade := .initial, rail := .initial, pair := .initial
    pos := .initial, serv := .initial straps }

/-- The machine right after reset: every block in its power-on state for the pins of Config (log entry 4),
and no command waiting. -/
def State.reset : State := { node := .powerOn Config.straps Config.tag, pending := [] }

end Sys2Proof.Machine
end

