-- ==== Sys2Proof/Machine/Figures.lean ====
section
/-! DEFINITION. Figures (chapter 1): rounding, forming and clamping, rescaling, comparison, and the formulas of
the manual on whole numbers. -/

namespace Sys2Proof.Machine

/-- The exact value `num / den` rounded half up, half away from zero (R5); `den` is positive (R10). -/
def roundHalfUp (num : Int) (den : Nat) : Int :=
  if 0 ≤ num then (2 * num + den) / (2 * den) else -((2 * (-num) + den) / (2 * den))

/-- Digit count n of a kind's canonical shape (R3). -/
def FigKind.digits : FigKind → Nat
  | .cap => 5 | .nam => 5 | .res => 5 | .hlt => 4 | .sdr => 4 | .ocv => 5 | .cel => 5 | .tmp => 3
  | .soc => 5 | .hdr => 5 | .sco => 5

/-- Point position p of a kind's canonical shape (R3). -/
def FigKind.point : FigKind → Nat
  | .cap => 2 | .nam => 2 | .res => 2 | .hlt => 1 | .sdr => 2 | .ocv => 3 | .cel => 4 | .tmp => 1
  | .soc => 2 | .hdr => 2 | .sco => 0

/-- TMP is the one signed kind (R3). -/
def FigKind.signed (k : FigKind) : Bool := k == .tmp

/-- The greatest magnitude of the canonical shape, 10^n − 1 (R6). -/
def FigKind.top (k : FigKind) : Nat := 10 ^ k.digits - 1

/-- A figure of kind `k` with this sign, magnitude and mark, in the canonical shape. -/
def FigKind.make (k : FigKind) (neg : Bool) (mag : Nat) (mark : Bool) : Fig :=
  { neg := neg, digits := k.digits, point := k.point, mag := mag, mark := mark }

/-- The cases of R6, applied to the signed magnitude `m` in the canonical shape; `mark` is the mark the source
carries (R7). A SOC beyond its shape ends at its ceiling 100.00 too, the largest value that R3 gives it (log entry 35). -/
def formFig (k : FigKind) (m : Int) (mark : Bool := false) : Fig :=
  if m = 0 then k.make false 0 mark
  else if k.signed = false ∧ m < 0 then k.make false 0 true
  else if k = .soc ∧ 10000 < m then k.make false 10000 true
  else if k.top < m.natAbs then k.make (decide (m < 0)) k.top true
  else k.make (decide (m < 0)) m.natAbs mark

/-- The signed magnitude of a figure, the quantity in the unit of its kind (R4). -/
def Fig.int (f : Fig) : Int := if f.neg then -(f.mag : Int) else f.mag

/-- A figure formed from the exact value `num / den` in the unit of its kind: rounded once, then clamped (R9). -/
def formQuotient (k : FigKind) (num : Int) (den : Nat) : Fig := formFig k (roundHalfUp num den)

/-- A received figure brought to the canonical shape of kind `k` (R11). -/
def rescale (k : FigKind) (f : Fig) : Fig :=
  if f.point ≤ k.point then formFig k (f.int * (10 ^ (k.point - f.point) : Nat)) f.mark
  else formFig k (roundHalfUp f.int (10 ^ (f.point - k.point))) f.mark

/-- The signed magnitude aligned to point position `p` (R8). -/
def Fig.aligned (f : Fig) (p : Nat) : Int := f.int * (10 ^ (p - f.point) : Nat)

/-- `f ≥ g` by exact values (R13). -/
def Fig.ge (f g : Fig) : Bool := decide (g.aligned (max f.point g.point) ≤ f.aligned (max f.point g.point))

/-- `f` and `g` have equal values; the marks play no part (R13). -/
def Fig.same (f g : Fig) : Bool := f.ge g && g.ge f

/-- `f ≥ g` where either may be absent: an absent operand makes the comparison fail (R14). -/
def figGe : Option Fig → Option Fig → Bool
  | some f, some g => f.ge g
  | _, _ => false

/-- The per-cell value of a module voltage in mV for `cells` cells, in 0.1 mV (R62, R68). -/
def perCell (millivolts cells : Nat) : Nat := (roundHalfUp (millivolts * 10) cells).toNat

/-- The state of charge of a per-cell value `u` on the points that remain, `k` of them passed (R68). -/
def socFrom (u : Nat) : Nat → List Nat → Nat
  | k, v :: w :: rest =>
    if u ≤ v then 1000 * k
    else if u < w then 1000 * k + (roundHalfUp (1000 * ((u : Int) - v)) (w - v)).toNat
    else socFrom u (k + 1) (w :: rest)
  | k, _ => 1000 * k

/-- The state of charge, in 0.01 %, of a module voltage in mV on a profile (R68). -/
def socOf (p : Profile) (millivolts : Nat) : Nat :=
  socFrom (perCell millivolts p.cells) 0 (p.points.map Fig.mag)

/-- The points Vk and Vk+1 of a profile, in 0.1 mV. -/
def Profile.pointAt (p : Profile) (k : Nat) : Nat := ((p.points.map Fig.mag)[k]?).getD 0

/-- The module voltage in mV that a state of charge stands for on a profile, each formula rounded at its own
end (R170). -/
def voltageOf (p : Profile) (s : Nat) : Nat :=
  let k := s / 1000
  let u : Nat :=
    if 10000 ≤ s then p.pointAt 10
    else (roundHalfUp ((p.pointAt k : Int) * 1000 + ((p.pointAt (k + 1) : Int) - p.pointAt k) * (s - 1000 * k : Nat)) 1000).toNat
  (roundHalfUp (u * p.cells) 10).toNat

/-- One component of the mismatch score (R147): 1000 × |a − b| / max(a, b), and 0 for a pair of zeros. -/
def scoreComponent (a b : Nat) : Nat :=
  if max a b = 0 then 0 else (roundHalfUp (1000 * ((a : Int) - b).natAbs) (max a b)).toNat

/-- The mismatch score of two records with magnitudes `qa ra` and `qb rb` under the weights (R147). -/
def mismatch (wQ wR qa ra qb rb : Nat) : Fig :=
  formFig .sco ((wQ * scoreComponent qa qb + wR * scoreComponent ra rb : Nat) : Int)

/-- The headroom figure (R131): `span` in 0.01 % (negative outside the serve window) times the capacity. -/
def headroomFig (span : Int) (capacity : Nat) : Fig := formQuotient .hdr (span * capacity) 10000

/-- The weight W of a weight code (R127). -/
def weightOf : Nat → Nat
  | 1 => 8 | 2 => 16 | 3 => 32 | 4 => 64 | 5 => 4 | 6 => 2 | 7 => 1 | _ => 0

/-- The rank of an initiator (R127). -/
def rankOf (wait code : Nat) : Nat := min 31 (roundHalfUp ((wait + 1) * weightOf code) 8).toNat

/-- The pool draw of `k` units with dedicated share `d` (R117). -/
def drawOf (d k : Nat) : Nat := k - min k d + 1

end Sys2Proof.Machine
end

