-- ==== Sys2Proof/Machine/Codec.lean ====
section
/-! DEFINITION. The rack line's formats (chapter 2): the frame with its check sequence and the checks of R23,
the notice kinds of R29, the payload encoding of R30, R31, R34, the decoding of R32, R33, and the field list of
each notice kind. -/

namespace Sys2Proof.Machine

/-! ### Frames (R17-R19, R23) -/

/-- The low `n` bits of a number, most significant first (R17). -/
def bitsOf : Nat → Nat → List Bool
  | 0, _ => []
  | n + 1, v => (v / 2 ^ n % 2 == 1) :: bitsOf n v

/-- One step of the check register for one protected bit (R19). -/
def checkStep (reg : BitVec 16) (bit : Bool) : BitVec 16 :=
  if bit == reg.msb then reg <<< 1 else (reg <<< 1) ^^^ 0x1021#16

/-- The check register after the protected bits, started at all ones (R19). -/
def checkOf (bits : List Bool) : BitVec 16 := bits.foldl checkStep 0xFFFF#16

/-- The protected bits of a frame: priority, source field, kind, payload length, payload (R19). -/
def protectedBits (priority source kind length : Nat) (payload : List Byte) : List Bool :=
  bitsOf 8 priority ++ bitsOf 6 source ++ bitsOf 5 kind ++ bitsOf 6 length ++ payload.flatMap fun b => bitsOf 8 b.toNat

/-- All the bits of a frame in line order (R18). -/
def frameBits (f : RawFrame) : List Bool :=
  true :: protectedBits f.priority.toNat f.source.toNat f.kind.toNat f.length.toNat f.payload
    ++ bitsOf 16 f.check.toNat ++ [f.endMark]

/-- The arbitration value: priority and source field taken together (R18). -/
def arbitrationOf (f : RawFrame) : Nat := f.priority.toNat * 64 + f.source.toNat

/-- The code of a notice kind (R29). -/
def Kind.code : Kind → Nat
  | .plan => 1 | .directive => 2 | .query => 3 | .presence => 4 | .grade => 5 | .readout => 6 | .fault => 7
  | .need => 8 | .offer => 9 | .agree => 10 | .release => 11 | .suspend => 12 | .resume => 13 | .propose => 14
  | .bind => 15 | .unbind => 16 | .claim => 17 | .engage => 18 | .vacate => 19

/-- The notice kind of a kind code; 0 and 20..31 are unknown (R23, R29). -/
def kindOf : Nat → Option Kind
  | 1 => some .plan | 2 => some .directive | 3 => some .query | 4 => some .presence | 5 => some .grade
  | 6 => some .readout | 7 => some .fault | 8 => some .need | 9 => some .offer | 10 => some .agree
  | 11 => some .release | 12 => some .suspend | 13 => some .resume | 14 => some .propose | 15 => some .bind
  | 16 => some .unbind | 17 => some .claim | 18 => some .engage | 19 => some .vacate | _ => none

/-- What the checks of R23 make of a frame. -/
inductive Verdict where
  /-- A receive error: bad length, broken frame or bad check sequence. -/
  | error
  /-- Discarded silently: unknown kind or impossible source. -/
  | silent
  /-- Heard, of this kind from this source address. -/
  | heard (k : Kind) (source : Nat)
deriving DecidableEq, Repr

/-- The checks of R23 in order; the first failure decides. -/
def verdictOf (f : RawFrame) : Verdict :=
  if 40 < f.length.toNat then .error
  else if f.payload.length ≠ f.length.toNat ∨ f.endMark = false then .error
  else if f.check ≠ checkOf (protectedBits f.priority.toNat f.source.toNat f.kind.toNat f.length.toNat f.payload) then .error
  else match kindOf f.kind.toNat with
    | none => .silent
    | some k => if f.source.toNat < 15 then .silent else .heard k (63 - f.source.toNat)

/-- The frame by which a node of address `address` sends a notice (R18, R19, R24). -/
def Queued.frame (q : Queued) (address : Nat) : RawFrame :=
  { priority := BitVec.ofNat 8 q.priority, source := BitVec.ofNat 6 (63 - address)
    kind := BitVec.ofNat 5 q.kind.code, length := BitVec.ofNat 6 q.payload.length, payload := q.payload
    check := checkOf (protectedBits (BitVec.ofNat 8 q.priority).toNat (BitVec.ofNat 6 (63 - address)).toNat
      (BitVec.ofNat 5 q.kind.code).toNat (BitVec.ofNat 6 q.payload.length).toNat q.payload)
    endMark := true }

/-- The stations that may send a kind (R29): station 0, the nodes, or both. -/
def Kind.mayCome (k : Kind) (source : Nat) : Bool :=
  match k with
  | .plan => source == 0
  | .directive => source == 0
  | .query => source == 0
  | .offer => source ≤ 48
  | .release => source ≤ 48
  | .suspend => source ≤ 48
  | .resume => source ≤ 48
  | .presence => 1 ≤ source && source ≤ 48
  | .grade => 1 ≤ source && source ≤ 48
  | .readout => 1 ≤ source && source ≤ 48
  | .fault => 1 ≤ source && source ≤ 48
  | .need => 1 ≤ source && source ≤ 48
  | .agree => 1 ≤ source && source ≤ 48
  | .propose => 1 ≤ source && source ≤ 48
  | .bind => 1 ≤ source && source ≤ 48
  | .unbind => 1 ≤ source && source ≤ 48
  | .claim => 1 ≤ source && source ≤ 48
  | .engage => 1 ≤ source && source ≤ 48
  | .vacate => 1 ≤ source && source ≤ 48

/-- The priority of a kind, `rank` added for NEED and AGREE (R29). -/
def Kind.priority (k : Kind) (rank : Nat) : Nat :=
  match k with
  | .plan => 90 | .directive => 110 | .query => 70 | .presence => 80 | .grade => 100 | .readout => 60
  | .fault => 250 | .need => 160 + rank | .offer => 150 | .agree => 200 + rank | .release => 240
  | .suspend => 244 | .resume => 238 | .propose => 130 | .bind => 140 | .unbind => 142 | .claim => 120
  | .engage => 122 | .vacate => 124

/-! ### Building payloads (R30, R31, R34) -/

/-- A number below 256 as a byte. -/
def byte (n : Nat) : Byte := BitVec.ofNat 8 n

/-- The two nibbles of a byte, high first (R31). -/
def nibbles (b : Byte) : List Nat := [b.toNat / 16, b.toNat % 16]

/-- Nibbles packed two to a byte (R31). -/
def pack : List Nat → List Byte
  | a :: b :: rest => byte (a * 16 + b) :: pack rest
  | [a] => [byte (a * 16)]
  | [] => []

/-- The `n` decimal digits of a magnitude, most significant first (R31). -/
def digitsOf : Nat → Nat → List Nat
  | 0, _ => []
  | n + 1, m => m / 10 ^ n % 10 :: digitsOf n m

/-- The sign nibble: sign and clamp mark (R31). -/
def Fig.signNibble (f : Fig) : Nat :=
  match f.neg, f.mark with
  | false, false => 10 | true, false => 11 | false, true => 12 | true, true => 13

/-- A figure's packed digits: a pad nibble where n + 1 is odd, the digits, the sign nibble (R31). -/
def Fig.packed (f : Fig) : List Byte :=
  pack ((if f.digits % 2 = 0 then [0] else []) ++ digitsOf f.digits f.mag ++ [f.signNibble])

/-- A signed value as its two's-complement byte (R30). -/
def signedByte (i : Int) : Byte := BitVec.ofInt 8 i

/-- A field as the node writes it: form 0, 1 or 7, 2, 3, 6 (R34). -/
def encodeField (code : Nat) : Value → List Byte
  | .notKnown => [byte code]
  | .num n => if n < 256 then [byte (16 + code), byte n] else [byte (112 + code), byte (n / 256), byte (n % 256)]
  | .signed i => [byte (32 + code), signedByte i]
  | .fig f => byte (48 + code) :: byte (f.digits * 16 + f.point) :: f.packed
  | .list l => byte (96 + code) :: byte l.length :: l.map byte

/-- A payload: the fields in order (R34). -/
def encodeFields (fields : List (Nat × Value)) : List Byte := fields.flatMap fun f => encodeField f.1 f.2

/-! ### Reading payloads (R30-R32) -/

/-- The first `n` bytes and what follows, or none where there are fewer (R32). -/
def takeBytes : Nat → List Byte → Option (List Byte × List Byte)
  | 0, bs => some ([], bs)
  | _ + 1, [] => none
  | n + 1, b :: bs => (takeBytes n bs).map fun r => (b :: r.1, r.2)

/-- A valid shape has n in 1..7 and p in 0..n (R30). -/
def shapeOf (b : Byte) : Option (Nat × Nat) :=
  let n := b.toNat / 16
  let p := b.toNat % 16
  if 1 ≤ n ∧ n ≤ 7 ∧ p ≤ n then some (n, p) else none

/-- Digit nibbles and a sign nibble read as a magnitude, sign and mark (R31, R32). -/
def readDigits : Nat → List Nat → Option (Nat × Bool × Bool)
  | m, [s] =>
    if s = 10 then some (m, false, false) else if s = 11 then some (m, true, false)
    else if s = 12 then some (m, false, true) else if s = 13 then some (m, true, true) else none
  | m, d :: rest => if d ≤ 9 then readDigits (10 * m + d) rest else none
  | _, [] => none

/-- A figure of shape (n, p) read from its packed bytes; a pad nibble must be 0 (R31, R32). -/
def readFig (n p : Nat) (bs : List Byte) : Option Fig :=
  let ns := bs.flatMap nibbles
  let body := if n % 2 = 0 then (if ns.head? = some 0 then ns.tail else []) else ns
  (readDigits 0 body).map fun r => { neg := r.2.1, digits := n, point := p, mag := r.1, mark := r.2.2 }

/-- The bytes a packed figure of `n` digits fills: ceil((n + 1) / 2) (R31). -/
def packedLength (n : Nat) : Nat := (n + 2) / 2

/-- What one field leaves: the current shape, the field (none for a shape setter or an annex), the rest. -/
abbrev FieldRead := Option (Option (Nat × Nat) × Option (Nat × Value) × List Byte)

/-- Reads a figure of shape (n, p) from the bytes after a descriptor (and shape byte). -/
def readFigField (shape : Option (Nat × Nat)) (code n p : Nat) (rest : List Byte) : FieldRead :=
  match takeBytes (packedLength n) rest with
  | some (bs, rest') => (readFig n p bs).map fun f => (shape, some (code, .fig f), rest')
  | none => none

/-- Reads one field after its descriptor of this form and field code (R30, R32). -/
def readForm (shape : Option (Nat × Nat)) (form code : Nat) (rest : List Byte) : FieldRead :=
  match form, rest with
  | 0, rest => some (shape, some (code, .notKnown), rest)
  | 1, b :: rest => some (shape, some (code, .num b.toNat), rest)
  | 2, b :: rest => some (shape, some (code, .signed b.toInt), rest)
  | 3, b :: rest =>
    match shapeOf b with
    | some (n, p) => readFigField shape code n p rest
    | none => none
  | 4, rest =>
    match shape with
    | some (n, p) => readFigField shape code n p rest
    | none => none
  | 5, b :: rest => if code = 0 then (shapeOf b).map fun s => (some s, none, rest) else none
  | 6, b :: rest =>
    if b.toNat ≤ 15 then
      match takeBytes b.toNat rest with
      | some (as, rest') =>
        if as.all fun a => a.toNat ≤ 48 then some (shape, some (code, .list (as.map fun a => a.toNat)), rest') else none
      | none => none
    else none
  | 7, b :: c :: rest => some (shape, some (code, .num (b.toNat * 256 + c.toNat)), rest)
  | 8, b :: rest => (takeBytes b.toNat rest).map fun r => (shape, none, r.2)
  | 9, b :: rest => (takeBytes b.toNat rest).map fun r => (shape, none, r.2)
  | _, _ => none

/-- Reads the fields of a payload one by one; none where R32 discards the notice. `fuel` is at least the
number of bytes. -/
def readFields : Nat → Option (Nat × Nat) → List Byte → Option (List (Nat × Value))
  | _, _, [] => some []
  | 0, _, _ :: _ => none
  | fuel + 1, shape, d :: rest =>
    match readForm shape (d.toNat / 16) (d.toNat % 16) rest with
    | some (shape', field, rest') =>
      (readFields fuel shape' rest').map fun fs => match field with | some f => f :: fs | none => fs
    | none => none

/-- The fields of a payload in order, form 5 fields and annexes left out; none where R32 discards it. -/
def parse (payload : List Byte) : Option (List (Nat × Value)) := readFields payload.length none payload

/-! ### Interpreting fields (R33) -/

/-- The type of a field in a field list. `anyFig` is a figure whose kind another field names. -/
inductive FieldType where
  | num | signed | list | fig (k : FigKind) | anyFig
deriving DecidableEq, Repr

/-- A line of a field list: code, type, mandatory or optional. -/
structure FieldSpec where
  code : Nat
  type : FieldType
  mandatory : Bool
deriving DecidableEq, Repr

/-- The standing value of a code: its last occurrence (R33, step 2). -/
def standing (code : Nat) : List (Nat × Value) → Option Value
  | [] => none
  | (c, v) :: rest =>
    match standing code rest with
    | some w => some w
    | none => if c = code then some v else none

/-- Whether a standing value suits a field's type; form 0 suits every type (R33, step 3). -/
def FieldType.suits (t : FieldType) (v : Value) : Bool :=
  match v, t with
  | .notKnown, _ => true
  | .num _, .num => true
  | .signed _, .signed => true
  | .list _, .list => true
  | .fig _, .fig _ => true
  | .fig _, .anyFig => true
  | _, _ => false

/-- Steps 3 and 4 of R33 for one line of the field list. -/
def FieldSpec.holds (fs : List (Nat × Value)) (s : FieldSpec) : Bool :=
  match standing s.code fs with
  | none => !s.mandatory
  | some v => s.type.suits v && !(s.mandatory && v == .notKnown)

/-- The unsigned number standing under a code; none where missing or not known, which R33 delivers apart. Only a QUERY's part
and peer could tell the two apart (R181), and they do not (the model's choice, log entry 21). -/
def numAt (fs : List (Nat × Value)) (code : Nat) : Option Nat :=
  match standing code fs with
  | some (.num n) => some n
  | _ => none

/-- The number of a mandatory field, whose presence `FieldSpec.holds` has tested. -/
def needNum (fs : List (Nat × Value)) (code : Nat) : Nat := (numAt fs code).getD 0

/-- The figure standing under a code, brought to the canonical shape of its kind (R33, step 5). -/
def figAt (fs : List (Nat × Value)) (code : Nat) (k : FigKind) : Option Fig :=
  match standing code fs with
  | some (.fig f) => some (rescale k f)
  | _ => none

/-- The address list standing under a code. -/
def listAt (fs : List (Nat × Value)) (code : Nat) : Option (List Nat) :=
  match standing code fs with
  | some (.list l) => some l
  | _ => none

/-- A mandatory unsigned field. -/
def must (code : Nat) : FieldSpec := ⟨code, .num, true⟩
/-- An optional unsigned field. -/
def may (code : Nat) : FieldSpec := ⟨code, .num, false⟩
/-- A mandatory figure field. -/
def mustFig (code : Nat) (k : FigKind) : FieldSpec := ⟨code, .fig k, true⟩
/-- An optional figure field. -/
def mayFig (code : Nat) (k : FigKind) : FieldSpec := ⟨code, .fig k, false⟩

/-- The items of a section of the plan (R40); every item is optional to the Codec. -/
def sectionItems (sect : Nat) : List FieldSpec :=
  if sect = 0 then [5, 6, 7, 8, 9, 10, 11, 12, 13, 14].map may
  else if sect = 1 then [5, 6, 7, 8, 9, 10, 11, 12].map may
  else if sect = 2 then [5, 6, 7, 8, 9, 10, 11, 12, 13].map may
  else if sect = 3 then [may 5, ⟨6, .list, false⟩]
  else if sect ≤ 7 then [may 5, mayFig 6 .nam, mayFig 7 .cel, mayFig 8 .cel, mayFig 9 .tmp, mayFig 10 .tmp]
  else if sect ≤ 11 then [5, 6, 7, 8, 9, 10, 11, 12, 13, 14, 15].map (mayFig · .cel)
  else if sect ≤ 14 then
    [⟨5, .list, false⟩, ⟨6, .list, false⟩, ⟨7, .list, false⟩] ++ [8, 9, 10, 11, 12, 13].map fun c => ⟨c, .anyFig, false⟩
  else []

/-- The fields of a READOUT part beside its part number (R181). -/
def readoutItems (part : Nat) : List FieldSpec :=
  if part = 0 then
    [may 1, may 2, may 3, mayFig 4 .cap, mayFig 5 .res, mayFig 6 .hlt, mayFig 7 .sdr, mayFig 8 .ocv, mayFig 9 .tmp]
  else if part = 1 then [1, 2, 3, 4, 5, 6, 7, 8, 9, 10, 11, 12, 13, 14, 15].map may
  else if part = 2 then [1, 2, 3, 4, 5, 6, 7, 8, 9, 10, 11, 12, 13, 14, 15].map may
  else if part = 3 then
    [⟨1, .list, false⟩, ⟨2, .list, false⟩] ++ [3, 4, 5, 6, 7, 8, 9, 10, 11].map may
  else []

/-- The field list of a notice kind; for PLAN and READOUT it depends on the section or part, read from the notice itself
(R40, R47, R96, R120, R121, R128, R130, R131, R149, R151, R152, R166, R180, R181, R182). The expected charge of an AGREE,
code 6, is optional for either kind: what a TEST AGREE without it is, R130 leaves open, and here it is judged like any other
(the model's choice, log entry 40). -/
def Kind.fields (k : Kind) (fs : List (Nat × Value)) : List FieldSpec :=
  match k with
  | .plan => [must 1, must 2, must 3, must 4] ++ sectionItems (needNum fs 4)
  | .directive => [must 0, must 1]
  | .query => [must 0, may 1, may 2]
  | .presence => [must 0, may 1, must 2, must 3, mayFig 4 .soc, must 5, may 6, may 7, must 8, may 9, may 10, may 11,
      may 12, may 13, must 14, must 15]
  | .grade => [must 0, must 1, may 2, may 3, mayFig 4 .cap, mayFig 5 .res, mayFig 6 .hlt, mayFig 7 .sdr, mayFig 8 .ocv,
      mayFig 9 .tmp, must 10]
  | .readout => must 0 :: readoutItems (needNum fs 0)
  | .fault => [must 0, must 1, may 2, must 3]
  | .need => [must 0, must 1, must 2, mustFig 3 .hdr]
  | .offer => [must 0, mustFig 1 .hdr]
  | .agree => [must 0, must 1, must 2, must 3, must 4, must 5, mayFig 6 .hdr]
  | .release => [must 0, must 1, must 2]
  | .suspend => [must 0]
  | .resume => [must 0]
  | .propose => [must 0, mustFig 1 .sco, must 2, must 3]
  | .bind => [must 0]
  | .unbind => [must 0, must 1]
  | .claim => [must 0, must 1]
  | .engage => [must 0, must 1, mayFig 2 .soc, mayFig 3 .ocv]
  | .vacate => [must 0, must 1, must 2]

/-! ### Notices -/

/-- The exchange statement of a PRESENCE as carried (R47): omitted, not whole, or whole. -/
inductive Stated where
  | omitted
  | broken
  | whole (s : Statement)
deriving DecidableEq, Repr

/-- A PRESENCE as delivered (R47). -/
structure PresenceNotice where
  nodeState : Nat
  planId : Option Nat
  gradeState : Nat
  generation : Nat
  soc : Option Fig
  pairState : Nat
  partner : Option Nat
  position : Option Nat
  silent : Nat
  stated : Stated
  faults : Nat
  result : Nat
deriving DecidableEq, Repr

/-- A notice as the Codec delivers it, its figures in canonical shape (R12, R33). -/
inductive Notice where
  | plan (p : PlanPart)
  | directive (node kind : Nat)
  | query (node : Nat) (part peer : Option Nat)
  | presence (p : PresenceNotice)
  | grade (generation cls : Nat) (profile : Option Nat) (cap res : Option Fig)
  | readout (part : Nat)
  | fault (code state : Nat)
  | need (id dir units : Nat) (expected : Fig)
  | offer (id : Nat) (headroom : Fig)
  | agree (id counterpart kind dir units draw : Nat) (expected : Option Fig)
  | release (id units cause : Nat)
  | suspend (id : Nat)
  | resume (id : Nat)
  | propose (target : Nat) (score : Fig) (generation held : Nat)
  | bind (node : Nat)
  | unbind (node cause : Nat)
  | claim (position partner : Nat)
  | engage (position step : Nat) (soc voltage : Option Fig)
  | vacate (position step reason : Nat)
deriving DecidableEq, Repr

/-- The figure kind that a criterion's kind entry names (R40). -/
def criterionKind : Nat → Option FigKind
  | 1 => some .cap | 2 => some .res | 3 => some .hlt | 4 => some .sdr | 5 => some .ocv | 6 => some .tmp | _ => none

/-- The items of a PLAN part as delivered: each standing item, figures rescaled; a chain limit is rescaled to the
kind its entry in code 5 of the same notice names, and keeps its received shape where none does (R33, R40). -/
def planItems (sect : Nat) (fs : List (Nat × Value)) : List (Nat × Value) :=
  (sectionItems sect).filterMap fun s =>
    match standing s.code fs with
    | none => none
    | some (.fig f) =>
      match s.type with
      | .fig k => some (s.code, .fig (rescale k f))
      | _ =>
        match ((listAt fs 5).getD [])[s.code - 8]? with
        | some e => match criterionKind e with
          | some k => some (s.code, .fig (rescale k f))
          | none => some (s.code, .fig f)
        | none => some (s.code, .fig f)
    | some v => some (s.code, v)

/-- The exchange statement carried in codes 9 to 13: omitted where none of the five has a value, whole where all five
have one, and broken otherwise. A field of form 0, "not known", counts as omitted, which R33 and R47 leave open for a
statement field (DEDUCED from R50, log entry 15). -/
def statedAt (fs : List (Nat × Value)) : Stated :=
  match numAt fs 9, numAt fs 10, numAt fs 11, numAt fs 12, numAt fs 13 with
  | some id, some role, some other, some units, some draw => .whole ⟨id, role, other, units, draw⟩
  | none, none, none, none, none => .omitted
  | _, _, _, _, _ => .broken

/-- The notice that well-formed and suitable fields make. A QUERY whose part or peer is carried as "not known" is taken as one
that names none (the model's choice, log entry 21). -/
def Kind.notice (k : Kind) (fs : List (Nat × Value)) : Notice :=
  match k with
  | .plan => .plan { identity := needNum fs 1, index := needNum fs 2, count := needNum fs 3, sect := needNum fs 4
                     items := planItems (needNum fs 4) fs }
  | .directive => .directive (needNum fs 0) (needNum fs 1)
  | .query => .query (needNum fs 0) (numAt fs 1) (numAt fs 2)
  | .presence => .presence
      { nodeState := needNum fs 0, planId := numAt fs 1, gradeState := needNum fs 2, generation := needNum fs 3
        soc := figAt fs 4 .soc, pairState := needNum fs 5, partner := numAt fs 6, position := numAt fs 7
        silent := needNum fs 8, stated := statedAt fs, faults := needNum fs 14, result := needNum fs 15 }
  | .grade => .grade (needNum fs 0) (needNum fs 1) (numAt fs 2) (figAt fs 4 .cap) (figAt fs 5 .res)
  | .readout => .readout (needNum fs 0)
  | .fault => .fault (needNum fs 0) (needNum fs 1)
  | .need => .need (needNum fs 0) (needNum fs 1) (needNum fs 2) ((figAt fs 3 .hdr).getD (formFig .hdr 0))
  | .offer => .offer (needNum fs 0) ((figAt fs 1 .hdr).getD (formFig .hdr 0))
  | .agree => .agree (needNum fs 0) (needNum fs 1) (needNum fs 2) (needNum fs 3) (needNum fs 4) (needNum fs 5)
      (figAt fs 6 .hdr)
  | .release => .release (needNum fs 0) (needNum fs 1) (needNum fs 2)
  | .suspend => .suspend (needNum fs 0)
  | .resume => .resume (needNum fs 0)
  | .propose => .propose (needNum fs 0) ((figAt fs 1 .sco).getD (formFig .sco 0)) (needNum fs 2) (needNum fs 3)
  | .bind => .bind (needNum fs 0)
  | .unbind => .unbind (needNum fs 0) (needNum fs 1)
  | .claim => .claim (needNum fs 0) (needNum fs 1)
  | .engage => .engage (needNum fs 0) (needNum fs 1) (figAt fs 2 .soc) (figAt fs 3 .ocv)
  | .vacate => .vacate (needNum fs 0) (needNum fs 1) (needNum fs 2)

/-- The Notice Codec: a payload of kind `k` from `source` becomes a notice, or none where R29, R32 or R33
discards it. -/
def decode (k : Kind) (source : Nat) (payload : List Byte) : Option Notice :=
  if k.mayCome source then
    match parse payload with
    | some fs => if (k.fields fs).all (FieldSpec.holds fs) then some (k.notice fs) else none
    | none => none
  else none

/-! ### The field values of the notices that the node sends (R34) -/

/-- An optional unsigned field as sent. -/
def optNum : Option Nat → Value
  | some n => .num n
  | none => .notKnown

/-- An optional figure field as sent (R15). -/
def optFig : Option Fig → Value
  | some f => .fig f
  | none => .notKnown

/-- A flag as sent. -/
def bit (b : Bool) : Nat := if b then 1 else 0

/-- The statement fields 9 to 13, or none of them (R47). -/
def statementFields : Option Statement → List (Nat × Value)
  | some s => [(9, .num s.id), (10, .num s.role), (11, .num s.other), (12, .num s.units), (13, .num s.draw)]
  | none => []

/-- The fields of a PRESENCE (R47). -/
def presenceFields (nodeState : Nat) (planId : Option Nat) (gradeState generation : Nat) (soc : Option Fig)
    (pairState : Nat) (partner position : Option Nat) (silent : Bool) (st : Option Statement) (faults result : Nat) :
    List (Nat × Value) :=
  [(0, .num nodeState), (1, optNum planId), (2, .num gradeState), (3, .num generation), (4, optFig soc),
    (5, .num pairState), (6, optNum partner), (7, optNum position), (8, .num (bit silent))] ++ statementFields st
    ++ [(14, .num faults), (15, .num result)]

/-- The fields of a GRADE (R96). -/
def gradeFields (generation cls : Nat) (r : Record) : List (Nat × Value) :=
  [(0, .num generation), (1, .num cls), (2, optNum r.profile), (3, optNum r.cells), (4, optFig r.cap),
    (5, optFig r.res), (6, optFig r.hlt), (7, optFig r.sdr), (8, optFig r.ocv), (9, optFig r.tmp), (10, .num r.attempts)]

/-- The fields of a FAULT (R180). -/
def faultFields (code state : Nat) (detail : Option Nat) (active : Nat) : List (Nat × Value) :=
  [(0, .num code), (1, .num state), (2, optNum detail), (3, .num active)]

/-- The fields of a NEED (R128). -/
def needFields (id dir units : Nat) (expected : Fig) : List (Nat × Value) :=
  [(0, .num id), (1, .num dir), (2, .num units), (3, .fig expected)]

/-- The fields of an OFFER (R131). -/
def offerFields (id : Nat) (headroom : Fig) : List (Nat × Value) := [(0, .num id), (1, .fig headroom)]

/-- The fields of an AGREE; a JOIN carries no expected charge (R130). -/
def agreeFields (id counterpart kind dir units draw : Nat) (expected : Option Fig) : List (Nat × Value) :=
  [(0, .num id), (1, .num counterpart), (2, .num kind), (3, .num dir), (4, .num units), (5, .num draw)]
    ++ (match expected with | some f => [(6, .fig f)] | none => [])

/-- The fields of a RELEASE (R120). -/
def releaseFields (id units cause : Nat) : List (Nat × Value) := [(0, .num id), (1, .num units), (2, .num cause)]

/-- The one field of SUSPEND, RESUME (R121) and BIND (R151). -/
def oneField (n : Nat) : List (Nat × Value) := [(0, .num n)]

/-- The two fields of UNBIND (R152) and CLAIM (R166). -/
def twoFields (a b : Nat) : List (Nat × Value) := [(0, .num a), (1, .num b)]

/-- The fields of a PROPOSE (R149). -/
def proposeFields (target : Nat) (score : Fig) (generation held : Nat) : List (Nat × Value) :=
  [(0, .num target), (1, .fig score), (2, .num generation), (3, .num held)]

/-- The fields of an ENGAGE (R166). -/
def engageFields (position step : Nat) (soc voltage : Option Fig) : List (Nat × Value) :=
  [(0, .num position), (1, .num step), (2, optFig soc), (3, optFig voltage)]

/-- The fields of a VACATE (R166). -/
def vacateFields (position step reason : Nat) : List (Nat × Value) :=
  [(0, .num position), (1, .num step), (2, .num reason)]

end Sys2Proof.Machine
end

