-- ==== Sys2Proof/Machine/Ops.lean ====
section
/-! DEFINITION. The operations that every block shares: updating one block, timers, the codes that stand for
states on the line, the transmit queue (R26-R28), handing a notice to the Codec (R34), and what the stored plan
and the carrier tag give. -/

namespace Sys2Proof.Machine

/-! ### Updating one block -/

/-- Updates the Line Interface. -/
def Node.onLine (n : Node) (f : Line → Line) : Node := { n with line := f n.line }
/-- Updates the Presence Controller. -/
def Node.onPres (n : Node) (f : Presence → Presence) : Node := { n with pres := f n.pres }
/-- Updates the Peer Table. -/
def Node.onPeers (n : Node) (f : Peers → Peers) : Node := { n with peers := f n.peers }
/-- Updates the Module Monitor. -/
def Node.onMon (n : Node) (f : Monitor → Monitor) : Node := { n with mon := f n.mon }
/-- Updates the Duty Level Controller. -/
def Node.onDuty (n : Node) (f : Duty → Duty) : Node := { n with duty := f n.duty }
/-- Updates the Grade Engine. -/
def Node.onGrade (n : Node) (f : Grader → Grader) : Node := { n with grade := f n.grade }
/-- Updates the Rail Allocator. -/
def Node.onRail (n : Node) (f : Rail → Rail) : Node := { n with rail := f n.rail }
/-- Updates the Pairing Engine. -/
def Node.onPair (n : Node) (f : Pairing → Pairing) : Node := { n with pair := f n.pair }
/-- Updates the Position Manager. -/
def Node.onPos (n : Node) (f : Positions → Positions) : Node := { n with pos := f n.pos }
/-- Updates Status and Service. -/
def Node.onServ (n : Node) (f : Service → Service) : Node := { n with serv := f n.serv }

/-! ### Codes on the line -/

/-- The node state as PRESENCE carries it (R47); a node sends none in the other states. -/
def NodeState.code : NodeState → Nat
  | .unplanned => 1 | .active => 2 | .hold => 3 | .listen => 0 | .quiet => 0 | .strapFault => 0 | .clashed => 0

/-- The node state a PRESENCE states; none outside the numbering of R47. -/
def nodeStateOf : Nat → Option NodeState
  | 1 => some .unplanned | 2 => some .active | 3 => some .hold | _ => none

/-- The code of a grade state (R92). -/
def GradeState.code : GradeState → Nat
  | .ungraded => 0 | .restA => 1 | .pulse => 2 | .capTest => 3 | .restB => 4 | .compute => 5 | .graded => 6
  | .selfRest => 7 | .failed => 8 | .regrading => 9

/-- The grade state of a code; none outside the numbering of R92. -/
def gradeStateOf : Nat → Option GradeState
  | 0 => some .ungraded | 1 => some .restA | 2 => some .pulse | 3 => some .capTest | 4 => some .restB
  | 5 => some .compute | 6 => some .graded | 7 => some .selfRest | 8 => some .failed | 9 => some .regrading | _ => none

/-- The code of a pair state (R145). -/
def PairState.code : PairState → Nat
  | .unpaired => 0 | .seeking => 1 | .proposing => 2 | .bound => 3 | .joining => 4 | .joined => 5 | .leaving => 6

/-- The pair state of a code; none outside the numbering of R145. -/
def pairStateOf : Nat → Option PairState
  | 0 => some .unpaired | 1 => some .seeking | 2 => some .proposing | 3 => some .bound | 4 => some .joining
  | 5 => some .joined | 6 => some .leaving | _ => none

/-- Node state, grade state and pair state of a PRESENCE lie within their numberings; one that fails this counts for the
age of its entry only (R50). -/
def PresenceNotice.numbered (p : PresenceNotice) : Bool :=
  (nodeStateOf p.nodeState).isSome && (gradeStateOf p.gradeState).isSome && (pairStateOf p.pairState).isSome

/-- The number of a class (R96). -/
def Class.code : Class → Nat
  | .none => 0 | .a => 1 | .b => 2 | .c => 3 | .reject => 4

/-- The class of a number; none outside the numbering of R96. -/
def classOf : Nat → Option Class
  | 0 => some .none | 1 => some .a | 2 => some .b | 3 => some .c | 4 => some .reject | _ => none

/-- A, B or C: the classes that may pair (R56, R57). -/
def Class.pairs (x : Class) : Bool := x == .a || x == .b || x == .c

/-- The number of a fault code (R179). -/
def FaultCode.number : FaultCode → Nat
  | .strap => 1 | .addressClash => 2 | .planInvalid => 3 | .planConflict => 4 | .lineQuiet => 5 | .limit => 6
  | .tag => 7 | .contactor => 8 | .gradeFail => 9 | .equalizeFail => 10

/-- The number of a breach kind (R180). -/
def BreachKind.number : BreachKind → Nat
  | .current => 0 | .voltage => 1 | .temperature => 2

/-- The number of a VACATE reason (R166). -/
def Reason.code : Reason → Nat
  | .abort => 0 | .timeout => 1 | .contactor => 2 | .breach => 3 | .module => 4 | .directive => 5 | .ended => 6

/-- The VACATE reason of a number; a number outside the numbering counts as ENDED (log entry 22). -/
def reasonOf : Nat → Reason
  | 0 => .abort | 1 => .timeout | 2 => .contactor | 3 => .breach | 4 => .module | 5 => .directive | _ => .ended

/-- The phase number of R181. -/
def Phase.code : Phase → Nat
  | .none => 0 | .bonded => 1 | .claiming => 2 | .claimWait => 3 | .settleWait => 4 | .reported => 5
  | .transfer => 6 | .engaging => 7 | .inString => 8 | .vacating => 9

/-- The own-side number of R181. -/
def OwnSide.code : OwnSide → Nat
  | .idle => 0 | .waiting => 1 | .needing => 2 | .window => 3 | .agreeing => 4 | .starting => 5 | .party => 6

/-- The level state number of R181. -/
def LevelState.code : LevelState → Nat
  | .empty => 0 | .ready => 1 | .running => 2 | .suspended => 3 | .ending => 4

/-- The direction number of R181. -/
def Dir.code : Dir → Nat
  | .off => 0 | .source => 1 | .sink => 2

/-- A direction as NEED and AGREE carry it: 0 source, 1 sink (R128, R130). -/
def Dir.wire : Dir → Nat
  | .source => 0 | .sink => 1 | .off => 0

/-- The direction of a wire number; none outside its numbering. -/
def dirOf : Nat → Option Dir
  | 0 => some .source | 1 => some .sink | _ => none

/-- The other end's direction. -/
def Dir.opposite : Dir → Dir
  | .source => .sink | .sink => .source | .off => .off

/-! ### Time, node state, plan and profile -/

/-- The deadline of a timer of `ms` started now. -/
def Node.after (n : Node) (ms : Nat) : Timer := some (n.mon.now + ms)

/-- The moment of the next hand-over of a notice handed now and under repeat: 1000 ms from now (R140, R164). -/
def Node.repeatAt (n : Node) : Nat := n.mon.now + 1000

/-- The notices under repeat after the interval of `x` has ended: its next hand-over is at `t`, the others stand
(R140, R164). -/
def restartRepeat {α : Type} [DecidableEq α] (x : α) (t : Nat) (l : List (α × Nat)) : List (α × Nat) :=
  l.map fun y => if y.1 = x then (x, t) else y

/-- The node is neither in STRAPFAULT nor in CLASHED, where no block starts work (R45). -/
def Node.live (n : Node) : Bool := n.pres.state != .strapFault && n.pres.state != .clashed

/-- The node is ACTIVE (R36). -/
def Node.active (n : Node) : Bool := n.pres.state == .active

/-- The node's address. -/
def Node.address (n : Node) : Nat := n.pres.address

/-- The peer lifetime in ms (R53). -/
def Plan.lifetime (p : Plan) : Nat := p.lifetimeCount * p.presencePeriod

/-- The pool: the rail units that are no dedicated share (R117). -/
def Plan.pool (p : Plan) : Nat := p.capacity - p.roster * p.share

/-- The row of an address (R49). -/
def Plan.row (p : Plan) (a : Nat) : Nat := (a - 1) / p.rowLength

/-- The number of positions of a row. -/
def Plan.positions (p : Plan) : Nat := p.rowLength / 2

/-- The weight code of an address (R40). -/
def Plan.weight (p : Plan) (a : Nat) : Nat := ((p.weights.find? fun w => w.1 == a).map Prod.snd).getD 0

/-- The address is a node address of the node's own row; false while no plan is stored. -/
def Node.ownRow (n : Node) (a : Nat) : Bool :=
  match n.pres.plan with
  | some p => 1 ≤ a && a ≤ 48 && p.row a == p.row n.address
  | none => false

/-- The profile of this id in the stored plan (R71). -/
def Node.planProfile (n : Node) (t : TagReading) : Option Profile :=
  match n.pres.plan with
  | some p => (p.profiles[t.profile.toNat]?).join
  | none => none

/-- The profile that the blocks use: the one of a VALID tag (R71). -/
def Node.profile (n : Node) : Option Profile :=
  if n.mon.tagState = .valid then n.planProfile n.mon.tag else none

/-! ### The transmit queue (R26-R28) -/

/-- The new notice takes the place of the queued one: PRESENCE, GRADE, or the same READOUT part (R26). -/
def Queued.replaces (q x : Queued) : Bool :=
  q.kind == x.kind && (q.kind == .presence || q.kind == .grade || (q.kind == .readout && q.part == x.part))

/-- Placed after every queued notice of equal or higher priority (R26). -/
def placeAfter (q : Queued) : List Queued → List Queued
  | [] => [q]
  | x :: xs => if q.priority ≤ x.priority then x :: placeAfter q xs else q :: x :: xs

/-- Placed ahead of every queued notice of equal priority and behind every higher one (R27). -/
def placeAhead (q : Queued) : List Queued → List Queued
  | [] => [q]
  | x :: xs => if q.priority < x.priority then x :: placeAhead q xs else q :: x :: xs

/-- The notice `q` in the place of the first queued one that it replaces (R26). -/
def replaceIn (q : Queued) : List Queued → List Queued
  | [] => []
  | x :: xs => if q.replaces x then q :: xs else x :: replaceIn q xs

/-- The queue is full: the new notice displaces the tail where its priority is greater (R26). -/
def offerFull (q : Queued) (l : List Queued) : List Queued :=
  match l.getLast? with
  | some t => if t.priority < q.priority then placeAfter q l.dropLast else l
  | none => l

/-- The queue after a notice is offered to it (R26). -/
def offerQueue (q : Queued) (l : List Queued) : List Queued :=
  if l.any q.replaces then replaceIn q l
  else if l.length < 8 then placeAfter q l
  else offerFull q l

/-- The queue after a frame that lost arbitration returns to it (R27). -/
def returnQueue (q : Queued) (l : List Queued) : List Queued :=
  if l.any q.replaces then l
  else if l.length < 8 then placeAhead q l
  else offerFull q l

/-- The queue takes notices: in every node state but QUIET, STRAPFAULT and CLASHED (R28). -/
def Node.queueOpen (n : Node) : Bool :=
  n.pres.state != .quiet && n.pres.state != .strapFault && n.pres.state != .clashed

/-- A block hands a notice to the Codec, which builds its payload and offers it to the queue (R26, R34). -/
def Node.handPart (n : Node) (k : Kind) (rank part : Nat) (fields : List (Nat × Value)) : Node :=
  if n.queueOpen then
    n.onLine fun l => { l with
      queue := offerQueue { kind := k, priority := k.priority rank, part := part, payload := encodeFields fields } l.queue }
  else n

/-- Hands a notice without rank or part. -/
def Node.hand (n : Node) (k : Kind) (fields : List (Nat × Value)) : Node := n.handPart k 0 0 fields

/-- Empties the transmit queue with the frame in transmission (R28). -/
def Node.emptyQueue (n : Node) : Node := n.onLine fun l => { l with queue := [], sending := none }

end Sys2Proof.Machine
end

