-- ==== Sys2Proof/Machine/Flags.lean ====
section
/-! DEFINITION. The fault list of Status and Service (R178-R180): reporting, latching and removing its entries. -/

namespace Sys2Proof.Machine

/-- A condition code stays active while its cause stands; the others are event codes (R179). -/
def FaultCode.condition : FaultCode → Bool
  | .planConflict => false | .contactor => false | .equalizeFail => false
  | .strap => true | .addressClash => true | .planInvalid => true | .lineQuiet => true | .limit => true
  | .tag => true | .gradeFail => true

/-- The number of active entries (R179). -/
def Service.active (s : Service) : Nat := (s.faults.filter FaultEntry.active).length

/-- Whole seconds since the release of the reset pin, staying at 65535 (R178). -/
def Node.seconds (n : Node) : Nat := min 65535 (n.mon.now / 1000)

/-- Hands the FAULT of an entry as it stands (R180). -/
def Node.handFault (n : Node) (e : FaultEntry) : Node :=
  n.hand .fault (faultFields e.code.number (if e.active then 0 else 1) (e.detail.map BreachKind.number) n.serv.active)

/-- Replaces the entry of `e`'s code by `e`. -/
def putFault (e : FaultEntry) (l : List FaultEntry) : List FaultEntry := l.map fun x => if x.code = e.code then e else x

/-- The list without its first latched entry, the one of earliest first-seen time; none where no entry is
latched. Among latched entries of one first-seen time it is the one entered first (R178 does not say; the model's choice, log
entry 31). -/
def dropLatched : List FaultEntry → Option (List FaultEntry)
  | [] => none
  | x :: xs => if x.active then (dropLatched xs).map (x :: ·) else some xs

/-- The fault list after a report of a code, and the entry added or made active again (R178). -/
def takeReport (code : FaultCode) (detail : Option BreachKind) (seen : Nat) (l : List FaultEntry) :
    List FaultEntry × Option FaultEntry :=
  let new : FaultEntry := { code := code, detail := detail, active := code.condition, seen := seen }
  match l.find? fun e => e.code == code with
  | some e =>
    if !e.active && code.condition then
      let e' := { e with active := true, detail := detail }
      (putFault e' l, some e')
    else (l, none)
  | none =>
    if l.length < 8 then (l ++ [new], some new)
    else match dropLatched l with
      | some l' => (l' ++ [new], some new)
      | none => (l, none)

/-- A block reports a fault to Status and Service (R178, R180). -/
def Node.reportFault (n : Node) (code : FaultCode) (detail : Option BreachKind := none) : Node :=
  let r := takeReport code detail n.seconds n.serv.faults
  let n' := n.onServ fun s => { s with faults := r.1 }
  match r.2 with
  | some e => n'.handFault e
  | none => n'

/-- The cause of a condition code has ended: its entry becomes latched (R179). -/
def Node.latchFault (n : Node) (code : FaultCode) : Node :=
  n.onServ fun s => { s with faults := s.faults.map fun e => if e.code = code then { e with active := false } else e }

/-- A module change removes LIMIT, TAG and GRADE FAIL, whatever their state (R179). -/
def Node.removeModuleFaults (n : Node) : Node :=
  n.onServ fun s => { s with
    faults := s.faults.filter fun e => !(e.code == .limit || e.code == .tag || e.code == .gradeFail) }

end Sys2Proof.Machine
end

