-- ==== Sys2Proof/Machine/Operands.lean ====
section
/-! DEFINITION. The operands of the commands as the node takes them: sense readings held at their range limits
(R61) and tag readings (R71). -/

namespace Sys2Proof.Machine

/-- A reading as held and its saturation mark: beyond the range it is held at the limit on that side (R61). -/
def holdReading (lo hi : Int) : SenseReading → Int × Bool
  | .value v => if v < lo then (lo, true) else if hi < v then (hi, true) else (v, false)
  | .overLow => (lo, true)
  | .overHigh => (hi, true)

/-- The sample set that a set of sense readings makes (R61). -/
def sampleOf (r : RawSample) : SampleSet :=
  { voltage := (holdReading 0 100000 r.voltage).1.toNat, voltageSat := (holdReading 0 100000 r.voltage).2
    current := (holdReading (-40000) 40000 r.current).1, currentSat := (holdReading (-40000) 40000 r.current).2
    temp1 := (holdReading (-400) 1250 r.temp1).1, temp1Sat := (holdReading (-400) 1250 r.temp1).2
    temp2 := (holdReading (-400) 1250 r.temp2).1, temp2Sat := (holdReading (-400) 1250 r.temp2).2
    bus := (holdReading 0 100000 r.bus).1.toNat, busSat := (holdReading 0 100000 r.bus).2 }

/-- The module temperature: the higher of the two (R61). -/
def SampleSet.temperature (s : SampleSet) : Int := max s.temp1 s.temp2

/-- Two tag readings agree; the profile id is ignored while the present flag is clear (R71). -/
def tagAgrees (a b : TagReading) : Bool := a.present == b.present && (!a.present || a.profile == b.profile)

end Sys2Proof.Machine
end

