-- ==== Sys2Proof/Machine/Measure.lean ====
section
/-! DEFINITION. The Module Monitor's own work (chapter 5): the coulomb counter, the rest timer, watches and
readings, the per-cell value, the limit tests and the carrier tag. -/

namespace Sys2Proof.Machine

/-! ### Charge (R63, R64, R82) -/

/-- The limit of every count of charge, in mAs (R63). -/
def chargeLimit : Int := 2147483647

/-- A count and residue after `add` hundredths of a mAs: carries pass at ±100, and a carry past a limit leaves
the count there with residue 0 and sets the mark (R63). -/
def integrate (count residue add : Int) : Int × Int × Bool :=
  let r := residue + add
  let c := count + r.tdiv 100
  if chargeLimit < c then (chargeLimit, 0, true)
  else if c < -chargeLimit then (-chargeLimit, 0, true)
  else (c, r.tmod 100, false)

/-- A sample set's current enters the running counter (R63). -/
def Counter.advance (c : Counter) (current : Int) : Counter :=
  if c.running then
    { c with count := (integrate c.count c.residue current).1, residue := (integrate c.count c.residue current).2.1
             saturated := c.saturated || (integrate c.count c.residue current).2.2 }
  else c

/-! ### Rest (R65-R67) -/

/-- 200 h in ms, where the rest timer stays (R65). -/
def restLimit : Nat := 720000000

/-- A current below 50 mA in magnitude (R65). -/
def restful (current : Int) : Bool := current.natAbs < 50

/-- The rest timer after a sample set of this current (R65). -/
def restAfter (rest : Nat) (current : Int) : Nat := if restful current then min restLimit (rest + 10) else 0

/-- The average of the module voltages held, rounded half up to 1 mV; none where none is held (R62, R10). -/
def averageOf (l : List Nat) : Option Nat :=
  if l.isEmpty then none else some (roundHalfUp (l.sum : Nat) l.length).toNat

/-- The one-second average voltage (R62). -/
def Node.average (n : Node) : Option Nat := averageOf n.mon.volts

/-- Opens the Grade Engine's rest watch, replacing one it holds (R66). -/
def Node.watchGrade (n : Node) (ms : Nat) : Node :=
  n.onMon fun m => { m with watchGrade := some { duration := ms, sampled := false } }

/-- Opens the Position Manager's rest watch, replacing one it holds (R66). -/
def Node.watchPosition (n : Node) (ms : Nat) : Node :=
  n.onMon fun m => { m with watchPosition := some { duration := ms, sampled := false } }

/-- Cancels the Grade Engine's rest watch (R66). -/
def Node.cancelGrade (n : Node) : Node := n.onMon fun m => { m with watchGrade := none }

/-- Cancels the Position Manager's rest watch (R66). -/
def Node.cancelPosition (n : Node) : Node := n.onMon fun m => { m with watchPosition := none }

/-- A watch completes: the rest timer stands at its duration and a sample set has come since it opened (R66). -/
def Monitor.due (m : Monitor) (w : Option RestWatch) : Bool :=
  match w with
  | some w => w.sampled && w.duration ≤ m.rest
  | none => false

/-- The rest reading of this moment; none where no voltage is held (R67). -/
def Node.restReading (n : Node) : Option RestReading :=
  n.average.map fun v =>
    { millivolts := v, ocv := formFig .ocv v, soc := n.profile.map fun p => socOf p v
      rest := n.mon.rest, moment := n.mon.now }

/-- A rest reading is formed and replaces the last one (R67). -/
def Node.formReading (n : Node) : Node :=
  match n.restReading with
  | some r => n.onMon fun m => { m with reading := some r }
  | none => n

/-- The state of charge of the last rest reading (R67). -/
def Node.soc (n : Node) : Option Nat := n.mon.reading.bind RestReading.soc

/-! ### Limits (R69) -/

/-- A hard breach of this sample set, the kind reported first of current, voltage, temperature (R69, R70). -/
def hardBreach (s : SampleSet) (p : Option Profile) : Option BreachKind :=
  if s.currentSat then some .current
  else if s.voltageSat || s.busSat then some .voltage
  else if s.temp1Sat || s.temp2Sat
      || (match p with | some p => decide (p.hard.int < s.temperature) | none => false) then some .temperature
  else none

/-- A soft breach of this sample set (R69). -/
def softBreach (s : SampleSet) (cell : Option Nat) (p : Option Profile) : Bool :=
  match p with
  | some p =>
    decide (p.warn.int < s.temperature)
      || (match cell with | some u => decide (u < p.cellMin.mag) || decide (p.cellMax.mag < u) | none => false)
  | none => false

/-! ### The tag (R71) -/

/-- The tag state that a reading has under the stored plan (R71). -/
def Node.judgeTag (n : Node) (t : TagReading) : TagState :=
  if t.present = false then .absent
  else if n.pres.plan.isNone then .pending
  else if (n.planProfile t).isSome then .valid else .unknown

/-- Counts the consecutive sample sets that hold one differing reading, up to 5 (R71). -/
def Monitor.seeTag (m : Monitor) (t : TagReading) : Monitor :=
  if tagAgrees t m.tag then { m with tagRun := 0 }
  else if 0 < m.tagRun ∧ tagAgrees t m.tagSeen = true then { m with tagRun := min 5 (m.tagRun + 1) }
  else { m with tagSeen := t, tagRun := 1 }

/-! ### A sample set enters the Module Monitor (R61-R63, R65, R71) -/

/-- The holder's watch has seen a sample set. -/
def RestWatch.see (w : RestWatch) : RestWatch := { w with sampled := true }

/-- The set replaces the latest one; clock, voltages, counter, rest timer and tag reading follow it. -/
def Monitor.take (m : Monitor) (s : SampleSet) (t : TagReading) : Monitor :=
  { m.seeTag t with
    now := m.now + 10, sample := s, volts := (s.voltage :: m.volts).take 100
    counter := m.counter.advance s.current, rest := restAfter m.rest s.current
    watchGrade := m.watchGrade.map RestWatch.see, watchPosition := m.watchPosition.map RestWatch.see }

/-- The Module Monitor works through a sample set, as far as its own state goes. -/
def Node.takeSample (n : Node) (s : SampleSet) (t : TagReading) : Node :=
  n.onMon fun m => { m.take s t with cell := n.profile.map fun p => perCell s.voltage p.cells }

/-- The counter is cleared and started (R64). -/
def Node.restartCounter (n : Node) : Node := n.onMon fun m => { m with counter := { Counter.cleared with running := true } }

/-- The counter is stopped (R64). -/
def Node.stopCounter (n : Node) : Node := n.onMon fun m => { m with counter := { m.counter with running := false } }

end Sys2Proof.Machine
end

