-- ==== Sys2Proof/Machine/RailView.lean ====
section
/-! DEFINITION. The rail view (R117-R124): its records, the judgement of an AGREE and of a PRESENCE statement, and
the hand-over of RELEASE, SUSPEND and RESUME with their repeats (R120, R121, R138, R140). -/

namespace Sys2Proof.Machine

/-- The sum of the pool draws in view (R118). -/
def drawn (v : List Exchange) : Nat := (v.map Exchange.draw).sum

/-- The units of the pool that no exchange in view draws (R118). -/
def poolFree (p : Plan) (v : List Exchange) : Nat := p.pool - drawn v

/-- The address is a party of the exchange: initiator or counterpart. -/
def Exchange.has (e : Exchange) (a : Nat) : Bool := e.initiator == a || e.counterpart == a

/-- The id is in the view. -/
def inView (id : Nat) (v : List Exchange) : Bool := v.any fun e => e.id == id

/-- A node that is already a party in the view; the bank station is not tested (R119). -/
def busy (a : Nat) (v : List Exchange) : Bool := a != 0 && v.any fun e => e.has a

/-- The fields of an AGREE that the view judges (R119, R130). -/
structure AgreeTerms where
  id : Nat
  counterpart : Nat
  kind : Nat
  dir : Nat
  units : Nat
  draw : Nat
  expected : Option Fig
deriving DecidableEq, Repr

/-- The three ways of taking an AGREE (R119). -/
inductive Judgement where
  | ignored
  | void
  | valid
deriving DecidableEq, Repr

/-- An AGREE from `src` judged against the view (R119). -/
def judgeAgree (p : Plan) (v : List Exchange) (src : Nat) (t : AgreeTerms) : Judgement :=
  if inView t.id v ∨ t.id / 16 ≠ src ∨ t.units < 1 ∨ 8 < t.units ∨ 48 < t.counterpart ∨ t.counterpart = src
      ∨ 1 < t.kind ∨ 1 < t.dir then .ignored
  else if p.slots ≤ v.length ∨ poolFree p v < t.draw ∨ t.draw ≠ drawOf p.share t.units ∨ busy src v ∨ busy t.counterpart v
    then .void
  else .valid

/-- The record a valid AGREE adds, in state RUNNING (R119). -/
def AgreeTerms.record (t : AgreeTerms) : Exchange :=
  { id := t.id, initiator := t.id / 16, counterpart := t.counterpart, units := t.units, draw := t.draw, suspended := false }

/-- A record placed in order of exchange id. -/
def insertExchange (e : Exchange) : List Exchange → List Exchange
  | [] => [e]
  | x :: xs => if x.id < e.id then x :: insertExchange e xs else e :: x :: xs

/-- The view without an id. -/
def removeExchange (id : Nat) (v : List Exchange) : List Exchange := v.filter fun e => e.id != id

/-- The record that a whole statement of `x` describes, where it passes its test (R122): the role names the
initiator id div 16, the draw is that of the units, and the other party is another station of the rack
(log entry 15). -/
def Statement.record (s : Statement) (p : Plan) (x : Nat) : Option Exchange :=
  if drawOf p.share s.units ≠ s.draw then none
  else if s.role = 0 ∨ s.role = 1 then
    if s.id / 16 = x ∧ s.other ≤ 48 ∧ s.other ≠ x then
      some { id := s.id, initiator := x, counterpart := s.other, units := s.units, draw := s.draw, suspended := s.role == 1 }
    else none
  else if s.role = 2 ∨ s.role = 3 then
    if s.id / 16 = s.other ∧ 1 ≤ s.other ∧ s.other ≤ 48 ∧ s.other ≠ x then
      some { id := s.id, initiator := s.other, counterpart := x, units := s.units, draw := s.draw, suspended := s.role == 3 }
    else none
  else none

/-- The view with a stated record in it: replaced where its id is in view and the sum keeps within the pool,
added where it also fits the slots; none where it does not fit (R122). -/
def placeStated (p : Plan) (v : List Exchange) (e : Exchange) : Option (List Exchange) :=
  let rest := removeExchange e.id v
  if drawn rest + e.draw ≤ p.pool ∧ (inView e.id v ∨ v.length < p.slots) then some (insertExchange e rest) else none

/-- The view after a statement of `x`, and whether the statement was taken (R122). -/
def takeStatement (p : Plan) (v : List Exchange) (x : Nat) (st : Stated) : List Exchange × Bool :=
  match st with
  | .omitted => (v.filter fun e => !e.has x, true)
  | .broken => (v, true)
  | .whole s =>
    if s.units < 1 ∨ 8 < s.units then (v, true)
    else
      let v' := v.filter fun e => !e.has x || e.id == s.id
      match s.record p x with
      | some e => match placeStated p v' e with
        | some w => (w, true)
        | none => (v', false)
      | none => (v', false)

/-- The view after a RELEASE from `src` (R120). -/
def takeRelease (p : Plan) (v : List Exchange) (src id units : Nat) : List Exchange :=
  v.filterMap fun e =>
    if e.id = id ∧ e.has src = true then
      if units = 0 then none
      else if units < e.units then some { e with units := units, draw := drawOf p.share units }
      else some e
    else some e

/-- The view after a SUSPEND or RESUME from `src` (R121). -/
def takeState (v : List Exchange) (src id : Nat) (suspended : Bool) : List Exchange :=
  v.map fun e => if e.id = id ∧ e.has src = true then { e with suspended := suspended } else e

/-- The exchange a repeated notice names. -/
def railNoticeExchange : RailNotice → Nat
  | .release id _ _ => id
  | .suspend id => id
  | .resume id => id

/-- Hands a notice of the Rail Allocator once. -/
def Node.sendRail (n : Node) : RailNotice → Node
  | .release id units cause => n.hand .release (releaseFields id units cause)
  | .suspend id => n.hand .suspend (oneField id)
  | .resume id => n.hand .resume (oneField id)

/-- Notices no longer repeated once `x` is handed: an earlier copy of it, and a SUSPEND at the RESUME of the same
exchange (R140). -/
def railSupersedes (x y : RailNotice) : Bool :=
  x == y || (match x with | .resume id => y == .suspend id | _ => false)

/-- Hands a notice of the Rail Allocator, to be repeated every 1000 ms for as long as its exchange is in view (R140). -/
def Node.handRail (n : Node) (x : RailNotice) : Node :=
  (n.sendRail x).onRail fun r => { r with
    repeats := (if inView (railNoticeExchange x) r.view then [(x, n.repeatAt)] else []) ++ r.repeats.filter fun y => !railSupersedes x y.1 }

/-- RELEASE causes (R120). -/
def causeStop : Nat := 0
def causeHoldExpiry : Nat := 1
def causeSilence : Nat := 2
def causeVoid : Nat := 3
def causeDeclined : Nat := 4
def causeTaper : Nat := 5

/-- A local suspension or resumption concerns the node's own exchange. -/
def Node.ownsExchange (n : Node) (id : Option Nat) : Bool :=
  match n.rail.own, id with
  | some o, some i => o.id == i
  | _, _ => false

/-- The Duty Level Controller reports a local suspension: a SUSPEND is handed (R138). -/
def Node.localSuspension (n : Node) (id : Option Nat) : Node :=
  match id with
  | some i => if n.ownsExchange id then n.handRail (.suspend i) else n
  | none => n

/-- The Duty Level Controller reports a local resumption: a RESUME is handed (R138). -/
def Node.localResumption (n : Node) (id : Option Nat) : Node :=
  match id with
  | some i => if n.ownsExchange id then n.handRail (.resume i) else n
  | none => n

end Sys2Proof.Machine
end

