-- ==== Sys2Proof/Machine/Duty.lean ====
section
/-! DEFINITION. The Duty Level Controller and the slot converter (chapter 6). Completions are kept in
`Duty.reports` until the Rail Allocator and the Grade Engine take them at the end of the same step
(log entry 10). -/

namespace Sys2Proof.Machine

/-- The context of a level. -/
def Duty.get (d : Duty) : LevelId → Level
  | .protect => d.protect | .join => d.join | .serve => d.serve | .test => d.test | .pulse => d.pulse

/-- Replaces the context of a level. -/
def Duty.put (d : Duty) (i : LevelId) (l : Level) : Duty :=
  match i with
  | .protect => { d with protect := l } | .join => { d with join := l } | .serve => { d with serve := l }
  | .test => { d with test := l } | .pulse => { d with pulse := l }

/-- The request kept for an ENDING level (R79); none is kept for PROTECT (R87). -/
def Duty.kept (d : Duty) : LevelId → Option LevelRequest
  | .protect => none | .join => d.keptJoin | .serve => d.keptServe | .test => d.keptTest | .pulse => d.keptPulse

/-- Keeps or discards the request of a level. -/
def Duty.keep (d : Duty) (i : LevelId) (r : Option LevelRequest) : Duty :=
  match i with
  | .protect => d | .join => { d with keptJoin := r } | .serve => { d with keptServe := r }
  | .test => { d with keptTest := r } | .pulse => { d with keptPulse := r }

/-- Updates a level's context. -/
def Duty.upd (d : Duty) (i : LevelId) (f : Level → Level) : Duty := d.put i (f (d.get i))

/-- JOIN, SERVE and TEST are the exchange levels (R75). -/
def LevelId.isExchange : LevelId → Bool
  | .join => true | .serve => true | .test => true | .protect => false | .pulse => false

/-- The exchange levels. -/
def exchangeLevels : List LevelId := [.join, .serve, .test]

/-- READY, RUNNING or SUSPENDED: the states in which a level may own the converter (R78). -/
def LevelState.asks : LevelState → Bool
  | .ready => true | .running => true | .suspended => true | .empty => false | .ending => false

/-- The owner of the converter: the highest level that asks (R78). -/
def Duty.owner (d : Duty) : Option LevelId :=
  if d.protect.state.asks then some .protect
  else if d.join.state.asks then some .join
  else if d.serve.state.asks then some .serve
  else if d.test.state.asks then some .test
  else if d.pulse.state.asks then some .pulse
  else none

/-- The converter path a level fixes (R76). -/
def LevelId.path : LevelId → Path
  | .protect => .open | .join => .rail | .serve => .rail | .test => .rail | .pulse => .buffer

/-- The signed converter setpoint a RUNNING level applies (R76). -/
def Level.signed (l : Level) : Int :=
  match l.dir with
  | .source => (l.setpoint : Int) | .sink => -(l.setpoint : Int) | .off => 0

/-- The level becomes RUNNING, and no sample set has come since (R78, R83, R86). -/
def Level.start (l : Level) : Level := { l with state := .running, sampled := false }

/-- Sets the converter setpoint. -/
def Duty.setpoint (d : Duty) (x : Int) : Duty := { d with conv := { d.conv with setpoint := x } }

/-- Some exchange level is not EMPTY. -/
def Duty.exchanging (d : Duty) : Bool := d.join.state != .empty || d.serve.state != .empty || d.test.state != .empty

/-- The completion report of a context (R83, R88). -/
def Duty.completion (d : Duty) (i : LevelId) (cause : EndCause) : Completion :=
  { level := i, cause := cause, charge := (d.get i).charge, elapsed := (d.get i).elapsed, exchange := (d.get i).exchange
    pulse := if i = .pulse then d.pulseEnd else none }

/-- The context becomes EMPTY; its completion is reported unless the context was cleared (R83, R89). -/
def Duty.finish (d : Duty) (i : LevelId) (cause : EndCause) : Duty :=
  { d.put i .empty with
    reports := if (d.get i).reported then d.reports ++ [d.completion i cause] else d.reports
    pulseEnd := if i = .pulse then none else d.pulseEnd }

/-- A level leaves for ENDING with this cause; as the holder it ramps down, otherwise it is EMPTY at once (R81, R88). -/
def Duty.leave (d : Duty) (i : LevelId) (cause : EndCause) : Duty :=
  if d.conv.holder = some i then (d.upd i fun l => { l with state := .ending, cause := some cause }).setpoint 0
  else d.finish i cause

/-- The context that a request makes (R79). -/
def LevelRequest.level (r : LevelRequest) : Level :=
  { Level.empty with
    state := .ready, dir := r.dir, setpoint := r.setpoint, target := r.target, bound := r.bound, limit := r.limit
    exchange := r.exchange, other := r.other }

/-- The held-here mark of an exchange level is set, and the setting reported as a local suspension (R84). -/
def Node.suspendHere (n : Node) (i : LevelId) : Node :=
  let l : Level := n.duty.get i
  if l.state = .ready ∨ l.state = .running ∨ (l.state = .suspended ∧ l.heldHere = false) then
    (n.onDuty fun d => d.upd i fun l => { l with state := .suspended, heldHere := true }).localSuspension l.exchange
  else n

/-- A request taken from EMPTY (R79): the level becomes READY; an exchange level ends a PULSE (R88) and is suspended
at once behind PROTECT (R84). -/
def Node.accept (n : Node) (i : LevelId) (r : LevelRequest) : Node :=
  let n1 : Node := n.onDuty fun d => d.put i r.level
  if i.isExchange then
    let n2 : Node :=
      if n1.duty.pulse.state = .ready ∨ n1.duty.pulse.state = .running then n1.onDuty fun d => d.leave .pulse .invalid else n1
    if n2.duty.protect.state = .ready ∨ n2.duty.protect.state = .running then n2.suspendHere i else n2
  else n1

/-- The request kept for a level that has become EMPTY is taken as from EMPTY (R79). R79 refuses a PULSE request while an exchange
level is not EMPTY, and does not say whether a kept one is judged so again: it is taken without a second judgement (the model's
choice, log entry 58). -/
def Node.takeKept (n : Node) (i : LevelId) : Node :=
  match n.duty.kept i with
  | some r => (n.onDuty fun d => d.keep i none).accept i r
  | none => n

/-- Steps 2 and 3 of ramp-down complete: the owner becomes the holder, and a READY holder runs (R78). -/
def Duty.handOver (d : Duty) : Duty :=
  let d1 : Duty :=
    if d.owner = d.conv.holder then d
    else { d with conv := { d.conv with
      holder := d.owner, path := match d.owner with | some i => i.path | none => .open } }
  match d1.conv.holder with
  | some i =>
    if (d1.get i).state = .ready then (d1.upd i Level.start).setpoint (d1.get i).signed else d1
  | none => d1

/-- Ramp-down complete (R78). -/
def Node.rampDown (n : Node) : Node :=
  let n1 : Node :=
    match n.duty.conv.holder with
    | some i =>
      if (n.duty.get i).state = .ending then
        (n.onDuty fun d => d.finish i ((d.get i).cause.getD .ended)).takeKept i
      else n
    | none => n
  n1.onDuty Duty.handOver

/-- The event is taken at once where the setpoint and the actual value are both 0 (R78). -/
def Node.rampIfIdle (n : Node) : Node :=
  if n.duty.conv.setpoint = 0 ∧ n.duty.conv.actual = 0 then n.rampDown else n

/-- The setpoint goes to 0 at this event, and ramp-down complete is taken at once where the actual value is 0 (R78). -/
def Node.dropSetpoint (n : Node) : Node := (n.onDuty fun d => d.setpoint 0).rampIfIdle

/-- After a change of the levels: where the owner is no longer `old`, the setpoint goes to 0; under the same owner the
converter stands as it is (R78). -/
def Node.settle (n : Node) (old : Option LevelId) : Node := if n.duty.owner = old then n else n.dropSetpoint

/-- The setpoint of a request lies in the range of its level (R75, R79). -/
def LevelRequest.fits (r : LevelRequest) (i : LevelId) : Bool :=
  if i.isExchange then r.dir != .off && 1 ≤ r.setpoint && r.setpoint ≤ 8 && r.exchange.isSome
  else 2 ≤ r.setpoint && r.setpoint ≤ 10

/-- The controller takes the request, and does not refuse it (R79). -/
def Node.takesRequest (n : Node) (i : LevelId) (r : LevelRequest) : Bool :=
  n.live && !(n.duty.get i).state.asks && r.fits i && !(i == .pulse && n.duty.exchanging)

/-- A requester asks for a level (R79); a refused request changes nothing. A second request for an ENDING level takes the
place of the one it keeps (the model's choice, log entry 38). -/
def Node.requestLevel (n : Node) (i : LevelId) (r : LevelRequest) : Node :=
  if n.takesRequest i r then
    if (n.duty.get i).state = .ending then n.onDuty fun d => d.keep i (some r)
    else (n.accept i r).settle n.duty.owner
  else n

/-- The Rail Allocator changes the setpoint of an exchange level; the converter follows a RUNNING owner (R77, R80). -/
def Node.setUnits (n : Node) (i : LevelId) (k : Nat) : Node :=
  if (n.duty.get i).state.asks ∧ 1 ≤ k ∧ k ≤ 8 then
    n.onDuty fun d =>
      let d1 : Duty := d.upd i fun l => { l with setpoint := k }
      if (d1.get i).state = .running ∧ d1.conv.holder = some i ∧ d1.owner = some i then d1.setpoint (d1.get i).signed else d1
  else n

/-- A requester ends a level (R81). -/
def Node.endLevel (n : Node) (i : LevelId) : Node :=
  match (n.duty.get i).state with
  | .running =>
    (n.onDuty fun d =>
      let d1 : Duty := d.upd i fun l => { l with state := .ending, cause := some .ended }
      if d.conv.holder = some i then d1.setpoint 0 else d1).settle n.duty.owner
  | .suspended => (n.onDuty fun d => d.leave i .ended).settle n.duty.owner
  | .ready => (n.onDuty fun d => d.leave i .ended).settle n.duty.owner
  | .ending => n
  | .empty => n

/-- The Module Monitor requests PROTECT (R84, R87, R88). -/
def Node.requestProtect (n : Node) : Node :=
  if n.duty.protect.state = .ready ∨ n.duty.protect.state = .running then n
  else
    let n1 : Node := n.onDuty fun d => d.put .protect { Level.empty with state := .ready }
    let n2 : Node := exchangeLevels.foldl Node.suspendHere n1
    let n3 : Node := if n2.duty.pulse.state = .running then n2.onDuty fun d => d.leave .pulse .invalid else n2
    n3.settle n.duty.owner

/-- A level held here when PROTECT becomes EMPTY: the mark is cleared, the resumption reported, and the level waits
for its own RESUME (R86). -/
def Node.resumeHere (n : Node) (i : LevelId) : Node :=
  let l : Level := n.duty.get i
  if l.state = .suspended ∧ l.heldHere = true then
    (n.onDuty fun d => d.upd i fun l => { l with heldHere := false, resumeOut := true }).localResumption l.exchange
  else n

/-- The Module Monitor releases PROTECT (R86, R87). -/
def Node.releaseProtect (n : Node) : Node :=
  if n.duty.protect.state = .ready ∨ n.duty.protect.state = .running then
    (exchangeLevels.foldl Node.resumeHere (n.onDuty fun d => d.put .protect .empty)).settle n.duty.owner
  else n

/-- A SUSPENDED level with no mark set returns: it runs as the holder that owns the converter and is READY otherwise
(R77, R86). -/
def Node.returnLevel (n : Node) (i : LevelId) : Node :=
  let l : Level := n.duty.get i
  if l.state = .suspended ∧ l.heldHere = false ∧ l.heldThere = false ∧ l.resumeOut = false then
    if n.duty.conv.holder = some i ∧ n.duty.owner = some i then
      n.onDuty fun d => (d.upd i Level.start).setpoint l.signed
    else (n.onDuty fun d => d.upd i fun l => { l with state := .ready }).settle n.duty.owner
  else n

/-- A SUSPEND of the other party is reported (R85). An owner's setpoint goes to 0; of a level SUSPENDED already only the mark
changes. -/
def Node.suspendThere (n : Node) (i : LevelId) : Node :=
  let l : Level := n.duty.get i
  if l.state.asks then
    let n1 : Node := n.onDuty fun d => d.upd i fun l => { l with state := .suspended, heldThere := true }
    if n.duty.owner = some i ∧ l.state ≠ .suspended then n1.dropSetpoint else n1
  else n

/-- A RESUME of the other party is reported (R85). -/
def Node.resumeThere (n : Node) (i : LevelId) : Node :=
  if (n.duty.get i).state = .suspended then
    (n.onDuty fun d => d.upd i fun l => { l with heldThere := false }).returnLevel i
  else n

/-- The node's own RESUME is heard (R85). -/
def Node.ownResumeHeard (n : Node) (i : LevelId) : Node :=
  if (n.duty.get i).state = .suspended then
    (n.onDuty fun d => d.upd i fun l => { l with resumeOut := false }).returnLevel i
  else n

/-- A level is cleared without a report: the holder ramps down through ENDING, another is EMPTY at once, and a kept
request is discarded (R89). A holder keeps an end cause it has, and takes ENDED otherwise (R75), and its other fields stand until it
is EMPTY (the model's choices, log entry 37). -/
def Duty.clear (d : Duty) (i : LevelId) : Duty :=
  let d1 : Duty := d.keep i none
  if (d1.get i).state = .empty then d1
  else if d1.conv.holder = some i then
    d1.upd i fun l => { l with state := .ending, cause := some (l.cause.getD .ended), reported := false }
  else d1.put i .empty

/-- Line rejoin clears these levels; every other level is kept as it stands, and the converter follows by R78 (R90). A kept
level that holds the converter keeps it, a ramp-down complete that is due still to come (the model's choice, log entry 53). -/
def Node.clearLevels (n : Node) (is : List LevelId) : Node :=
  let n1 : Node := n.onDuty fun d => is.foldl Duty.clear d
  match n.duty.conv.holder with
  | some i => if is.contains i then n1.settle n.duty.owner else n1
  | none => n1.settle n.duty.owner

/-- A module change or an entry into STRAPFAULT or CLASHED also sets the setpoint to 0 (R89, R91). -/
def Node.clearLevelsToZero (n : Node) (is : List LevelId) : Node :=
  (n.onDuty fun d => is.foldl Duty.clear d).dropSetpoint

/-- Charge done and elapsed time of a holder at a sample set (R82), which a RUNNING one has had then (R83). -/
def Level.advance (l : Level) (current : Int) : Level :=
  let l1 : Level :=
    match l.dir with
    | .off => l
    | .source => { l with charge := (integrate l.charge l.residue current).1, residue := (integrate l.charge l.residue current).2.1 }
    | .sink => { l with charge := (integrate l.charge l.residue (-current)).1, residue := (integrate l.charge l.residue (-current)).2.1 }
  if l.state = .running then { l1 with elapsed := l1.elapsed + 10, sampled := true } else l1

/-- The converter steps its actual value 1 A toward the setpoint (R77). -/
def Converter.step (c : Converter) : Converter :=
  if c.actual < c.setpoint then { c with actual := c.actual + 1 }
  else if c.setpoint < c.actual then { c with actual := c.actual - 1 }
  else c

/-- A sample set handed to the controller: the holder counts, the converter ramps (R77, R82). -/
def Duty.sample (d : Duty) (current : Int) : Duty :=
  let d1 : Duty := match d.conv.holder with
    | some i => d.upd i fun l => l.advance current
    | none => d
  { d1 with conv := d1.conv.step }

/-- The first stop condition met, in the order charge target, cell voltage bound, time limit (R83). -/
def Level.stopCause (l : Level) (cell : Option Nat) : Option EndCause :=
  if (match l.target with | some t => decide (min (t : Int) chargeLimit ≤ l.charge) | none => false) then some .charge
  else if (match l.bound with
      | some b => (match cell with
        | some u => (match l.dir with | .source => decide (u ≤ b) | .sink => decide (b ≤ u) | .off => false)
        | none => true)
      | none => false) then some .cell
  else if (match l.limit with | some t => decide (t ≤ l.elapsed) | none => false) then some .time
  else none

end Sys2Proof.Machine
end

