-- ==== Sys2Proof/Machine/RailOwn.lean ====
section
/-! DEFINITION. The own side of the Rail Allocator (R125-R128, R131, R133, R135): room, requests, the hand-over of
NEED and AGREE, releasing the own exchange, and headroom. -/

namespace Sys2Proof.Machine

/-- The units of a request. -/
def Request.units : Request → Nat
  | .test _ units _ _ _ => units
  | .join units => units

/-- The request is a capacity test. -/
def Request.isTest : Request → Bool
  | .test _ _ _ _ _ => true
  | .join _ => false

/-- A capacity test is requested. -/
def Rail.testing (r : Rail) : Bool := match r.request with | some q => q.isTest | none => false

/-- An equalizing transfer is requested. -/
def Rail.joining (r : Rail) : Bool := match r.request with | some q => !q.isTest | none => false

/-- The units asked: those of the request, but for a congested node of weight code 0 only its own part (R126). -/
def Node.askedUnits (n : Node) (p : Plan) (q : Request) : Nat :=
  if p.weight n.address = 0 ∧ 0 < n.rail.wait then (if p.share = 0 then 1 else min q.units p.share) else q.units

/-- The view lacks room for the units in pool or slots (R126). -/
def Node.congested (n : Node) (p : Plan) (units : Nat) : Bool :=
  decide (p.slots ≤ n.rail.view.length) || decide (poolFree p n.rail.view < drawOf p.share units)

/-- The initiator has room for the units (R126). -/
def Node.room (n : Node) (p : Plan) (units : Nat) : Bool :=
  n.active && n.rail.certain && n.rail.held.isNone && n.rail.own.isNone && !n.congested p units

/-- The rank of the node's notices (R127). -/
def Node.rank (n : Node) (p : Plan) : Nat := rankOf n.rail.wait (p.weight n.address)

/-- The next exchange id (R118, R125). -/
def Node.nextId (n : Node) : Nat := n.address * 16 + n.rail.serial

/-- Hands an AGREE and enters AGREEING (R130, R133). -/
def Node.handAgree (n : Node) (p : Plan) (id counterpart kind : Nat) (dir : Dir) (units : Nat) (expected : Option Fig) : Node :=
  (n.handPart .agree (n.rank p) 0 (agreeFields id counterpart kind dir.wire units (drawOf p.share units) expected)).onRail
    fun r => { r with side := .agreeing, current := some id, asked := units, needTimer := none, windowTimer := none
                      agreeTimer := n.after 1000 }

/-- With room, a test proceeds to its NEED (R128). -/
def Node.handNeed (n : Node) (p : Plan) (dir : Dir) (units : Nat) (expected : Fig) : Node :=
  (n.handPart .need (n.rank p) 0 (needFields n.nextId dir.opposite.wire units expected)).onRail
    fun r => { r with side := .needing, current := some n.nextId, asked := units, serial := (r.serial + 1) % 16
                      offers := [], needTimer := n.after 1000 }

/-- With room, a transfer proceeds to its directed AGREE (R133). -/
def Node.handJoin (n : Node) (p : Plan) (units : Nat) : Node :=
  match n.pair.partner with
  | some x =>
    (n.handAgree p n.nextId x 1 .source units none).onRail fun r => { r with serial := (r.serial + 1) % 16 }
  | none => n

/-- A waiting initiator tests for room and proceeds with it (R126); after a window without offer it first waits
for its retry timer (R130). -/
def Node.roomTest (n : Node) : Node :=
  match n.pres.plan, n.rail.request with
  | some p, some q =>
    if n.rail.side = .waiting ∧ n.rail.retryTimer = none ∧ n.room p (n.askedUnits p q) = true then
      match q with
      | .test dir _ _ _ expected => n.handNeed p dir (n.askedUnits p q) expected
      | .join _ => n.handJoin p (n.askedUnits p q)
    else n
  | _, _ => n

/-- The wait count rises by one, up to 255 (R126). -/
def Node.raiseWait (n : Node) : Node := n.onRail fun r => { r with wait := min 255 (r.wait + 1) }

/-- After a RELEASE or removal taken into the view: an initiator that still lacks room in pool or slots raises its
wait count; with room it proceeds (R126). -/
def Node.freedTest (n : Node) : Node :=
  match n.pres.plan, n.rail.request with
  | some p, some q =>
    if n.rail.side = .waiting ∧ n.congested p (n.askedUnits p q) = true then n.raiseWait else n.roomTest
  | _, _ => n

/-- The own side returns to WAITING, its timers stopped (R128, R130, R132, R142). -/
def Node.backToWaiting (n : Node) : Node :=
  n.onRail fun r => { r with side := .waiting, current := none, offers := [], needTimer := none, windowTimer := none
                             agreeTimer := none }

/-- A request enters WAITING, or is held while the node's other role lasts (R125, R126). -/
def Node.beginRequest (n : Node) (q : Request) : Node :=
  let n1 := n.onRail fun r => { r with request := some q }
  if n.rail.own.isNone then n1.backToWaiting.roomTest else n1

/-- The level that carries an exchange (R134). -/
def OwnRecord.level (o : OwnRecord) : LevelId := if o.join then .join else if o.initiator then .test else .serve

/-- The role and state of the own exchange as PRESENCE numbers them (R47). -/
def OwnRecord.role (o : OwnRecord) : Nat := (if o.initiator then 0 else 2) + bit (o.flagOwn || o.flagOther)

/-- The own record ends and with it its timers (R135). -/
def Rail.endOwn (r : Rail) : Rail :=
  { r with own := none, startTimer := none, suspendTimer := none, silenceTimer := none }

/-- An event of R135 hands the final RELEASE of the own exchange with its own cause and ends its level, also where an earlier
event has handed one. In STARTING the start timer stops with it: the level is not made READY any more, though the exchange is in
view until the RELEASE is heard (R134; the model's choice, log entry 46). -/
def Node.releaseOwn (n : Node) (cause : Nat) : Node :=
  match n.rail.own with
  | some o =>
    let n2 := (n.handRail (.release o.id 0 cause)).onRail fun r => { r with own := some { o with released := true }, startTimer := none }
    if n.rail.side = .party then n2.endLevel o.level else n2
  | none => n

/-- The request is withdrawn and the wait count set to 0 (R126, R133, R142). The exchange that the node has initiated for it is
still its own until it leaves the view, and is asked for no more (R135). -/
def Rail.dropRequest (r : Rail) : Rail :=
  { r with
    request := none, retryTimer := none, wait := 0
    own := r.own.map fun o => { o with dropped := o.dropped || o.initiator } }

/-- The own exchange is asked for no more (R101, R135). -/
def Rail.disown (r : Rail) : Rail := { r with own := r.own.map fun o => { o with dropped := true } }

/-- The own exchange is the one that the Grade Engine's test was agreed for (R125, R132). -/
def OwnRecord.servesTest (o : OwnRecord) : Bool := o.initiator && !o.join && !o.dropped

/-- The own record ends with the request that it was agreed for: a JOIN in any state, a TEST in PARTY (R135, log entry 12). -/
def OwnRecord.spends (o : OwnRecord) (side : OwnSide) : Bool := o.initiator && !o.dropped && (o.join || side == .party)

/-- The side of a request before STARTING (R125). -/
def OwnSide.asking : OwnSide → Bool
  | .waiting => true | .needing => true | .window => true | .agreeing => true
  | .idle => false | .starting => false | .party => false

/-- The Grade Engine withdraws its test (R111, R114, R115, R135): before STARTING the own side returns to IDLE; a
party as its initiator hands a final RELEASE. A test held beside an exchange that was not agreed for it hands none (log entry 12).
What stands of an earlier test's end is not passed on (R136). `release` is false at HOLD and at a module change, where the Rail
Allocator's own part hands the one RELEASE of the change (R142, R143; the model's choice, log entry 45). -/
def Node.withdrawTest (n : Node) (release : Bool := true) : Node :=
  let n1 : Node :=
    if n.rail.testing then
      if n.rail.side.asking then n.backToWaiting.onRail fun r => { r.dropRequest with side := .idle }
      else
        (match n.rail.own with
          | some o => if release ∧ o.servesTest = true then n.releaseOwn causeStop else n
          | none => n).onRail Rail.dropRequest
    else n
  n1.onRail fun r => { r with testOrdinary := none, testEnded := false }

/-- The Position Manager withdraws its JOIN or ends it (R133, R135): before PARTY the own side returns to IDLE, with a
final RELEASE where the exchange stands; in PARTY a final RELEASE is handed (log entry 13), and the exchange, in view until it
is heard, serves the Position Manager no more. A JOIN held beside an exchange that was not agreed for it hands none (log entry 12).
With the own record the live reports of its counterpart end (R171). `release` is false at HOLD and at a module change (log entry
45). -/
def Node.withdrawJoin (n : Node) (release : Bool := true) : Node :=
  let n0 : Node := if release then n.releaseOwn causeStop else n
  let n1 : Node :=
    match n.rail.own with
    | some o =>
      if o.join = true ∧ o.dropped = false then
        if n.rail.side = .starting then
          (n0.onRail fun r => { r.endOwn with side := if r.testing then .waiting else .idle }).onPos
            fun q => { q with liveTimer := none }
        else n0.onRail Rail.disown
      else n
    | none => if n.rail.joining ∧ n.rail.side.asking = true then n.backToWaiting.onRail fun r => { r with side := .idle } else n
  if n.rail.joining then n1.onRail Rail.dropRequest else n1

/-- The Rail Allocator's part of an own exchange that has left the view (R135, R136): the level is ended, the
classification of a TEST recorded, the own record ends, and the own side returns to IDLE, or to WAITING where a request is
still held: one that never reached PARTY, or one made after the exchange's own request had ended (log entry 12). -/
def Node.dropOwn (n : Node) (ordinary : Bool) : Node :=
  match n.rail.own with
  | some o =>
    let spent : Bool := o.spends n.rail.side
    let n1 := if n.rail.side = .party then n.endLevel o.level else n
    n1.onRail fun r =>
      { r.endOwn with
        testOrdinary := if o.servesTest && r.side == .party then some ordinary else r.testOrdinary
        request := if spent then none else r.request
        side := if !spent && r.request.isSome then .waiting else .idle
        current := none }
  | none => n

/-- The capacity used for headroom, in 0.01 Ah: the published CAP, or NAM where it is absent (R131). -/
def Node.capacity (n : Node) : Option Nat :=
  match n.grade.published.cap with
  | some f => some f.mag
  | none => n.profile.map fun p => p.nam.mag

/-- The headroom in a direction; absent where the state of charge or the capacity is (R131). -/
def Node.headroom (n : Node) (p : Plan) (dir : Dir) : Option Fig :=
  match n.soc, n.capacity with
  | some s, some c =>
    match dir with
    | .sink => some (headroomFig ((p.serveHigh * 100 : Nat) - (s : Int)) c)
    | .source => some (headroomFig ((s : Int) - (p.serveLow * 100 : Nat)) c)
    | .off => none
  | _, _ => none

/-- The states in which a node may offer (R131). -/
def Node.mayOffer (n : Node) : Bool :=
  n.active && n.rail.certain && (n.rail.side == .idle || n.rail.side == .waiting) && n.rail.held.isNone
    && n.rail.own.isNone && (n.pair.state == .unpaired || n.pair.state == .seeking)
    && !(n.grade.state == .restA || n.grade.state == .restB || n.grade.state == .selfRest)

/-- The headroom with which the node can serve a test of this expected charge, where every condition of R131 holds. -/
def Node.offerFor (n : Node) (p : Plan) (dir : Dir) (expected : Option Fig) : Option Fig :=
  if n.mayOffer ∧ figGe (n.headroom p dir) expected = true then n.headroom p dir else none

/-- The offer held ends (R131). -/
def Node.endOffer (n : Node) : Node := n.onRail fun r => { r with held := none, heldTimer := none }

/-- The view becomes uncertain; `boot` for power-on and rejoin. The peer lifetime runs from this cause, and an
offer held is withdrawn (R124, R131). -/
def Node.uncertain (n : Node) (boot : Bool) : Node :=
  n.endOffer.onRail fun r => { r with
    certain := false, boot := r.boot || boot, heardSince := []
    certainTimer := match n.pres.plan with | some p => n.after p.lifetime | none => none }

/-- The view becomes certain again (R124). -/
def Node.makeCertain (n : Node) : Node :=
  (n.onRail fun r => { r with certain := true, boot := false, heardSince := [], certainTimer := none }).roomTest

/-- The first ending of uncertainty: every address with a Peer Table entry has been heard by PRESENCE since the
latest cause, and the entry holds a last presence; not for power-on and rejoin (R59, R124, log entry 14). -/
def Node.certainIfHeard (n : Node) : Node :=
  if n.rail.certain = false ∧ n.rail.boot = false ∧ n.pres.plan.isSome = true
      ∧ n.peers.entries.all (fun e => n.rail.heardSince.contains e.address && e.lastPresence.isSome) = true then n.makeCertain
  else n

end Sys2Proof.Machine
end

