-- ==== Sys2Proof/Machine/Seek.lean ====
section
/-! DEFINITION. The parts of the Grade Engine, the Peer Table and the Pairing Engine that act on each other's
reports: starting the regime and aborting the long rest (R93, R97, R107), the candidate list (R56-R58), the
target, proposals and eligibility (R146-R149). -/

namespace Sys2Proof.Machine

/-! ### Grade Engine: reports of pair state (R93, R107) -/

/-- A cleared record, with profile id and cells of a VALID tag (R94). -/
def Node.freshRecord (n : Node) : Record :=
  match n.profile with
  | some p => { Record.cleared with profile := some n.mon.tag.profile.toNat, cells := some p.cells }
  | none => .cleared

/-- The plan's rest time in ms. -/
def Plan.restMs (p : Plan) : Nat := p.restTime * 60000

/-- Opens the rest watch of REST_A or REST_B (R97, R102). -/
def Node.openRest (n : Node) : Node :=
  match n.pres.plan with
  | some p => n.watchGrade p.restMs
  | none => n

/-- REST_A is entered: the working record is cleared and the rest watch opened (R97). -/
def Node.enterRestA (n : Node) : Node :=
  (n.onGrade fun g => { g with state := .restA, working := n.freshRecord }).openRest

/-- The start conditions of the regime (R93). -/
def Node.mayStart (n : Node) : Bool :=
  (n.grade.state == .ungraded || n.grade.state == .regrading) && n.active && n.mon.tagState == .valid
    && (n.pair.state == .unpaired || n.pair.state == .seeking)

/-- The Grade Engine tests its start conditions (R93). -/
def Node.startRegime (n : Node) : Node := if n.mayStart then n.enterRestA else n

/-- The long rest is aborted: its watch is cancelled and GRADED entered (R107); not in STRAPFAULT or CLASHED (R115). -/
def Node.abortSelfRest (n : Node) : Node :=
  if n.grade.state = .selfRest ∧ n.live = true then n.cancelGrade.onGrade fun g => { g with state := .graded } else n

/-- The Grade Engine takes a report of the pair state (R93, R107). -/
def Node.pairReported (n : Node) : Node :=
  (if n.pair.state = .unpaired ∨ n.pair.state = .seeking then n else n.abortSelfRest).startRegime

/-! ### Pair state -/

/-- The pair state changes and the change is reported; outside JOINED and LEAVING the silence flag is clear and its
timer stopped (R145, R159). -/
def Node.setPair (n : Node) (s : PairState) : Node :=
  if n.pair.state = s then n
  else
    (n.onPair fun q =>
      if s = .joined ∨ s = .leaving then { q with state := s }
      else { q with state := s, silent := false, silenceTimer := none }).pairReported

/-! ### The candidate list (R56-R58) -/

/-- The figures CAP and RES of a record, both present. -/
def Record.figures (r : Record) : Option (Fig × Fig) :=
  match r.cap, r.res with
  | some c, some s => some (c, s)
  | _, _ => none

/-- The figures of the published copy where it may pair: class A, B or C with CAP and RES (R56, R146). -/
def Node.ownFigures (n : Node) : Option (Fig × Fig) :=
  if n.grade.published.cls.pairs then n.grade.published.figures else none

/-- The difference of two classes, A as 1, B as 2, C as 3 (R57). -/
def classGap (x y : Class) : Nat := (x.code - y.code) + (y.code - x.code)

/-- The score of the node's published record against a peer's held record; none where either lacks CAP or RES (R147). -/
def Node.scoreOf (n : Node) (p : Plan) (e : Peer) : Option Fig :=
  match n.grade.published.figures, e.cap, e.res with
  | some (c, r), some ec, some er => some (mismatch p.wQ p.wR c.mag r.mag ec.mag er.mag)
  | _, _, _ => none

/-- The part of the candidate tests that the bond test shares (R57, R155): classes, profile, class distance, score. -/
def Node.matched (n : Node) (p : Plan) (e : Peer) : Bool :=
  n.grade.published.cls.pairs && e.cls.pairs && e.profile.isSome && e.profile == n.grade.published.profile
    && decide (classGap e.cls n.grade.published.cls ≤ p.classDistance)
    && (match n.scoreOf p e with | some s => decide (s.mag ≤ p.maxScore) | none => false)

/-- Every test of R57 for a peer entry. -/
def Node.isCandidate (n : Node) (p : Plan) (e : Peer) : Bool :=
  decide (e.address ≤ p.roster) && n.ownRow e.address && e.heldGen.isSome && e.announced == e.heldGen && n.matched p e
    && (e.pairState == some .seeking || e.pairState == some .proposing) && e.nodeState == some .active
    && (e.gradeState == some .graded || e.gradeState == some .selfRest)

/-- A candidate placed by score ascending, then by address ascending (R58). -/
def insertCand (c : Nat × Fig) : List (Nat × Fig) → List (Nat × Fig)
  | [] => [c]
  | x :: xs =>
    if x.2.mag < c.2.mag ∨ (x.2.mag = c.2.mag ∧ x.1 < c.1) then x :: insertCand c xs else c :: x :: xs

/-- The candidates among these entries, in order (R57, R58). -/
def Node.candsOf (n : Node) (p : Plan) : List Peer → List (Nat × Fig)
  | [] => []
  | e :: es =>
    if n.isCandidate p e then
      match n.scoreOf p e with
      | some s => insertCand (e.address, s) (n.candsOf p es)
      | none => n.candsOf p es
    else n.candsOf p es

/-- The candidate list as derived now; empty where a condition of R56 fails. -/
def Node.derive (n : Node) : List (Nat × Fig) :=
  match n.pres.plan with
  | some p => if n.active ∧ n.ownFigures.isSome = true then n.candsOf p n.peers.entries else []
  | none => []

/-! ### Target, proposals, eligibility (R146, R148, R149) -/

/-- The Peer Table entry of an address (R48). -/
def Node.peer (n : Node) (a : Nat) : Option Peer := n.peers.entries.find? fun e => e.address == a

/-- The target: the first candidate that is not the barred address (R148). -/
def Node.retarget (n : Node) : Node :=
  n.onPair fun q => { q with target := (n.peers.cands.find? fun c => q.barred != some c.1).map Prod.fst }

/-- The node proposes to `t`: a PROPOSE is handed, PROPOSING entered or kept, the proposal timer started (R149). -/
def Node.propose (n : Node) (t : Nat) : Node :=
  match n.pres.plan, n.peers.cands.find? (fun c => c.1 == t), (n.peer t).bind Peer.heldGen with
  | some p, some c, some g =>
    ((n.hand .propose (proposeFields t c.2 n.grade.generation g)).onPair fun q =>
      { q with proposed := some t, proposalTimer := n.after (p.proposalPeriod * 1000) }).setPair .proposing
  | _, _, _ => n

/-- A node in SEEKING whose target is an address proposes to it (R149). -/
def Node.seekOn (n : Node) : Node :=
  match n.pair.target with
  | some t => if n.pair.state = .seeking then n.propose t else n
  | none => n

/-- The node proposes no longer: the proposal timer stops and the proposed-to address is cleared. -/
def Node.endProposal (n : Node) : Node := n.onPair fun q => { q with proposed := none, proposalTimer := none }

/-- The row position view holds at least one FREE position (R146). -/
def Node.hasFree (n : Node) : Bool :=
  match n.pos.view with
  | some v => v.any fun r => r.state == .free
  | none => false

/-- The conditions under which a node is eligible to seek (R146). -/
def Node.eligible (n : Node) : Bool :=
  n.active && (n.grade.state == .graded || n.grade.state == .selfRest) && n.ownFigures.isSome && n.hasFree

/-- The Pairing Engine tests eligibility (R146); it takes no such event in STRAPFAULT or CLASHED (R161). -/
def Node.testEligible (n : Node) : Node :=
  if n.live then
    match n.pair.state with
    | .unpaired => if n.eligible then (n.setPair .seeking).seekOn else n
    | .seeking => if n.eligible then n else n.setPair .unpaired
    | .proposing => if n.eligible then n else n.endProposal.setPair .unpaired
    | .bound => n
    | .joining => n
    | .joined => n
    | .leaving => n
  else n

/-- A proposal ends: a new one to the target, or SEEKING where there is none (R149). -/
def Node.proposalEnds (n : Node) : Node :=
  match n.pair.target with
  | some t => n.propose t
  | none => n.endProposal.setPair .seeking

/-- The candidate list is derived anew and handed to the Pairing Engine where it changed, which takes its target
by it (R58, R148, R149). -/
def Node.rederive (n : Node) : Node :=
  if n.derive = n.peers.cands then n
  else
    let n1 := n.onPeers fun t => { t with cands := n.derive }
    if n.live then n1.retarget.seekOn else n1

/-- The bond test for a bond with `x` (R155). -/
def Node.bondTest (n : Node) (x : Nat) : Bool :=
  match n.pres.plan, n.peer x with
  | some p, some e => n.matched p e
  | _, _ => false

end Sys2Proof.Machine
end

