-- ==== Sys2Proof/Machine/Place.lean ====
section
/-! DEFINITION. The parts of the Position Manager and of the Pairing Engine that other blocks act through: the row
position view (R165-R167), the driven parts (R173), the hand-over of CLAIM, ENGAGE and VACATE with their repeats
(R164), the end of a bond (R176), dissolution (R154, R157) and the steps of leaving (R175). -/

namespace Sys2Proof.Machine

/-! ### The row position view (R165-R167) -/

/-- A FREE record (R165). -/
def PosRecord.free : PosRecord := { state := .free, couple := none }

/-- The view that a stored plan begins with: every record FREE (R165). -/
def emptyView (p : Plan) : List PosRecord := List.replicate p.positions .free

/-- The record of a position 1..P. -/
def recordAt (v : List PosRecord) (p : Nat) : Option PosRecord := if p = 0 then none else v[p - 1]?

/-- The view with the record of a position replaced. -/
def setRecord (v : List PosRecord) (p : Nat) (r : PosRecord) : List PosRecord := if p = 0 then v else v.set (p - 1) r

/-- Record p holds this couple. -/
def holds (v : List PosRecord) (p x y : Nat) : Bool :=
  match recordAt v p with
  | some r => r.couple == some (x, y)
  | none => false

/-- The lead of a record. -/
def PosRecord.lead (r : PosRecord) : Option Nat := r.couple.map Prod.fst

/-- The address is a member of the record's couple. -/
def PosRecord.member (r : PosRecord) (x : Nat) : Bool :=
  match r.couple with
  | some (a, b) => a == x || b == x
  | none => false

/-- The view with every record whose lead is x set FREE, but for the record of `but` (R166). -/
def freeLead (x but : Nat) : Nat → List PosRecord → List PosRecord
  | _, [] => []
  | k, r :: rs => (if r.lead = some x ∧ k ≠ but then PosRecord.free else r) :: freeLead x but (k + 1) rs

/-- The view after a CLAIM of position p by x with partner y, both of this row with y above x (R166). -/
def takeClaim (v : List PosRecord) (x p y : Nat) : List PosRecord :=
  if p = 0 ∨ v.length < p ∨ y ≤ x ∨ holds v p x y then v
  else
    let w := freeLead x p 1 v
    match recordAt w p with
    | some r => if r.state = .free then setRecord w p { state := .claimed, couple := some (x, y) } else w
    | none => w

/-- The view after an ENGAGE step from x (R166). -/
def takeEngage (v : List PosRecord) (x p step : Nat) : List PosRecord :=
  match recordAt v p with
  | some r =>
    if r.lead = some x then
      if step = 1 ∧ r.state = .claimed then setRecord v p { r with state := .engaging }
      else if step = 3 ∧ r.state = .engaging then setRecord v p { r with state := .engaged }
      else v
    else v
  | none => v

/-- The view after a VACATE step from x; `reason` is the number carried (R166). -/
def takeVacate (v : List PosRecord) (x p step reason : Nat) : List PosRecord :=
  match recordAt v p with
  | some r =>
    if step = 3 ∧ r.lead = some x then setRecord v p .free
    else if r.member x then
      if step = 0 ∧ reason ≤ 2 ∧ r.state = .engaging then setRecord v p { r with state := .claimed }
      else if step = 1 ∧ (r.state = .engaging ∨ r.state = .engaged) then setRecord v p { r with state := .leaving }
      else v
    else v
  | none => v

/-- The couple that x and y make: the lower address leads (R153, R167). -/
def coupleOf (x y : Nat) : Nat × Nat := if x < y then (x, y) else (y, x)

/-- The state in which a FREE record takes the couple that a PRESENCE of this pair state states; none where it states
no bond (R167). -/
def statedState : Nat → Option PosState
  | 3 => some .claimed | 4 => some .claimed | 5 => some .engaged | 6 => some .leaving | _ => none

/-- The view after a PRESENCE of x that states position p, partner y and this pair state (R167). -/
def takeStated (v : List PosRecord) (x p y pairState : Nat) : List PosRecord :=
  match recordAt v p, statedState pairState with
  | some r, some st =>
    if r.state = .free then setRecord v p { state := st, couple := some (coupleOf x y) }
    else if r.couple = some (coupleOf x y) ∧ (st = .engaged ∨ st = .leaving) then setRecord v p { r with state := st }
    else v
  | _, _ => v

/-- The view after the removal of a peer: CLAIMED and ENGAGING records that it leads are set FREE (R167). -/
def takeRemoval (v : List PosRecord) (x : Nat) : List PosRecord :=
  v.map fun r => if r.lead = some x ∧ (r.state = .claimed ∨ r.state = .engaging) then PosRecord.free else r

/-- The lowest-numbered FREE record, counted from `k` (R168). -/
def lowestFree : Nat → List PosRecord → Option Nat
  | _, [] => none
  | k, r :: rs => if r.state = .free then some k else lowestFree (k + 1) rs

/-- The view changes; a change between no FREE record and some is reported to the Pairing Engine (R165). -/
def Node.setView (n : Node) (v : List PosRecord) : Node :=
  let n1 : Node := n.onPos fun q => { q with view := some v }
  if n1.hasFree = n.hasFree then n1 else n1.testEligible

/-- The position as PRESENCE carries it: of the lead from CLAIM_WAIT, of the partner from SETTLE_WAIT (R164). -/
def Positions.stated (q : Positions) : Option Nat :=
  match q.phase with
  | .none => none
  | .bonded => none
  | .claiming => none
  | .claimWait => if q.lead then q.position else none
  | .settleWait => q.position
  | .reported => q.position
  | .transfer => q.position
  | .engaging => q.position
  | .inString => q.position
  | .vacating => q.position

/-! ### Notices under repeat (R164) -/

/-- Hands a notice of the Position Manager once. -/
def Node.sendPos (n : Node) : PosNotice → Node
  | .claim p y => n.hand .claim (twoFields p y)
  | .engage p s soc => n.hand .engage (engageFields p s (soc.map fun x => formFig .soc x) none)
  | .vacate p s r => n.hand .vacate (vacateFields p s r)

/-- Hands a notice of the Position Manager, to be repeated every 1000 ms until it is heard or the phase ends. -/
def Node.handPos (n : Node) (x : PosNotice) : Node :=
  (n.sendPos x).onPos fun q => { q with repeats := (x, n.repeatAt) :: q.repeats.filter fun y => y.1 != x }

/-- A notice is no longer repeated. -/
def Node.stopPos (n : Node) (x : PosNotice) : Node := n.onPos fun q => { q with repeats := q.repeats.filter fun y => y.1 != x }

/-- A VACATE of step 0 by which a partner asks to leave position `p`; an engage abort is none (R174, R175). -/
def asksLeave (p : Nat) : PosNotice → Bool
  | .vacate q s r => q == p && s == 0 && decide (2 < r)
  | .claim _ _ => false
  | .engage _ _ _ => false

/-- The partner's asking to leave is no longer repeated: step 1 has been heard from its lead (R164, R175). -/
def Node.stopAsking (n : Node) (p : Nat) : Node :=
  n.onPos fun q => { q with repeats := q.repeats.filter fun y => !asksLeave p y.1 }

/-- The phase changes; the notices handed in the phase that ends are no longer repeated, a partner's asking to leave too,
which ends with VACATING also where step 1 was never heard (R164; the model's choice, log entry 19). A notice handed at the
change belongs to the phase entered (log entry 19). -/
def Node.setPhase (n : Node) (p : Phase) : Node :=
  n.onPos fun q => { q with phase := p, repeats := if q.phase = p then q.repeats else [] }

/-- The node hands a VACATE naming its position. -/
def Node.handVacate (n : Node) (step : Nat) (r : Reason) : Node :=
  match n.pos.position with
  | some p => n.handPos (.vacate p step r.code)
  | none => n

/-! ### The driven parts (R173) -/

/-- A drive toward `dst`: a changed drive awaits its confirmation until `deadline`. -/
def Actuator.move (a : Actuator) (dst : Bool) (deadline : Timer) : Actuator :=
  if a.drive = dst then a else { a with drive := dst, timer := deadline }

/-- No confirmation is awaited: the step that waited for the move is taken at once (R176, log entry 30). -/
def Actuator.settled (a : Actuator) : Bool := a.timer.isNone

/-- Drives the contactor; the step, if any, follows at the confirmation. -/
def Node.driveContactor (n : Node) (dst : Bool) (step : Option PosStep) : Node :=
  n.onPos fun q => { q with contactor := q.contactor.move dst (n.after 100), onContactor := step }

/-- Drives the transfer switch; the step, if any, follows at the confirmation. -/
def Node.driveSwitch (n : Node) (dst : Bool) (step : Option PosStep) : Node :=
  n.onPos fun q => { q with switch := q.switch.move dst (n.after 100), onSwitch := step }

/-- The hardware opens the contactor at once; at a lead it also lowers the engage line and drops the switch to
bypass (R176). -/
def Node.hardwareOpen (n : Node) : Node :=
  n.onPos fun q =>
    if q.phase ≠ .none ∧ q.lead = true then { q with contactor := .safe, switch := .safe, engageLine := false }
    else { q with contactor := .safe }

/-- A lead lowers its engage line and drives its switch to bypass. -/
def Node.bypass (n : Node) (step : Option PosStep) : Node :=
  if n.pos.lead then (n.onPos fun q => { q with engageLine := false }).driveSwitch false step else n

/-! ### The steps that follow a confirmation (R173, R175) -/

/-- The Pairing Engine takes the report of leaving begun (R158). -/
def Node.leavingBegun (n : Node) : Node :=
  if n.pair.state = .joining ∨ n.pair.state = .joined then n.setPair .leaving else n

/-- The step that waited for a driven part (R173, R175). VACATE steps 1 and 2 carry the member's reason of the leave, which
R175 gives for steps 0 and 3 alone (the model's choice, log entry 42). -/
def Node.takeStep (n : Node) : PosStep → Node
  | .engage1 => match n.pos.position with
    | some p => n.handPos (.engage p 1 none)
    | none => n
  | .engage2 => match n.pos.position with
    | some p => n.handPos (.engage p 2 none)
    | none => n
  | .engage3 => match n.pos.position with
    | some p => (n.handPos (.engage p 3 none)).onPos fun q => { q with engageTimer := none }
    | none => n
  | .vacate1 => (n.handVacate 1 n.pos.leaveReason).leavingBegun.onPos fun q => { q with leaveStep := 2, leaveTimer := n.after 2000 }
  | .vacate2 => n.handVacate 2 n.pos.leaveReason
  | .vacate3 => n.handVacate 3 n.pos.leaveReason

/-- Takes the step that waits for the contactor. -/
def Node.contactorStep (n : Node) : Node :=
  match n.pos.onContactor with
  | some s => (n.onPos fun q => { q with onContactor := none }).takeStep s
  | none => n

/-- Takes the step that waits for the switch. -/
def Node.switchStep (n : Node) : Node :=
  match n.pos.onSwitch with
  | some s => (n.onPos fun q => { q with onSwitch := none }).takeStep s
  | none => n

/-- Takes the steps whose driven part awaits no confirmation. -/
def Node.stepsAtOnce (n : Node) : Node :=
  let n1 : Node := if n.pos.switch.settled then n.switchStep else n
  if n1.pos.contactor.settled then n1.contactorStep else n1

/-! ### Leaving (R175, R176) -/

/-- Steps 0 and 1 of leaving: a JOIN is withdrawn (R176), the partner asks, the lead bypasses; `release` as in `withdrawJoin`. -/
def Node.beginLeave (n : Node) (r : Reason) (release : Bool := true) : Node :=
  let n1 : Node := ((n.withdrawJoin release).setPhase .vacating).onPos fun q =>
    { q with leaveReason := r, leaveStep := 1, leaveTimer := none, engageTimer := none, onContactor := none, onSwitch := none }
  if n.pos.lead then (n1.bypass (some .vacate1)).stepsAtOnce
  else (n1.handVacate 0 r).leavingBegun

/-! ### The end of a bond and dissolution (R154, R157, R176) -/

/-- A phase in which an end of the bond is taken (R176). It is taken in VACATING too, where the bond of a lead that still
awaits its switch in JOINING can be dissolved (R154, the model's choice, log entry 34). -/
def Phase.bonds : Phase → Bool
  | .none => false | .bonded => true | .claiming => true | .claimWait => true | .settleWait => true
  | .reported => true | .transfer => true | .engaging => true | .inString => false | .vacating => true

/-- The positions, counted from `k`, whose record holds this couple. -/
def claimsOf (couple : Nat × Nat) : Nat → List PosRecord → List Nat
  | _, [] => []
  | k, r :: rs => if r.couple = some couple then k :: claimsOf couple (k + 1) rs else claimsOf couple (k + 1) rs

/-- A lead whose claim is recorded in its view withdraws it (R176). -/
def Node.withdrawClaim (n : Node) (lead : Bool) (partner : Option Nat) : Node :=
  match lead, partner, n.pos.view with
  | true, some y, some v =>
    (claimsOf (n.address, y) 1 v).foldl (fun m p => m.handPos (.vacate p 3 Reason.ended.code)) n
  | _, _, _ => n

/-- The Position Manager takes the report of the end of the bond (R176). It ends a JOIN that it is a party to, at the
initiator and at the counterpart, which holds no request of its own (the model's choice, log entry 13); `release` as in `withdrawJoin`. -/
def Node.endBond (n : Node) (release : Bool := true) : Node :=
  if n.pos.phase.bonds then
    let n1 : Node := ((((n.driveContactor false none).bypass none).withdrawJoin release)).cancelPosition
    let n2 : Node := (n1.setPhase .none).onPos fun q =>
      { q with partner := none, position := none, claimed := none, ownReport := none, partnerReport := none, onContactor := none
               onSwitch := none, leaveStep := 0, windowTimer := none, engageTimer := none, leaveTimer := none
               liveTimer := none }
    n2.withdrawClaim n.pos.lead n.pos.partner
  else n

/-- UNBIND causes (R152). -/
def unbindAnswer : Nat := 0
def unbindLost : Nat := 1
def unbindGrade : Nat := 2
def unbindEqualize : Nat := 3
def unbindNoPosition : Nat := 4
def unbindDirective : Nat := 5
def unbindModule : Nat := 6
def unbindHold : Nat := 7
def unbindRejoin : Nat := 8
def unbindDenied : Nat := 9

/-- The causes that bar the former partner: EQUALIZE, NOPOSITION, DIRECTIVE (R157). -/
def barring (cause : Nat) : Bool := cause == unbindEqualize || cause == unbindNoPosition || cause == unbindDirective

/-- An address is barred for 10 proposal periods, and the target taken anew (R148, R157). -/
def Node.bar (n : Node) (x : Nat) : Node :=
  match n.pres.plan with
  | some p => (n.onPair fun q => { q with barred := some x, barTimer := n.after (p.proposalPeriod * 10000) }).retarget
  | none => n

/-- A bond is held that can be dissolved: BOUND or JOINING (R154). -/
def Node.bonded (n : Node) : Bool := n.pair.state == .bound || n.pair.state == .joining

/-- The bond in BOUND or JOINING is dissolved (R154); `send` is false where the partner's UNBIND dissolves it,
`release` as in `withdrawJoin`. -/
def Node.dissolve (n : Node) (cause : Nat) (send : Bool := true) (release : Bool := true) : Node :=
  match n.pair.partner with
  | some x =>
    if n.bonded then
      let n1 : Node := if send then n.hand .unbind (twoFields x cause) else n
      let n2 : Node := n1.onPair fun q => { q with lastCause := some cause, partner := none, frames := 0 }
      let n3 : Node := if barring cause then n2.bar x else n2
      ((n3.endBond release).setPair .unpaired).testEligible
    else n
  | none => n

/-- The bond test is made on a bond in BOUND or JOINING; a failure dissolves it (R155). -/
def Node.testBond (n : Node) : Node :=
  match n.pair.partner with
  | some x => if n.bonded ∧ n.bondTest x = false then n.dissolve unbindGrade else n
  | none => n

/-- The Pairing Engine takes the report of leaving complete (R158). The bar of R157 is set at the node that accepted the
RELEASE directive, and not at its partner, which knows of the directive by the VACATE reason alone (the model's choice,
log entry 41). -/
def Node.leavingComplete (n : Node) : Node :=
  match n.pair.partner with
  | some x =>
    if n.pair.state = .leaving then
      let n1 : Node := n.onPair fun q => { q with partner := none, frames := 0, byDirective := false }
      let n2 : Node := if n.pair.byDirective then n1.bar x else n1
      (n2.setPair .unpaired).testEligible
    else n
  | none => n

end Sys2Proof.Machine
end

