-- ==== Sys2Proof/Machine/Regime.lean ====
section
/-! DEFINITION. The Grade Engine (chapter 7): publication, the regime from REST_A to SELFREST, qualification chains,
and what the engine does at a change of node state, a REGRADE and a module change. -/

namespace Sys2Proof.Machine

/-! ### Publication (R95) -/

/-- The repeat timer runs in ACTIVE and HOLD (R95). -/
def NodeState.repeats (s : NodeState) : Bool := s == .active || s == .hold

/-- Hands a GRADE carrying the published copy, which restarts the repeat timer (R95). -/
def Node.handGrade (n : Node) : Node :=
  (n.hand .grade (gradeFields n.grade.generation n.grade.published.cls.code n.grade.published)).onGrade fun g =>
    { g with repeatTimer := match n.pres.plan with
        | some p => if n.pres.state.repeats then n.after (8 * p.presencePeriod) else none
        | none => none }

/-- A publication of a record (R95): generation, published copy, GRADE, and the reports to the Peer Table and the
Pairing Engine. -/
def Node.publish (n : Node) (r : Record) : Node :=
  ((((n.onGrade fun g => { g with published := r, generation := (g.generation + 1) % 256 }).handGrade).rederive).testBond).testEligible

/-- The grade state changes, and the change is reported to the Pairing Engine (R92, R146). -/
def Node.gradeTo (n : Node) (s : GradeState) : Node := (n.onGrade fun g => { g with state := s }).testEligible

/-! ### Chains and class (R109, R110) -/

/-- The figure of a record that a criterion names; none where it is absent. -/
def Record.fig (r : Record) : FigKind → Option Fig
  | .cap => r.cap | .res => r.res | .hlt => r.hlt | .sdr => r.sdr | .ocv => r.ocv | .tmp => r.tmp
  | .nam => none | .cel => none | .soc => none | .hdr => none | .sco => none

/-- The value of a criterion; false where the record's figure is absent (R109, R14). -/
def Criterion.value (c : Criterion) (r : Record) : Bool :=
  if c.atLeast then figGe (r.fig c.kind) (some c.limit) else figGe (some c.limit) (r.fig c.kind)

/-- The verdict after a later criterion of value `c` (R109). -/
def ChainOp.combine (o : ChainOp) (v c : Bool) : Bool :=
  match o with
  | .load => c | .and => v && c | .or => v || c | .andNot => v && !c | .orNot => v || !c

/-- The result of a chain: the first criterion sets the verdict, an empty chain is false (R109). -/
def chainResult (r : Record) : List Criterion → Bool
  | [] => false
  | c :: cs => cs.foldl (fun v d => d.op.combine v (d.value r)) (c.value r)

/-- The class of a graded record: the first chain that is true (R110). -/
def Plan.classify (p : Plan) (r : Record) : Class :=
  if chainResult r p.chainA then .a
  else if chainResult r p.chainB then .b
  else if chainResult r p.chainC then .c
  else .reject

/-! ### Attempts (R103-R105) -/

/-- ΔS of an attempt (R103). -/
def deltaS (a b : Nat) : Nat := (a - b) + (b - a)

/-- A state of charge at or beyond an end point (R103). -/
def endPoint (s : Nat) : Bool := s == 0 || s == 10000

/-- The cases in which R103 fails an attempt. -/
def attemptFails (depth : Nat) (count : Int) (a b : Nat) : Bool :=
  decide (deltaS a b < depth * 50) || count == 0
    || (decide (0 < count) && decide (a < b)) || (decide (count < 0) && decide (b < a))
    || endPoint a || endPoint b

/-- CAP of an attempt (R104). -/
def capOf (count : Int) (a b : Nat) : Fig := formQuotient .cap ((count.natAbs * 10 : Nat) : Int) (36 * deltaS a b)

/-- HLT of an attempt, from the CAP as formed (R104). -/
def hltOf (cap nam : Fig) : Fig := formQuotient .hlt ((cap.mag * 1000 : Nat) : Int) nam.mag

/-- RES of a pulse (R99). -/
def resOf (before vEnd : Nat) (current : Int) : Fig :=
  formQuotient .res (((((before : Int) - vEnd).natAbs * 100000 : Nat)) : Int) current.natAbs

/-- SDR of a long rest of `hours` (R108). -/
def sdrOf (start finish hours : Nat) : Fig := formQuotient .sdr (((start : Int) - finish) * 720) hours

/-- A failed or abandoned attempt (R105). -/
def Node.failAttempt (n : Node) : Node :=
  if n.grade.attempts + 1 < 3 then (n.onGrade fun g => { g with attempts := g.attempts + 1 }).enterRestA
  else
    let n1 : Node := (n.onGrade fun g => { g with attempts := 3 }).gradeTo .failed
    (n1.reportFault .gradeFail).publish { n1.freshRecord with attempts := 3 }

/-- The time the long rest lasts, rest time included, in ms (R106). -/
def Plan.selfRestMs (p : Plan) : Nat := p.restMs + p.selfRest * 3600000

/-- SELFREST is entered from COMPUTE (R106). -/
def Node.enterSelfRest (n : Node) (p : Plan) (soc : Nat) : Node :=
  ((n.onGrade fun g => { g with restStart := some soc }).watchGrade p.selfRestMs).gradeTo .selfRest

/-- A successful attempt: figures, class, publication and SELFREST (R104). -/
def Node.succeed (n : Node) (p : Plan) (f : Profile) (a b : Nat) : Node :=
  let w : Record := { n.grade.working with
    cap := some (capOf n.mon.counter.count a b), hlt := some (hltOf (capOf n.mon.counter.count a b) f.nam)
    attempts := n.grade.attempts }
  let r : Record := { w with cls := p.classify w }
  (((n.onGrade fun g => { g with working := r }).publish r).onGrade fun g => { g with attempts := 0 }).enterSelfRest p b

/-- COMPUTE: the attempt is judged (R103). -/
def Node.compute (n : Node) : Node :=
  match n.pres.plan, n.profile, n.grade.readingA.bind RestReading.soc, n.grade.readingB.bind RestReading.soc with
  | some p, some f, some a, some b =>
    if attemptFails p.testDepth n.mon.counter.count a b then n.failAttempt else n.succeed p f a b
  | _, _, _, _ => n.failAttempt

/-! ### Rest watches of the Grade Engine (R97, R102, R108) -/

/-- The request for PULSE (R98). -/
def Plan.pulseRequest (p : Plan) : LevelRequest :=
  { dir := .source, setpoint := p.pulseCurrent, target := none, bound := none, limit := some 2000, exchange := none, other := none }

/-- PULSE is entered and requested; a refusal leads back to REST_A (R98). -/
def Node.startPulse (n : Node) (p : Plan) : Node :=
  if n.takesRequest .pulse p.pulseRequest then
    (n.onGrade fun g => { g with state := .pulse }).requestLevel .pulse p.pulseRequest
  else n.enterRestA

/-- Reading A is taken in ACTIVE (R97). -/
def Node.takeReadingA (n : Node) (r : RestReading) : Node :=
  match n.pres.plan with
  | some p => if n.active then ((n.onGrade fun g => { g with readingA := some r }).restartCounter).startPulse p else n
  | none => n

/-- Reading B is taken, and COMPUTE follows (R102). -/
def Node.takeReadingB (n : Node) (r : RestReading) : Node :=
  ((n.stopCounter).onGrade fun g =>
    { g with readingB := some r, working := { g.working with ocv := some r.ocv }, state := .compute }).compute

/-- The long rest completes (R108). -/
def Node.endSelfRest (n : Node) (r : RestReading) : Node :=
  match n.pres.plan, n.grade.restStart, r.soc with
  | some p, some start, some finish =>
    let w : Record := { n.grade.working with sdr := some (sdrOf start finish p.selfRest) }
    let w1 : Record := { w with cls := p.classify w }
    ((n.onGrade fun g => { g with working := w1 }).publish w1).gradeTo .graded
  | _, _, _ => n

/-- The Grade Engine takes the reading of its completed watch; not in STRAPFAULT or CLASHED (R115). -/
def Node.gradeReading (n : Node) (r : RestReading) : Node :=
  if n.live then
    match n.grade.state with
    | .restA => n.takeReadingA r
    | .restB => n.takeReadingB r
    | .selfRest => n.endSelfRest r
    | .ungraded => n | .pulse => n | .capTest => n | .compute => n | .graded => n | .failed => n | .regrading => n
  else n

/-! ### Pulse and test completions (R98-R102) -/

/-- The direction of the capacity test (R100). -/
def testDir (soc : Nat) : Dir := if 5000 ≤ soc then .source else .sink

/-- The cell voltage bound of a direction (R100, R134). -/
def Profile.boundFor (f : Profile) : Dir → Nat
  | .source => f.cellMin.mag | .sink => f.cellMax.mag | .off => 0

/-- The capacity test as stated to the Rail Allocator (R100). -/
def testRequest (p : Plan) (f : Profile) (soc : Nat) : Request :=
  .test (testDir soc) p.testUnits (p.testDepth * f.nam.mag * 360) (f.boundFor (testDir soc))
    (formQuotient .hdr ((p.testDepth * f.nam.mag : Nat) : Int) 100)

/-- CAPTEST is entered and the test stated (R100), in LISTEN too, where a PULSE kept over line rejoin may complete (R115): the
request is then held in WAITING until a node state with room (R142 has no request in LISTEN; the model's choice, log entry
44). -/
def Node.enterCapTest (n : Node) : Node :=
  match n.pres.plan, n.profile, n.grade.readingA.bind RestReading.soc with
  | some p, some f, some a => (n.onGrade fun g => { g with state := .capTest }).beginRequest (testRequest p f a)
  | _, _, _ => n

/-- A pulse that met its time limit is valid (R98). -/
def pulseValid (current : Int) (pulseCurrent : Nat) : Bool := decide (1000 * pulseCurrent ≤ 4 * current.natAbs)

/-- The Grade Engine takes a PULSE completion (R98, R99). A pulse that had met its time limit before HOLD was entered keeps
that cause (R81) and makes RES in HOLD too (the model's choice, log entry 44). -/
def Node.pulseDone (n : Node) (c : Completion) : Node :=
  if n.live ∧ n.grade.state = .pulse then
    match n.pres.plan, n.grade.readingA, c.cause, c.pulse with
    | some p, some a, .time, some (i, v) =>
      if pulseValid i p.pulseCurrent then
        (n.onGrade fun g => { g with working := { g.working with res := some (resOf a.millivolts v i) } }).enterCapTest
      else n.enterRestA
    | _, _, _, _ => n.enterRestA
  else n

/-- A stop of the test: TMP at test, REST_B and its watch (R101, R102). -/
def Node.stopTest (n : Node) : Node :=
  (n.onGrade fun g => { g with
    state := .restB, working := { g.working with tmp := some (formFig .tmp n.mon.sample.temperature) } }).openRest

/-- The Grade Engine takes the end of its test; `ordinary` is false for an interrupted one (R101). -/
def Node.testDone (n : Node) (ordinary : Bool) : Node :=
  if n.live ∧ n.grade.state = .capTest then (if ordinary then n.stopTest else n.failAttempt) else n

/-! ### Node state, regrade, module change (R95, R97, R111, R112, R114, R115) -/

/-- The Grade Engine at the entry into ACTIVE: the repeat of the GRADE, the watch of REST_A, the start conditions. -/
def Node.gradeActive (n : Node) : Node :=
  let n1 : Node := n.handGrade
  (if n1.grade.state = .restA ∧ n1.mon.watchGrade = none then n1.openRest else n1).startRegime

/-- A capacity test is withdrawn and REST_A entered without an attempt (R111, R115); `release` as in `withdrawTest`. -/
def Node.abandonTest (n : Node) (release : Bool := true) : Node :=
  if n.grade.state = .capTest then (n.withdrawTest release).enterRestA else n

/-- The Grade Engine at the entry into HOLD (R95, R111). A PULSE that is ENDING already keeps the cause it ends with (R81;
the model's choice for the cause TIME, log entry 44). -/
def Node.gradeHold (n : Node) : Node :=
  let n1 : Node := n.handGrade
  if n1.grade.state = .pulse then n1.endLevel .pulse else n1.abandonTest false

/-- The repeat timer stops in every other node state (R95). -/
def Node.gradeSilent (n : Node) : Node := n.onGrade fun g => { g with repeatTimer := none }

/-- Why a REGRADE is refused, or none (R112). -/
def Node.regradeRefusal (n : Node) : Option Nat :=
  if !(n.pres.state == .active || n.pres.state == .hold) then some 1
  else if !(n.grade.state == .graded || n.grade.state == .selfRest || n.grade.state == .failed) then some 2
  else if !(n.pair.state == .unpaired || n.pair.state == .seeking) then some 3
  else none

/-- An accepted REGRADE (R112). -/
def Node.acceptRegrade (n : Node) : Node :=
  let n1 : Node := if n.grade.state = .selfRest then n.cancelGrade else n
  let n2 : Node := if n.grade.state = .failed then n1.latchFault .gradeFail else n1
  ((n2.onGrade fun g => { g with attempts := 0 }).gradeTo .regrading).startRegime

/-- The Grade Engine's own state at a module change (R114, step 1). -/
def Node.gradeModule (n : Node) : Node :=
  n.onGrade fun g => { g with state := .ungraded, attempts := 0, working := n.freshRecord }

end Sys2Proof.Machine
end

