-- ==== Sys2Proof/Machine/Position.lean ====
section
/-! DEFINITION. The Position Manager (chapter 10): claiming, the quiet window, equalization, engaging, leaving, and
what it does at a hard breach, a module change and a change of node state. -/

namespace Sys2Proof.Machine

/-! ### Claiming (R168, R169) -/

/-- No position was won: the Pairing Engine dissolves a bond in BOUND (R158, R168). -/
def Node.noPosition (n : Node) : Node := if n.pair.state = .bound then n.dissolve unbindNoPosition else n

/-- The lead chooses the lowest-numbered FREE record and claims it, in ACTIVE only; otherwise it waits in BONDED (R168). -/
def Node.chooseClaim (n : Node) : Node :=
  let n1 : Node := n.onPos fun q => { q with position := none, claimed := none, windowTimer := none }
  if n.active then
    match n.pos.view.bind (lowestFree 1), n.pos.partner with
    | some p, some y =>
      ((n1.setPhase .claiming).onPos fun q => { q with claims := q.claims + 1, claimed := some p }).handPos (.claim p y)
    | _, _ => n1.noPosition
  else n1.setPhase .bonded

/-- The lead's claim is void (R168). -/
def Node.claimVoid (n : Node) : Node := if n.pos.claims < 3 then n.chooseClaim else n.noPosition

/-- A lead in BONDED claims (R168). -/
def Node.claimIfLead (n : Node) : Node :=
  if n.pos.phase = .bonded ∧ n.pos.lead = true ∧ n.active = true then n.chooseClaim else n

/-- BOUND is entered with partner x: the Pairing Engine's own state (R151), then the report of the bond (R153, R164). -/
def Node.enterBound (n : Node) (x : Nat) : Node :=
  let n1 : Node := (n.onPair fun q =>
    { q with partner := some x, proposed := none, proposalTimer := none, frames := 0 }).setPair .bound
  ((n1.setPhase .bonded).onPos fun q =>
    { q with lead := decide (n.address < x), partner := some x, position := none, claims := 0, attempts := 0
             claimed := none, ownReport := none, partnerReport := none, leaveStep := 0, liveTimer := none }).claimIfLead

/-- The couple's position is taken and the quiet window started (R168, R169). -/
def Node.takePosition (n : Node) (p : Nat) : Node :=
  match n.pres.plan with
  | some pl => (n.setPhase .claimWait).onPos fun q =>
      { q with position := some p, claimed := none, windowTimer := n.after pl.quietWindow }
  | none => n

/-- The node hears its own CLAIM, which the view has taken (R168). -/
def Node.ownClaimHeard (n : Node) (p y : Nat) (recorded : Bool) : Node :=
  if n.pos.phase = .claiming ∧ n.pos.claimed = some p ∧ n.pos.partner = some y then
    if recorded then n.takePosition p else n.claimVoid
  else if recorded ∧ ¬(n.pos.position = some p ∧ n.pos.partner = some y) then
    n.handPos (.vacate p 3 Reason.ended.code)
  else n

/-- A partner takes position `p` at a CLAIM of its lead that its view records: in BONDED, and in CLAIM_WAIT where its lead
has claimed another position since (R168, R169, log entry 36). -/
def Node.awaitsClaim (n : Node) (p : Nat) : Bool :=
  !n.pos.lead && (n.pos.phase == .bonded || (n.pos.phase == .claimWait && n.pos.position != some p))

/-- A CLAIM heard (R166, R168, R169). -/
def Node.heardClaim (n : Node) (src p y : Nat) : Node :=
  match n.pos.view with
  | some v =>
    if n.ownRow src then
      let w := if n.ownRow y then takeClaim v src p y else v
      let n1 : Node := (if src = n.address then n.stopPos (.claim p y) else n).setView w
      if src = n.address then n1.ownClaimHeard p y (holds w p src y)
      else if n1.awaitsClaim p = true ∧ n1.pos.partner = some src ∧ y = n.address ∧ holds w p src y = true then n1.takePosition p
      else n1
    else n
  | none => n

/-! ### Rounds (R170-R172) -/

/-- A round begins: the rest watch of the join settle time, SETTLE_WAIT, no reports (R170). -/
def Node.beginRound (n : Node) : Node :=
  match n.pres.plan with
  | some p =>
    ((n.setPhase .settleWait).onPos fun q => { q with ownReport := none, partnerReport := none }).watchPosition (p.joinSettle * 1000)
  | none => n

/-- EQUALIZE FAIL: the bond is dissolved and the fault reported (R172). -/
def Node.equalizeFail (n : Node) : Node := (n.dissolve unbindEqualize).reportFault .equalizeFail

/-- One more equalize attempt: at 3 EQUALIZE FAIL, otherwise what follows (R172). -/
def Node.countAttempt (n : Node) (next : Node → Node) : Node :=
  let n1 : Node := n.onPos fun q => { q with attempts := q.attempts + 1 }
  if 3 ≤ n1.pos.attempts then n1.equalizeFail else next n1

/-- The position is won: JOINING, and the first round (R158, R169). -/
def Node.positionWon (n : Node) : Node :=
  let n1 : Node := if n.pair.state = .bound then n.setPair .joining else n
  (n1.onPos fun q => { q with windowTimer := none, firstCheck := true }).beginRound

/-- Each command to close the contactor is reported to the Grade Engine (R107, R173). -/
def Node.closeContactor (n : Node) (step : PosStep) : Node := (n.driveContactor true (some step)).abortSelfRest

/-- A check within the join window starts the engage steps (R173). -/
def Node.beginEngage (n : Node) : Node :=
  let n1 : Node := n.setPhase .engaging
  if n.pos.lead then (n1.onPos fun q => { q with engageTimer := n.after 2000 }).closeContactor .engage1
  else n1.onPos fun q => { q with engageTimer := n.after 3000 }

/-- The units that a voltage difference in mV asks for (R171). -/
def joinUnits (p : Plan) (dv : Nat) : Nat := min p.joinMax (1 + dv / 100)

/-- Above the join window both enter TRANSFER, and the higher member asks for a JOIN (R170, R171). -/
def Node.beginTransfer (n : Node) (p : Plan) (dv : Int) : Node :=
  let n1 : Node := n.setPhase .transfer
  if 0 < dv then n1.beginRequest (.join (joinUnits p dv.natAbs)) else n1

/-- The check of both reports in REPORTED (R170). -/
def Node.check (n : Node) : Node :=
  match n.pres.plan, n.profile, n.pos.ownReport, n.pos.partnerReport with
  | some p, some f, some a, some b =>
    if n.pos.phase = .reported then
      let dv : Int := (voltageOf f a : Int) - voltageOf f b
      let n1 : Node := n.onPos fun q => { q with ownReport := none, partnerReport := none, firstCheck := false }
      if dv.natAbs ≤ p.joinWindow then (if n.active then n1.beginEngage else n1.beginRound)
      else if n.pos.firstCheck then n1.beginTransfer p dv
      else n1.countAttempt fun m => m.beginTransfer p dv
    else n
  | _, _, _, _ => n

/-- The settled report at the completion of the rest watch. A member that holds both reports as it enters REPORTED, a copy of an
earlier own report being heard in SETTLE_WAIT, makes the check (R170). -/
def Node.settledReport (n : Node) (r : RestReading) : Node :=
  if n.live ∧ n.pos.phase = .settleWait then
    match n.pos.position with
    | some p => ((n.setPhase .reported).handPos (.engage p 0 r.soc)).check
    | none => n
  else n

/-- The Position Manager learns that its JOIN has left the rail view (R136, R170, R171). -/
def Node.joinEnded (n : Node) (ordinary : Bool) : Node :=
  let n1 : Node := n.onPos fun q => { q with liveTimer := none }
  if n.pos.phase = .settleWait ∨ n.pos.phase = .reported ∨ n.pos.phase = .transfer then
    if ordinary then n1.beginRound else n1.countAttempt Node.beginRound
  else n1

/-- The counterpart's live reports begin with the valid AGREE (R171). -/
def Node.joinAgreed (n : Node) : Node := n.onPos fun q => { q with liveTimer := n.after 1000 }

/-- Freed units at which a partial RELEASE is handed (R137). -/
def releaseThreshold (fraction original : Nat) : Nat := max 1 ((fraction * original + 99) / 100)

/-- The initiator of a JOIN asks for a number of units (R137); the units held fall when the partial RELEASE is
handed (log entry 28). -/
def Node.driveJoin (n : Node) (p : Plan) (k : Nat) : Node :=
  match n.rail.own with
  | some o =>
    if o.join ∧ o.initiator = true ∧ o.released = false ∧ n.rail.side = .party then
      let d := min k o.units
      let n1 : Node := n.setUnits .join d
      if releaseThreshold p.releaseFraction o.original ≤ o.units - d then
        (n1.handRail (.release o.id d causeTaper)).onRail fun r => { r with own := some { o with driven := d, units := d } }
      else n1.onRail fun r => { r with own := some { o with driven := d } }
    else n
  | none => n

/-- A live report heard by the initiator of the JOIN that serves its bond (R171). -/
def Node.liveReport (n : Node) (mv : Nat) : Node :=
  match n.pres.plan, n.average, n.rail.own with
  | some p, some v, some o =>
    if o.join ∧ o.initiator = true ∧ o.dropped = false then
      if (v : Int) - mv ≤ p.joinWindow then n.releaseOwn causeStop
      else n.driveJoin p (joinUnits p ((v : Int) - mv).toNat)
    else n
  | _, _, _ => n

/-! ### ENGAGE heard (R170-R173) -/

/-- The phases of a JOINING couple. -/
def Phase.joining : Phase → Bool
  | .settleWait => true | .reported => true | .transfer => true | .engaging => true
  | .none => false | .bonded => false | .claiming => false | .claimWait => false | .inString => false | .vacating => false

/-- The notice names the couple's position and comes from one of its members. -/
def Node.ofCouple (n : Node) (src p : Nat) : Bool :=
  n.pos.position == some p && (src == n.address || n.pos.partner == some src)

/-- The source is the partner. -/
def Node.fromPartner (n : Node) (src : Nat) : Bool := n.pos.partner == some src

/-- The source is the lead of the couple. -/
def Node.fromLead (n : Node) (src : Nat) : Bool := if n.pos.lead then src == n.address else n.fromPartner src

/-- A settled report heard by a partner that is still in BONDED: the position is taken as won (R169). -/
def Node.lateWon (n : Node) (src p soc : Nat) : Node :=
  match n.pos.view with
  | some v =>
    if 1 ≤ p ∧ p ≤ v.length then
      let n1 : Node := n.setView (setRecord v p { state := .claimed, couple := some (src, n.address) })
      ((n1.onPos fun q => { q with position := some p }).positionWon).onPos fun q => { q with partnerReport := some soc }
    else n
  | none => n

/-- A settled report heard (R169, R170). -/
def Node.heardSettled (n : Node) (src p soc : Nat) : Node :=
  if n.pos.phase = .bonded ∧ n.pos.lead = false ∧ n.fromPartner src = true then n.lateWon src p soc
  else if n.ofCouple src p ∧ n.pos.phase.joining = true then
    (n.onPos fun q => if src = n.address then { q with ownReport := some soc } else { q with partnerReport := some soc }).check
  else n

/-- The partner compares its average with the pair bus and closes, or hands an engage abort (R173, R174). -/
def Node.partnerCloses (n : Node) : Node :=
  match n.pres.plan, n.average with
  | some p, some v =>
    if ((v : Int) - n.mon.sample.bus).natAbs ≤ p.joinWindow then n.closeContactor .engage2 else n.handVacate 0 .abort
  | _, _ => n.handVacate 0 .abort

/-- ENGAGE step 1 heard from the lead (R173); a partner that has driven its contactor closed acts no more. -/
def Node.heardStep1 (n : Node) (src p : Nat) : Node :=
  if n.pos.lead = false ∧ n.fromPartner src = true ∧ n.pos.phase ≠ .none then
    if n.pos.phase = .engaging then
      if n.pos.position = some p ∧ n.pos.contactor.drive = false then n.partnerCloses else n
    else n.handPos (.vacate p 0 Reason.abort.code)
  else n

/-- ENGAGE step 2 heard by the lead (R173). -/
def Node.heardStep2 (n : Node) (src p : Nat) : Node :=
  if n.pos.lead = true ∧ n.fromPartner src = true ∧ n.pos.position = some p ∧ n.pos.phase = .engaging ∧ n.pos.engageLine = false then
    (n.onPos fun q => { q with engageLine := true }).driveSwitch true (some .engage3)
  else n

/-- The partner silence timer starts anew with the peer lifetime (R159). -/
def Node.startSilence (n : Node) : Node :=
  match n.pres.plan with
  | some p => n.onPair fun q => { q with silenceTimer := n.after p.lifetime }
  | none => n

/-- ENGAGE step 3 heard: IN_STRING and JOINED (R158, R159, R173). -/
def Node.heardStep3 (n : Node) (src p : Nat) : Node :=
  if n.ofCouple src p ∧ n.fromLead src = true ∧ n.pos.phase = .engaging then
    let n1 : Node := (n.setPhase .inString).onPos fun q => { q with engageTimer := none }
    if n1.pair.state = .joining then (n1.setPair .joined).startSilence else n1
  else n

/-- An ENGAGE heard (R166, R170, R171, R173). A step 0 with a voltage is a live report, one without is settled. -/
def Node.heardEngage (n : Node) (src p step : Nat) (soc voltage : Option Fig) : Node :=
  match n.pos.view with
  | some v =>
    if n.ownRow src then
      let n0 : Node := if src = n.address ∧ voltage = none then n.stopPos (.engage p step (soc.map Fig.mag)) else n
      let n1 : Node := n0.setView (takeEngage v src p step)
      if step = 0 then
        match voltage, soc with
        | some f, _ => if n1.ofCouple src p ∧ n1.fromPartner src = true then n1.liveReport f.mag else n1
        | none, some s => n1.heardSettled src p s.mag
        | none, none => n1
      else if step = 1 then n1.heardStep1 src p
      else if step = 2 then n1.heardStep2 src p
      else if step = 3 then n1.heardStep3 src p
      else n1
    else n
  | none => n

/-! ### VACATE heard (R174, R175) -/

/-- An engage abort heard in ENGAGING (R174). -/
def Node.heardAbort (n : Node) : Node :=
  (((n.driveContactor false none).bypass none).onPos fun q => { q with engageTimer := none }).countAttempt Node.beginRound

/-- Step 3 of leaving begins at the lead: it opens its contactor (R175). -/
def Node.leadOpens (n : Node) (timeout : Bool) : Node :=
  ((n.onPos fun q => { q with leaveStep := 3, leaveTimer := none, leaveReason := if timeout then .timeout else q.leaveReason }).driveContactor
    false (some .vacate3)).stepsAtOnce

/-- Step 2 of leaving: on hearing step 1, the partner opens its contactor (R175). -/
def Node.partnerOpens (n : Node) (r : Reason) : Node :=
  let n1 : Node :=
    if n.pos.phase = .vacating then n
    else ((n.withdrawJoin.setPhase .vacating).onPos fun q =>
      { q with leaveReason := r, leaveStep := 1, engageTimer := none, onSwitch := none }).leavingBegun
  let n2 : Node := match n1.pos.position with
    | some p => n1.stopAsking p
    | none => n1
  if n2.pos.leaveStep < 2 then
    ((n2.onPos fun q => { q with leaveStep := 2 }).driveContactor false (some .vacate2)).stepsAtOnce
  else n2

/-- Step 3 of leaving heard: the phase becomes NONE, and leaving complete is reported (R175). -/
def Node.leaveEnds (n : Node) : Node :=
  (((n.driveContactor false none).setPhase .none).onPos fun q =>
    { q with partner := none, position := none, leaveStep := 0, leaveTimer := none, liveTimer := none, onSwitch := none }).leavingComplete

/-- The couple may begin to leave: it holds its position and is not leaving (R175). A lead still in CLAIM_WAIT has not won its
position and does not act on its partner's VACATE (R175 names no phase; the model's choice, log entry 18). -/
def Phase.mayLeave (p : Phase) : Bool := p.joining || p == .inString

/-- A VACATE heard (R166, R174, R175). A step 0 with another reason than an engage abort's asks to leave. -/
def Node.heardVacate (n : Node) (src p step reason : Nat) : Node :=
  match n.pos.view with
  | some v =>
    if n.ownRow src then
      let n0 : Node := if src = n.address ∧ ¬(step = 0 ∧ 2 < reason) then n.stopPos (.vacate p step reason) else n
      let n1 : Node := n0.setView (takeVacate v src p step reason)
      if n1.ofCouple src p then
        if step = 0 then
          if reason ≤ 2 then (if n1.pos.phase = .engaging then n1.heardAbort else n1)
          else if n1.pos.lead = true ∧ n1.fromPartner src = true ∧ n1.pos.phase.mayLeave = true then n1.beginLeave (reasonOf reason)
          else n1
        else if step = 1 then
          if n1.pos.lead = false ∧ n1.fromPartner src = true ∧ (n1.pos.phase.mayLeave = true ∨ n1.pos.phase = .vacating) then
            n1.partnerOpens (reasonOf reason)
          else n1
        else if step = 2 then
          if n1.pos.lead = true ∧ n1.fromPartner src = true ∧ n1.pos.phase = .vacating ∧ n1.pos.leaveStep = 2 then n1.leadOpens false
          else n1
        else if step = 3 ∧ n1.fromLead src = true ∧ n1.pos.phase = .vacating then n1.leaveEnds
        else n1
      else n1
    else n
  | none => n

/-! ### PRESENCE heard (R167, R169) -/

/-- A PRESENCE that states another holder of the position won, in the quiet window (R169). -/
def Node.conflicts (n : Node) (src p pairState : Nat) : Bool :=
  n.pos.phase == .claimWait && n.pos.position == some p && src != n.address && n.pos.partner != some src
    && (pairState == 4 || pairState == 5 || pairState == 6)

/-- The member loses its claim: the lead's is void, the partner returns to BONDED (R169). -/
def Node.loseClaim (n : Node) : Node :=
  if n.pos.lead then n.claimVoid
  else (n.setPhase .bonded).onPos fun q => { q with position := none, windowTimer := none }

/-- What the row position view takes of a PRESENCE: position, partner and pair state number. -/
structure RowStatement where
  position : Option Nat
  partner : Option Nat
  pairState : Nat
deriving DecidableEq, Repr

/-- What the Position Manager reads after a PRESENCE: of a peer its Peer Table entry as it stands, of the node itself the
notice (R59, R167). A PRESENCE that changes no field of the entry (R50) states nothing to the view (log entry 22). -/
def Node.rowStatement (n : Node) (src : Nat) (p : PresenceNotice) : Option RowStatement :=
  if src = n.address then some ⟨p.position, p.partner, p.pairState⟩
  else if p.numbered then
    match n.peer src with
    | some e => some ⟨e.position, e.partner, (e.pairState.map PairState.code).getD 0⟩
    | none => none
  else none

/-- The Position Manager takes what a PRESENCE of a node of its row states (R167, R169). One that states a position without a
partner of the row changes no record and is no conflict (R169 names no partner; the model's choice, log entry 48). -/
def Node.viewPresence (n : Node) (src : Nat) (x : RowStatement) : Node :=
  match n.pos.view with
  | some v =>
    if n.ownRow src then
      match x.position, x.partner with
      | none, _ => n.setView (freeLead src 0 1 v)
      | some p, some y =>
        if n.ownRow y = true ∧ y ≠ src ∧ (statedState x.pairState).isSome = true then
          if n.conflicts src p x.pairState then (n.setView (takeStated (setRecord v p .free) src p y x.pairState)).loseClaim
          else n.setView (takeStated v src p y x.pairState)
        else n
      | some _, none => n
    else n
  | none => n

/-! ### Hard breach, module change, node state (R176, R177) -/

/-- A hard breach: the hardware opens, then the Position Manager acts by its phase (R176). In STRAPFAULT and CLASHED the
hardware opens too, where R177 names a module change alone, and the Position Manager does nothing (the model's choice,
log entry 43). -/
def Node.hardPath (n : Node) : Node :=
  let n1 : Node := n.hardwareOpen
  if n.live then
    if n.pos.phase.mayLeave then n1.beginLeave .breach
    else if n.pos.phase = .vacating then n1.stepsAtOnce
    else n1
  else n1

/-- A module change after the Pairing Engine's part: a couple in the string begins to leave (R176). -/
def Node.modulePath (n : Node) : Node :=
  if n.pos.phase = .inString then n.beginLeave .module false
  else if n.pos.phase = .vacating then n.stepsAtOnce
  else n

/-- The view at line rejoin: FREE but for the position of a couple in the string or leaving it (R177). -/
def rejoinView (keep : Option Nat) : Nat → List PosRecord → List PosRecord
  | _, [] => []
  | k, r :: rs => (if keep = some k then r else PosRecord.free) :: rejoinView keep (k + 1) rs

/-- The Position Manager at line rejoin, after the bonds of earlier phases have ended and the rail view has been emptied,
with which a JOIN's live reports end (R171, R177). -/
def Node.posRejoin (n : Node) : Node :=
  let n1 : Node := n.onPos fun q => { q with liveTimer := none }
  match n.pos.view with
  | some v =>
    n1.setView (rejoinView (if n.pos.phase = .inString ∨ n.pos.phase = .vacating then n.pos.position else none) 1 v)
  | none => n1

end Sys2Proof.Machine
end

