-- ==== Sys2Proof/Machine/Rail.lean ====
section
/-! DEFINITION. The Rail Allocator's taking of notices and timers (R119-R140), and what it does at a change of node
state and at the reset events (R142-R144). -/

namespace Sys2Proof.Machine

/-! ### The view and the own exchange -/

/-- The view changes; a notice whose exchange is no longer in view is repeated no more (R140). -/
def Node.setRail (n : Node) (v : List Exchange) : Node :=
  n.onRail fun r => { r with view := v, repeats := r.repeats.filter fun x => inView (railNoticeExchange x.1) v }

/-- Where the own exchange has left the view, the own record ends, and the end of a JOIN is reported to the Position Manager whose
bond it serves (R125, R135, R136). Where that bond has ended before, no later one takes the report (log entry 12), and the live
reports end with the record (R171). -/
def Node.ownLeft (n : Node) (ordinary : Bool) : Node :=
  match n.rail.own with
  | some o =>
    if inView o.id n.rail.view then n
    else if o.join then
      if o.dropped then (n.dropOwn ordinary).onPos fun q => { q with liveTimer := none } else (n.dropOwn ordinary).joinEnded ordinary
    else n.dropOwn ordinary
  | none => n

/-- The view loses or lowers records: the own exchange may have left it, and a waiting initiator tests for room (R126). -/
def Node.freeRail (n : Node) (v : List Exchange) (ordinary : Bool) : Node := ((n.setRail v).ownLeft ordinary).freedTest

/-- A heard notice of the other party restarts the party silence timer while it runs (R139). One that has expired starts no more,
its RELEASE being handed already (R139 does not say; the model's choice, log entry 55). -/
def Node.railNote (n : Node) (src : Nat) : Node :=
  match n.rail.own, n.pres.plan with
  | some o, some p => if o.other = src ∧ n.rail.silenceTimer.isSome = true then
      n.onRail fun r => { r with silenceTimer := n.after (2 * p.presencePeriod) } else n
  | _, _ => n

/-! ### NEED and OFFER (R128-R131) -/

/-- The expected charge of the requested test. -/
def Rail.expected (r : Rail) : Option Fig :=
  match r.request with
  | some (.test _ _ _ _ f) => some f
  | some (.join _) => none
  | none => none

/-- The direction of the requested exchange. -/
def Rail.dir (r : Rail) : Dir :=
  match r.request with
  | some (.test d _ _ _ _) => d
  | some (.join _) => .source
  | none => .off

/-- A NEED heard: the own one opens the offer window (R129); another's is answered with an OFFER where every condition
of R131 holds. -/
def Node.heardNeed (n : Node) (src id dir : Nat) (expected : Fig) : Node :=
  match n.pres.plan with
  | some p =>
    if src = n.address then
      if n.rail.side = .needing ∧ n.rail.current = some id then
        n.onRail fun r => { r with side := .window, needTimer := none, offers := [], windowTimer := n.after p.offerWindow }
      else n
    else
      match dirOf dir with
      | some d =>
        match n.offerFor p d (some expected) with
        | some h => (n.hand .offer (offerFields id h)).onRail fun r =>
            { r with held := some { id := id, initiator := src, headroom := h }, heldTimer := n.after (p.offerWindow + 250) }
        | none => n
      | none => n
  | none => n

/-- An offer entered by address, replacing an earlier one of the same station (R129). -/
def insertOffer (o : Nat × Fig) : List (Nat × Fig) → List (Nat × Fig)
  | [] => [o]
  | x :: xs => if x.1 < o.1 then x :: insertOffer o xs else if x.1 = o.1 then o :: xs else o :: x :: xs

/-- The node offer of greatest headroom, the lower address among equals (R130). -/
def bestNode : List (Nat × Fig) → Option (Nat × Fig)
  | [] => none
  | x :: xs =>
    match bestNode xs with
    | some y => if x.1 = 0 then some y else if x.2.ge y.2 then some x else some y
    | none => if x.1 = 0 then none else some x

/-- The chosen counterpart; the bank station only where no node offered (R130). -/
def chooseOffer (l : List (Nat × Fig)) : Option Nat :=
  match bestNode l with
  | some x => some x.1
  | none => l.head?.map Prod.fst

/-- The offer window closes (R130). The AGREE asks the units of the NEED (log entry 16). A view that is uncertain does not
raise the wait count, whatever room it shows (the model's choice, log entry 51). -/
def Node.closeWindow (n : Node) : Node :=
  match n.pres.plan, n.rail.current with
  | some p, some id =>
    if n.rail.certain = false then n.backToWaiting
    else if n.room p n.rail.asked = false then n.backToWaiting.raiseWait
    else match chooseOffer n.rail.offers with
      | some c => n.handAgree p id c 0 n.rail.dir n.rail.asked n.rail.expected
      | none => n.backToWaiting.onRail fun r => { r with retryTimer := n.after 1000 }
  | _, _ => n.backToWaiting

/-- An OFFER heard (R129). -/
def Node.heardOffer (n : Node) (src id : Nat) (headroom : Fig) : Node :=
  match n.pres.plan with
  | some p =>
    if src ≠ n.address ∧ n.rail.side = .window ∧ n.rail.current = some id ∧ figGe (some headroom) n.rail.expected = true then
      let n1 : Node := n.onRail fun r => { r with offers := insertOffer (src, headroom) r.offers }
      if p.offerCount ≠ 0 ∧ p.offerCount ≤ n1.rail.offers.length then n1.closeWindow.roomTest else n1
    else n
  | none => n

/-! ### AGREE (R119, R132, R133) -/

/-- The node becomes a party: STARTING with its own record, start timer and party silence timer (R132, R134, R139). -/
def Node.startOwn (n : Node) (p : Plan) (o : OwnRecord) : Node :=
  n.onRail fun r => { r with
    own := some o, side := .starting, held := none, heldTimer := none, current := none, offers := [], needTimer := none
    windowTimer := none, agreeTimer := none, startTimer := n.after 50, suspendTimer := none
    silenceTimer := n.after (2 * p.presencePeriod) }

/-- The own record of a party of an AGREE, without flags. -/
def AgreeTerms.own (t : AgreeTerms) (initiator : Bool) (dir : Dir) (headroom : Nat) : OwnRecord :=
  { id := t.id, initiator := initiator, other := if initiator then t.counterpart else t.id / 16, join := t.kind == 1, dir := dir
    units := t.units, driven := t.units, original := t.units, flagOwn := false, flagOther := false, headroom := headroom
    released := false, dropped := false }

/-- The node hears its own AGREE (R132). Heard valid it sets the wait count to 0, and each void raises it by one, also
where the own side has left AGREEING for it (R126). -/
def Node.ownAgree (n : Node) (p : Plan) (t : AgreeTerms) (valid : Bool) : Node :=
  if valid then
    (if n.rail.side = .agreeing ∧ n.rail.current = some t.id then n.startOwn p (t.own true n.rail.dir 0)
      else n.handRail (.release t.id 0 causeDeclined)).onRail fun r => { r with wait := 0 }
  else if n.rail.side = .agreeing ∧ n.rail.current = some t.id then n.backToWaiting.raiseWait
  else n.raiseWait

/-- The direction of a TEST counterpart. -/
def AgreeTerms.counterDir (t : AgreeTerms) : Dir := (match dirOf t.dir with | some d => d | none => .off).opposite

/-- The headroom with which the node takes a TEST as counterpart: that of its offer for the id, or, its offer lapsed,
the one with which it could offer now (R132). An offer held for another id is judged as held still, and so none is given, though the
offer may end at this very AGREE (R131; the model's choice, log entry 56). -/
def Node.servable (n : Node) (p : Plan) (t : AgreeTerms) : Option Fig :=
  match n.rail.held with
  | some h => if h.id = t.id then some h.headroom else none
  | none => n.offerFor p t.counterDir t.expected

/-- The node is named as counterpart of a valid AGREE (R132, R133). -/
def Node.takeAgree (n : Node) (p : Plan) (t : AgreeTerms) (headroom : Option Fig) : Node :=
  if n.rail.own.isSome then n.handRail (.release t.id 0 causeDeclined)
  else if t.kind = 1 then
    if n.pair.partner = some (t.id / 16) ∧ n.pair.state = .joining then (n.startOwn p (t.own false .sink 0)).joinAgreed
    else n.handRail (.release t.id 0 causeDeclined)
  else match headroom with
    | some h => n.startOwn p (t.own false t.counterDir h.mag)
    | none => n.handRail (.release t.id 0 causeDeclined)

/-- An AGREE of its initiator ends the offer held to it (R131, R132). -/
def Node.endOfferTo (n : Node) (src : Nat) : Node :=
  match n.rail.held with
  | some h => if h.initiator = src then n.endOffer else n
  | none => n

/-- An AGREE heard (R119, R132). -/
def Node.heardAgree (n : Node) (src : Nat) (t : AgreeTerms) : Node :=
  match n.pres.plan with
  | some p =>
    match judgeAgree p n.rail.view src t with
    | .ignored => n
    | .void =>
      (if src = n.address then n.ownAgree p t false
        else if t.counterpart = n.address then (n.endOfferTo src).handRail (.release t.id 0 causeVoid)
        else n.endOfferTo src).roomTest
    | .valid =>
      let n1 : Node := n.setRail (insertExchange t.record n.rail.view)
      (if src = n.address then n1.ownAgree p t true
        else if t.counterpart = n.address then (n1.endOfferTo src).takeAgree p t (n.servable p t)
        else n1.endOfferTo src).roomTest
  | none => n

/-! ### Starting (R134) -/

/-- The level request of a party at the expiry of its start timer (R134). -/
def Node.partyRequest (n : Node) (o : OwnRecord) : LevelRequest :=
  let base : LevelRequest := { dir := o.dir, setpoint := o.units, target := none, bound := n.profile.map fun f => f.boundFor o.dir
                               limit := none, exchange := some o.id, other := some o.other }
  if o.join then base
  else if o.initiator then
    match n.rail.request with
    | some (.test _ _ target bound _) => { base with target := some target, bound := some bound }
    | some (.join _) => base
    | none => base
  else { base with target := some (o.headroom * 36000) }

/-- The start timer of a party expires (R134). Where the level is still ENDING and keeps the request (R79), it ignores the SUSPEND
report (R85), so that the level taken from the kept request is READY without the mark, also where a SUSPEND is heard meanwhile
(the model's choice, log entry 59). -/
def Node.startParty (n : Node) (o : OwnRecord) : Node :=
  if n.takesRequest o.level (n.partyRequest o) then
    let n1 : Node := n.onRail fun r => { r with
      side := .party, startTimer := none
      testOrdinary := if o.level = .test then none else r.testOrdinary
      testEnded := if o.level = .test then false else r.testEnded }
    let n2 : Node := (n1.requestLevel o.level (n.partyRequest o)).abortSelfRest
    if o.flagOther then n2.suspendThere o.level else n2
  else (n.onRail fun r => { r with startTimer := none }).releaseOwn causeDeclined

/-! ### RELEASE, SUSPEND, RESUME (R120, R121, R135, R137, R138) -/

/-- The source is a party of the exchange, which is in view (R120, R121). -/
def partyInView (id src : Nat) (v : List Exchange) : Bool := v.any fun e => e.id == id && e.has src

/-- The units that an exchange holds in view. -/
def unitsInView (id : Nat) (v : List Exchange) : Nat := ((v.find? fun e => e.id == id).map Exchange.units).getD 0

/-- A partial RELEASE of the other party lowers the units of the own record and sets the setpoint of its level to them (R137,
which names the counterpart of a JOIN; at the initiator of a JOIN and at either party of a TEST, whose other party hands one, the
model does the same, log entry 47). -/
def Node.lowerOwn (n : Node) (src id units : Nat) : Node :=
  match n.rail.own with
  | some o =>
    if o.id = id ∧ o.other = src ∧ units < o.units then
      (n.onRail fun r => { r with own := some { o with units := units, driven := min o.driven units } }).setUnits o.level units
    else n
  | none => n

/-- A notice of the Rail Allocator heard by self-reception is repeated no more (R140). -/
def Node.stopRail (n : Node) (src : Nat) (x : RailNotice) : Node :=
  if src = n.address then n.onRail fun r => { r with repeats := r.repeats.filter fun y => y.1 != x } else n

/-- A RELEASE heard (R120, R135-R137). -/
def Node.heardRelease (n : Node) (src id units cause : Nat) : Node :=
  match n.pres.plan with
  | some p =>
    let n1 : Node := n.stopRail src (.release id units cause)
    if partyInView id src n.rail.view then
      if units = 0 then n1.freeRail (takeRelease p n.rail.view src id 0) (cause == causeStop)
      else if units < unitsInView id n.rail.view then
        ((n1.setRail (takeRelease p n.rail.view src id units)).lowerOwn src id units).freedTest
      else n1
    else n1
  | none => n

/-- The suspend hold timer after a SUSPEND heard: it starts or restarts (R138). -/
def Node.startHold (n : Node) : Node :=
  match n.pres.plan with
  | some p => n.onRail fun r => { r with suspendTimer := n.after (p.suspendHold * 1000) }
  | none => n

/-- A SUSPEND heard (R121, R138). -/
def Node.heardSuspend (n : Node) (src id : Nat) : Node :=
  let n0 : Node := n.stopRail src (.suspend id)
  if partyInView id src n.rail.view then
    let n1 : Node := n0.setRail (takeState n.rail.view src id true)
    match n1.rail.own with
    | some o =>
      if o.id = id then
        let o1 : OwnRecord := { o with flagOwn := o.flagOwn || src == n.address, flagOther := o.flagOther || src != n.address }
        let n2 : Node := (n1.onRail fun r => { r with own := some o1 }).startHold
        if src ≠ n.address ∧ n.rail.side = .party then n2.suspendThere o.level else n2
      else n1
    | none => n1
  else n0

/-- A RESUME heard (R121, R138). -/
def Node.heardResume (n : Node) (src id : Nat) : Node :=
  let n0 : Node := n.stopRail src (.resume id)
  if partyInView id src n.rail.view then
    let n1 : Node := n0.setRail (takeState n.rail.view src id false)
    match n1.rail.own with
    | some o =>
      if o.id = id then
        let o1 : OwnRecord := { o with flagOwn := o.flagOwn && src != n.address, flagOther := o.flagOther && src == n.address }
        let n2 : Node := n1.onRail fun r => { r with
          own := some o1, suspendTimer := if o1.flagOwn || o1.flagOther then r.suspendTimer else none }
        if n.rail.side = .party then (if src = n.address then n2.ownResumeHeard o.level else n2.resumeThere o.level) else n2
      else n1
    | none => n1
  else n0

/-! ### PRESENCE statements and removals (R122-R124) -/

/-- An address heard by PRESENCE, in order of address. -/
def insertHeard (a : Nat) : List Nat → List Nat
  | [] => [a]
  | x :: xs => if x < a then x :: insertHeard a xs else if x = a then x :: xs else a :: x :: xs

/-- The exchange statement of a PRESENCE is taken into the view (R122, R124). Where it takes records out of the view (R122, steps 1
and 3), an initiator still without room raises its wait count, as at any removal taken into the view (R126 does not name this one;
the model's choice, log entry 27). -/
def Node.railPresence (n : Node) (src : Nat) (st : Stated) : Node :=
  match n.pres.plan with
  | some p =>
    let w := takeStatement p n.rail.view src st
    let n1 : Node := (n.setRail w.1).ownLeft false
    let n2 : Node :=
      if w.2 = false then n1.uncertain false
      else if src = n.address then n1.certainIfHeard
      else (n1.onRail fun r => { r with heardSince := insertHeard src r.heardSince }).certainIfHeard
    if n.rail.view.all fun e => inView e.id w.1 then n2.roomTest else n2.freedTest
  | none => n

/-- The removal of a peer entry (R123). -/
def Node.railRemoval (n : Node) (a : Nat) : Node :=
  if n.rail.view.any fun e => e.has a then
    (n.freeRail (n.rail.view.filter fun e => !e.has a) false).certainIfHeard
  else n.certainIfHeard

/-! ### Node state and reset events (R142-R144) -/

/-- The request is not yet agreed (R142). -/
def Node.railUnsent (n : Node) : Node :=
  if n.rail.side = .needing ∨ n.rail.side = .window ∨ n.rail.side = .agreeing then n.backToWaiting else n

/-- The Rail Allocator at the entry into HOLD (R142). -/
def Node.railHold (n : Node) : Node := ((n.releaseOwn causeStop).endOffer).railUnsent

/-- The Rail Allocator at a module change (R143); in STRAPFAULT and CLASHED the own record is ended at once. -/
def Node.railModule (n : Node) : Node :=
  let n1 : Node := (((n.releaseOwn causeStop).withdrawTest false).endOffer).onRail fun r => { r with wait := 0 }
  if n.live then n1
  else n1.onRail fun r => { r.endOwn with side := if r.request.isSome then .waiting else .idle }

/-- Own side, request, offer, wait count and timers as after line rejoin or at the entry into STRAPFAULT and CLASHED (R144). -/
def Rail.dropAll (r : Rail) : Rail :=
  { r with
    side := .idle, request := none, own := none, testOrdinary := none, testEnded := false, current := none, offers := []
    held := none, wait := 0, certainTimer := none, needTimer := none, windowTimer := none, retryTimer := none, agreeTimer := none
    heldTimer := none, startTimer := none, suspendTimer := none, silenceTimer := none, repeats := [] }

/-- The Rail Allocator at line rejoin (R144). -/
def Node.railRejoin (n : Node) : Node := (n.onRail fun r => { r.dropAll with view := [] }).uncertain true

/-- The Rail Allocator at the entry into STRAPFAULT or CLASHED (R144). -/
def Node.railStop (n : Node) : Node := n.onRail Rail.dropAll

end Sys2Proof.Machine
end

