-- ==== Sys2Proof/Machine/Peering.lean ====
section
/-! DEFINITION. The node's PRESENCE as its blocks stand (R47, R141), the Peer Table's taking of notices and removals
(R48-R58) and the Pairing Engine's taking of notices, timers and directives (R149-R163). -/

namespace Sys2Proof.Machine

/-! ### The PRESENCE of the node (R47, R141) -/

/-- The exchange statement of the node, a party from STARTING until its exchange leaves its view (R141). -/
def Node.statement (n : Node) : Option Statement :=
  match n.rail.own, n.pres.plan with
  | some o, some p => some
      { id := o.id, role := o.role, other := o.other, units := o.units, draw := drawOf p.share o.units }
  | _, _ => none

/-- The fields of the node's PRESENCE as its blocks stand (R47). -/
def Node.presence (n : Node) : List (Nat × Value) :=
  presenceFields n.pres.state.code (n.pres.plan.map Plan.identity) n.grade.state.code n.grade.generation
    (n.soc.map fun s => formFig .soc s) n.pair.state.code n.pair.partner n.pos.stated n.pair.silent n.statement n.serv.active
    n.serv.lastResult

/-- The queued PRESENCE, if any, is rebuilt in its place (R145, R164, R141, R179, R183). -/
def Node.rebuildPresence (n : Node) : Node :=
  let q : Queued := { kind := .presence, priority := Kind.presence.priority 0, part := 0, payload := encodeFields n.presence }
  n.onLine fun l => { l with queue := replaceIn q l.queue }

/-! ### Peer Table entries (R48-R52) -/

/-- An entry as created (R49). -/
def Peer.fresh (a now : Nat) : Peer :=
  { address := a, heardAt := now, nodeState := none, planId := none, gradeState := none, announced := none, pairState := none
    partner := none, position := none, statement := none, lastPresence := none, heldGen := none, cls := .none
    profile := none, cap := none, res := none }

/-- An entry placed by address, replacing the one of its address (R48). -/
def insertPeer (e : Peer) : List Peer → List Peer
  | [] => [e]
  | x :: xs => if x.address < e.address then x :: insertPeer e xs else if x.address = e.address then e :: xs else e :: x :: xs

/-- The entry of an address, created where there is none. -/
def Node.entry (n : Node) (a : Nat) : Peer := (n.peer a).getD (Peer.fresh a n.mon.now)

/-- Stores an entry. -/
def Node.putPeer (n : Node) (e : Peer) : Node := n.onPeers fun t => { t with entries := insertPeer e t.entries }

/-- A partner that an entry holds: 1..48 and not the sender itself (R50). -/
def heldPartner (src : Nat) : Option Nat → Option Nat
  | some y => if 1 ≤ y ∧ y ≤ 48 ∧ y ≠ src then some y else none
  | none => none

/-- A position that an entry holds: 1..8 (R50). -/
def heldPosition : Option Nat → Option Nat
  | some p => if 1 ≤ p ∧ p ≤ 8 then some p else none
  | none => none

/-- The statement that an entry holds after one was carried (R50). -/
def heldStatement (old : Option Statement) : Stated → Option Statement
  | .omitted => none
  | .broken => old
  | .whole s => if 1 ≤ s.units ∧ s.units ≤ 8 then some s else none

/-- The entry after a PRESENCE heard now (R50). -/
def Peer.presence (e : Peer) (now : Nat) (p : PresenceNotice) : Peer :=
  let e1 : Peer := { e with heardAt := now, lastPresence := some now }
  match nodeStateOf p.nodeState, gradeStateOf p.gradeState, pairStateOf p.pairState with
  | some ns, some gs, some ps =>
    { e1 with
      nodeState := some ns, planId := p.planId, gradeState := some gs, announced := some p.generation, pairState := some ps
      partner := heldPartner e.address p.partner, position := heldPosition p.position
      statement := heldStatement e.statement p.stated }
  | _, _, _ => e1

/-- A PRESENCE of a peer (R50, R58). -/
def Node.peerPresence (n : Node) (src : Nat) (p : PresenceNotice) : Node :=
  (n.putPeer ((n.entry src).presence n.mon.now p)).rederive

/-- A GRADE whose fields an entry takes: class and profile id within their numbering, and a generation that differs
from the held one (R51). -/
def Peer.takesGrade (e : Peer) (gen cls : Nat) (profile : Option Nat) : Bool :=
  (classOf cls).isSome && (match profile with | some i => i ≤ 3 | none => true) && e.heldGen != some gen

/-- The entry after a GRADE heard now (R51). -/
def Peer.graded (e : Peer) (now gen cls : Nat) (profile : Option Nat) (cap res : Option Fig) : Peer :=
  if e.takesGrade gen cls profile then
    { e with heardAt := now, heldGen := some gen, cls := (classOf cls).getD .none, profile := profile, cap := cap, res := res }
  else { e with heardAt := now }

/-- A GRADE of a peer: the list is derived anew, and a replaced grade of the partner is put to the bond test (R51, R58, R155). -/
def Node.peerGrade (n : Node) (src gen cls : Nat) (profile : Option Nat) (cap res : Option Fig) : Node :=
  let n1 : Node := (n.putPeer ((n.entry src).graded n.mon.now gen cls profile cap res)).rederive
  if (n.entry src).takesGrade gen cls profile ∧ n.pair.partner = some src then n1.testBond else n1

/-- Any other notice of a peer restarts the age of its entry (R52). -/
def Node.peerTouch (n : Node) (src : Nat) : Node :=
  match n.peer src with
  | some e => n.putPeer { e with heardAt := n.mon.now }
  | none => n

/-! ### PROPOSE, BIND, UNBIND (R150-R152, R156) -/

/-- A PROPOSE from x naming the node is taken (R150). -/
def Node.takesPropose (n : Node) (x : Nat) (score : Fig) (gen held : Nat) : Bool :=
  (n.pair.state == .seeking || n.pair.state == .proposing) && n.pair.target == some x
    && (n.peer x).bind Peer.heldGen == some gen && held == n.grade.generation
    && (match n.peers.cands.find? fun c => c.1 == x with | some c => c.2.same score | none => false)

/-- A BIND is handed and PROPOSING entered or kept (R150). -/
def Node.answerPropose (n : Node) (x : Nat) : Node :=
  match n.pres.plan with
  | some p =>
    ((n.hand .bind (oneField x)).onPair fun q =>
      { q with proposed := some x, proposalTimer := n.after (p.proposalPeriod * 1000) }).setPair .proposing
  | none => n

/-- A PROPOSE heard (R150); the node's own has no effect (R149). -/
def Node.heardPropose (n : Node) (src target : Nat) (score : Fig) (gen held : Nat) : Node :=
  if src ≠ n.address ∧ target = n.address ∧ n.takesPropose src score gen held = true then n.answerPropose src else n

/-- A bond test that fails at the hearing of a BIND (R151, R154). -/
def Node.bindFails (n : Node) (x : Nat) : Node :=
  ((((n.hand .unbind (twoFields x unbindGrade)).onPair fun q => { q with lastCause := some unbindGrade }).endProposal).setPair
    .unpaired).testEligible

/-- A BIND between the node and x is taken (R151). -/
def Node.takeBind (n : Node) (x : Nat) : Node :=
  if n.pair.state = .proposing ∧ n.pair.proposed = some x then
    (if n.bondTest x then n.enterBound x else n.bindFails x).rebuildPresence
  else if n.pair.partner = some x then n
  else n.hand .unbind (twoFields x unbindAnswer)

/-- A BIND heard: the own one, or one that names the node (R151). -/
def Node.heardBind (n : Node) (src named : Nat) : Node :=
  if src = n.address then n.takeBind named
  else if named = n.address then n.takeBind src
  else n

/-- An UNBIND heard (R152). -/
def Node.heardUnbind (n : Node) (src named cause : Nat) : Node :=
  if src ≠ n.address ∧ named = n.address then
    if n.bonded ∧ n.pair.partner = some src then n.dissolve cause false
    else if n.pair.state = .proposing ∧ n.pair.proposed = some src then n.proposalEnds
    else n
  else n

/-- A PRESENCE that does not state the bond (R156). The notice's own fields judge it, also where one of them is outside its
numbering and the PRESENCE counts for the age of the entry alone (R50; the model's choice, log entry 22). -/
def Node.denies (n : Node) (p : PresenceNotice) : Bool := decide (p.pairState ≤ 2) || p.partner != some n.address

/-- A PRESENCE heard from the partner (R156). -/
def Node.pairPresence (n : Node) (src : Nat) (p : PresenceNotice) : Node :=
  if n.bonded ∧ n.pair.partner = some src then
    let n1 : Node := n.onPair fun q => { q with frames := min 2 (q.frames + 1) }
    if n1.pair.frames = 2 ∧ n1.denies p = true then n1.dissolve unbindDenied else n1
  else n

/-- Any notice heard from the partner of a JOINED or LEAVING couple (R159). -/
def Node.pairNote (n : Node) (src : Nat) : Node :=
  if (n.pair.state = .joined ∨ n.pair.state = .leaving) ∧ n.pair.partner = some src then
    (n.onPair fun q => { q with silent := false }).startSilence
  else n

/-! ### Removal of an entry (R55) -/

/-- The Pairing Engine takes the removal of an entry (R149, R154, R159). -/
def Node.pairRemoval (n : Node) (a : Nat) : Node :=
  if n.bonded ∧ n.pair.partner = some a then n.dissolve unbindLost
  else if n.pair.state = .proposing ∧ n.pair.proposed = some a then n.proposalEnds
  else n

/-- The Position Manager takes the removal of an entry (R167). -/
def Node.posRemoval (n : Node) (a : Nat) : Node :=
  match n.pos.view with
  | some v => n.setView (takeRemoval v a)
  | none => n

/-- An entry expires: it is removed, and the removal taken by each block (R53, R55). -/
def Node.removePeer (n : Node) (a : Nat) : Node :=
  let n1 : Node := n.onPeers fun t => { t with entries := t.entries.filter fun e => e.address != a }
  (((n1.railRemoval a).posRemoval a).rederive).pairRemoval a

/-! ### Directive RELEASE, module change, line rejoin (R160, R162, R163) -/

/-- Why a RELEASE directive is refused, or none (R160). -/
def Node.releaseRefusal (n : Node) : Option Nat :=
  if !(n.pres.state == .active || n.pres.state == .hold) then some 1
  else match n.pair.state with
    | .unpaired => some 4 | .seeking => some 4 | .proposing => some 4 | .leaving => some 5
    | .bound => none | .joining => none | .joined => none

/-- An accepted RELEASE directive (R160). In JOINED a couple that is in VACATING already, its leaving begun not yet reported,
begins no second leave: the reason stands, and the leave counts as one by directive (R160 does not say; the model's choice, log
entry 52). -/
def Node.acceptRelease (n : Node) : Node :=
  if n.pair.state = .joined then
    let n1 : Node := n.onPair fun q => { q with byDirective := true }
    if n1.pos.phase = .inString then n1.beginLeave .directive else n1
  else n.dissolve unbindDirective

/-- The bar ends, and the target is taken anew (R157). -/
def Node.endBar (n : Node) : Node := (n.onPair fun q => { q with barred := none, barTimer := none }).retarget

/-- The Pairing Engine at a module change (R162). -/
def Node.pairModule (n : Node) : Node :=
  let n1 : Node := if n.pair.state = .seeking ∨ n.pair.state = .proposing then n.endProposal.setPair .unpaired else n
  (n1.dissolve unbindModule true false).endBar

/-- The Pairing Engine at line rejoin, the candidate list being emptied (R163). -/
def Node.pairRejoin (n : Node) : Node :=
  let n1 : Node := n.dissolve unbindRejoin
  (if n1.pair.state = .joined ∨ n1.pair.state = .leaving then n1.startSilence else n1).retarget

end Sys2Proof.Machine
end

