-- ==== Sys2Proof/Machine/PlanCheck.lean ====
section
/-! DEFINITION. The plan: its assembly from parts (R39) and the check of a complete plan (R40, R41, steps 1 and 2). -/

namespace Sys2Proof.Machine

/-! ### Assembly (R39) -/

/-- A part placed at its index, replacing an earlier one (R39, step 4). -/
def insertPart (i : Nat) (p : PlanPart) : List (Nat × PlanPart) → List (Nat × PlanPart)
  | [] => [(i, p)]
  | x :: xs => if x.1 < i then x :: insertPart i p xs else if x.1 = i then (i, p) :: xs else (i, p) :: x :: xs

/-- The buffer after a PLAN notice (R39). -/
def takePart (a : Option Assembly) (p : PlanPart) : Option Assembly :=
  if p.count < 1 ∨ 48 < p.count ∨ p.count ≤ p.index then a
  else
    let opened : Assembly := { identity := p.identity, count := p.count, parts := [(p.index, p)] }
    match a with
    | some b =>
      if b.identity = p.identity ∧ b.count = p.count then some { b with parts := insertPart p.index p b.parts } else some opened
    | none => some opened

/-- Every index from 0 to the part count less one is held (R39). -/
def Assembly.complete (a : Assembly) : Bool := a.parts.length == a.count

/-! ### Items (R40) -/

/-- The parts of a section. -/
def sectionParts (ps : List PlanPart) (s : Nat) : List PlanPart := ps.filter fun p => p.sect == s

/-- The items of all the parts that carry a section, taken together. -/
def itemsOf (ps : List PlanPart) (s : Nat) : List (Nat × Value) := (sectionParts ps s).flatMap PlanPart.items

/-- Some number stands twice in the list. -/
def repeated : List Nat → Bool
  | [] => false
  | x :: xs => xs.contains x || repeated xs

/-- A section other than the weight codes gives an item by two parts (R41). An item that a part carries as "not known"
counts as given by that part (the model's choice, log entry 20). -/
def givenTwice (ps : List PlanPart) : Bool :=
  (List.range 15).any fun s => s != 3 && repeated ((itemsOf ps s).map Prod.fst)

/-- A numeric item within its range. -/
def itemIn (items : List (Nat × Value)) (code lo hi : Nat) : Option Nat :=
  match numAt items code with
  | some v => if lo ≤ v ∧ v ≤ hi then some v else none
  | none => none

/-- A numeric item that takes one of these values. -/
def itemOneOf (items : List (Nat × Value)) (code : Nat) (values : List Nat) : Option Nat :=
  match numAt items code with
  | some v => if values.contains v then some v else none
  | none => none

/-- A timer item clamped to the nearer limit of its range (R41, step 2). -/
def timerItem (items : List (Nat × Value)) (code lo hi : Nat) : Option Nat := (numAt items code).map fun v => min hi (max lo v)

/-! ### Weight codes -/

/-- The codes of a list for the nodes from `a` on. -/
def weightsFrom (a : Nat) : List Nat → List (Nat × Nat)
  | [] => []
  | w :: ws => (a, w) :: weightsFrom (a + 1) ws

/-- The codes of one part: its first node 1..48 and its list of 1..15 entries; none where either is not given so
(log entry 20). -/
def partWeights (p : PlanPart) : Option (List (Nat × Nat)) :=
  match itemIn p.items 5 1 48, listAt p.items 6 with
  | some a, some l => if 1 ≤ l.length then some (weightsFrom a l) else none
  | _, _ => none

/-- The codes of all the parts. -/
def allWeights : List PlanPart → Option (List (Nat × Nat))
  | [] => some []
  | p :: ps =>
    match partWeights p, allWeights ps with
    | some a, some b => some (a ++ b)
    | _, _ => none

/-- Every node of 1..N has one code of at most 7, and no other address has one. -/
def weightsFit (n : Nat) (ws : List (Nat × Nat)) : Bool :=
  ws.all (fun w => w.1 ≤ n && w.2 ≤ 7) && !repeated (ws.map Prod.fst) && ws.length == n

/-! ### Profiles -/

/-- The magnitudes rise strictly. -/
def risingFigs : List Fig → Bool
  | f :: g :: rest => f.mag < g.mag && risingFigs (g :: rest)
  | _ => true

/-- All of these, or none where one is missing. -/
def allSome {α : Type} : List (Option α) → Option (List α)
  | [] => some []
  | some x :: xs => (allSome xs).map (x :: ·)
  | none :: _ => none

/-- The figure given for an item. -/
def figItem (items : List (Nat × Value)) (code : Nat) : Option Fig :=
  match standing code items with
  | some (.fig f) => some f
  | _ => none

/-- The points V0..V10 of a points section, where all are given and rise strictly. -/
def pointsOf (items : List (Nat × Value)) : Option (List Fig) :=
  match allSome ([5, 6, 7, 8, 9, 10, 11, 12, 13, 14, 15].map (figItem items)) with
  | some l => if risingFigs l then some l else none
  | none => none

/-- The profile that a limits and a points section make, where every test of R41 holds. -/
def profileOf (limits points : List (Nat × Value)) : Option Profile :=
  match itemIn limits 5 1 32, figItem limits 6, figItem limits 7, figItem limits 8 with
  | some cells, some nam, some lo, some hi =>
    match figItem limits 9, figItem limits 10, pointsOf points with
    | some warn, some hard, some pts =>
      if nam.mag ≠ 0 ∧ lo.mag < hi.mag ∧ warn.int ≤ hard.int then
        some { cells := cells, nam := nam, cellMin := lo, cellMax := hi, warn := warn, hard := hard, points := pts }
      else none
    | _, _, _ => none
  | _, _, _, _ => none

/-- Profile i is present: its limits section or its points section is (R40). -/
def profilePresent (ps : List PlanPart) (i : Nat) : Bool := ps.any fun p => p.sect == 4 + i || p.sect == 8 + i

/-- The four profiles, each absent or whole; none where a present one fails a test. -/
def profilesOf (ps : List PlanPart) : Option (List (Option Profile)) :=
  let one (i : Nat) : Option (Option Profile) :=
    if profilePresent ps i then (profileOf (itemsOf ps (4 + i)) (itemsOf ps (8 + i))).map some else some none
  match allSome ([0, 1, 2, 3].map one) with
  | some l => if l.any Option.isSome then some l else none
  | none => none

/-! ### Chains -/

/-- The operation of an entry (R40). -/
def chainOpOf : Nat → Option ChainOp
  | 0 => some .load | 1 => some .and | 2 => some .or | 3 => some .andNot | 4 => some .orNot | _ => none

/-- The criterion of kind, relation and operation entries and a limit, which is brought to its kind (R11, R40). -/
def criterionOf (k r o : Nat) (limit : Option Fig) : Option Criterion :=
  match criterionKind k, chainOpOf o, limit with
  | some kind, some op, some f => if r ≤ 1 then some { kind := kind, atLeast := r == 0, op := op, limit := rescale kind f } else none
  | _, _, _ => none

/-- The criteria of three lists, the first limit in code `c`; none where the lists differ in length or an entry or a
limit fails. -/
def criteria (items : List (Nat × Value)) : Nat → List Nat → List Nat → List Nat → Option (List Criterion)
  | _, [], [], [] => some []
  | c, k :: ks, r :: rs, o :: os =>
    match criterionOf k r o (figItem items c), criteria items (c + 1) ks rs os with
    | some x, some xs => some (x :: xs)
    | _, _ => none
  | _, _, _, _ => none

/-- The chain of a section; a list that is not given is empty, and so is one carried as "not known" (form 0), of which R41 says
nothing (the model's choices, log entry 20). -/
def chainOf (items : List (Nat × Value)) : Option (List Criterion) :=
  let ks := (listAt items 5).getD []
  if ks.length ≤ 6 then criteria items 8 ks ((listAt items 6).getD []) ((listAt items 7).getD []) else none

/-! ### The check (R41) -/

/-- Step 1 for the sections 0, 1 and 3 and step 2 for section 2; profiles and chains are given. -/
def planOf (identity : Nat) (rack rail timers : List (Nat × Value)) (ws : List (Nat × Nat)) (fs : List (Option Profile))
    (a b c : List Criterion) : Option Plan := do
  let roster ← itemIn rack 5 1 48
  let rowLength ← itemOneOf rack 6 [2, 4, 6, 8, 10, 12, 14, 16]
  let capacity ← itemIn rack 7 8 96
  let share ← itemIn rack 8 0 4
  let slots ← itemIn rack 9 2 16
  let offerCount ← itemOneOf rack 10 [0, 1, 2, 4]
  let testDepth ← itemIn rack 11 20 60
  let testUnits ← itemIn rack 12 1 8
  let pulseCurrent ← itemIn rack 13 2 10
  let classDistance ← itemIn rack 14 0 1
  let joinWindow ← itemIn rail 5 20 500
  let joinMax ← itemIn rail 6 1 8
  let releaseFraction ← itemOneOf rail 7 [0, 25, 50, 75]
  let serveLow ← itemIn rail 8 10 40
  let serveHigh ← itemIn rail 9 60 90
  let wQ ← itemIn rail 10 0 15
  let wR ← itemIn rail 11 0 15
  let maxScore ← itemIn rail 12 0 30000
  let lifetimeCount ← timerItem timers 6 3 10
  let offerWindow ← timerItem timers 7 20 500
  let proposalPeriod ← timerItem timers 8 1 10
  let quietWindow ← timerItem timers 9 200 2000
  let suspendHold ← timerItem timers 10 1 30
  let restTime ← timerItem timers 11 10 60
  let selfRest ← timerItem timers 12 24 168
  let joinSettle ← timerItem timers 13 10 120
  if roster * share + 2 ≤ capacity ∧ weightsFit roster ws = true then
    some { identity := identity, roster := roster, rowLength := rowLength, capacity := capacity, share := share
           slots := slots, offerCount := offerCount, testDepth := testDepth, testUnits := testUnits
           pulseCurrent := pulseCurrent, classDistance := classDistance, joinWindow := joinWindow, joinMax := joinMax
           releaseFraction := releaseFraction, serveLow := serveLow, serveHigh := serveHigh, wQ := wQ, wR := wR
           maxScore := maxScore, presencePeriod := (timerItem timers 5 200 2000).getD 500
           lifetimeCount := lifetimeCount, offerWindow := offerWindow, proposalPeriod := proposalPeriod
           quietWindow := quietWindow, suspendHold := suspendHold, restTime := restTime, selfRest := selfRest
           joinSettle := joinSettle, weights := ws, profiles := fs, chainA := a, chainB := b, chainC := c }
  else none

/-- A complete plan of this identity, checked by steps 1 and 2 of R41; none where it is invalid. -/
def checkPlan (identity : Nat) (ps : List PlanPart) : Option Plan :=
  if (ps.any fun p => decide (14 < p.sect)) || givenTwice ps then none
  else
    match allWeights (sectionParts ps 3), profilesOf ps with
    | some ws, some fs =>
      match chainOf (itemsOf ps 12), chainOf (itemsOf ps 13), chainOf (itemsOf ps 14) with
      | some a, some b, some c => planOf identity (itemsOf ps 0) (itemsOf ps 1) (itemsOf ps 2) ws fs a b c
      | _, _, _ => none
    | _, _ => none

end Sys2Proof.Machine
end

