-- ==== Sys2Proof/Machine/Control.lean ====
section
/-! DEFINITION. The Presence Controller (chapter 3): PRESENCE notices, the changes of node state with the reports to
every block, the plan's storing, hold, quiet and line rejoin. -/

namespace Sys2Proof.Machine

/-! ### PRESENCE (R46) -/

/-- The interval of the presence timer (R38, R46). -/
def Node.presenceInterval (n : Node) : Nat :=
  match n.pres.state, n.pres.plan with
  | .unplanned, _ => 1000
  | _, some p => p.presencePeriod
  | _, none => 1000

/-- Hands a PRESENCE and restarts the presence timer (R46). -/
def Node.sendPresence (n : Node) : Node :=
  (n.hand .presence n.presence).onPres fun q => { q with presenceTimer := n.after n.presenceInterval }

/-! ### Changes of node state (R36, R43-R46) -/

/-- The node state changes; the timers of the state left stop. -/
def Node.setState (n : Node) (s : NodeState) : Node :=
  n.onPres fun q => { q with state := s, listenTimer := none, presenceTimer := none, quietTimer := none }

/-- ACTIVE is entered: a PRESENCE, then the reports to the blocks (R36, R46). -/
def Node.enterActive (n : Node) : Node :=
  (((((((n.setState .active).onPres fun q => { q with holdFlag := false }).sendPresence).gradeActive).rederive).roomTest).testEligible).claimIfLead

/-- The Pairing Engine at the entry into HOLD (R161). -/
def Node.pairHold (n : Node) : Node := (n.dissolve unbindHold true false).testEligible

/-- HOLD is entered: a PRESENCE, then the reports to the blocks (R43, R46). -/
def Node.enterHold (n : Node) : Node :=
  ((((((n.setState .hold).onPres fun q => { q with holdFlag := true }).sendPresence).gradeHold).railHold).rederive).pairHold

/-- UNPLANNED is entered (R38, R46). -/
def Node.enterUnplanned (n : Node) : Node := (n.setState .unplanned).sendPresence

/-- QUIET is entered at the eighth abandonment: queue emptied, LINE QUIET recorded, quiet timer of 2000 ms, and the
reports to the blocks (R22, R44). The FAULT of a new or re-activated entry is due at line rejoin (R180). -/
def Node.enterQuiet (n : Node) : Node :=
  let n1 : Node := ((n.setState .quiet).emptyQueue).onPres fun q => { q with quietTimer := n.after 2000 }
  let due : Bool := (takeReport .lineQuiet none n1.seconds n1.serv.faults).2.isSome
  let n2 : Node := (n1.reportFault .lineQuiet).onServ fun s => { s with quietFaultDue := s.quietFaultDue || due }
  (((n2.gradeSilent).endOffer).rederive).testEligible

/-- The ages of all entries stop (R54). -/
def Node.stopAges (n : Node) : Node := n.onPeers fun t => { t with stopped := some n.mon.now }

/-- STRAPFAULT or CLASHED is entered with its fault: queue emptied, levels but PROTECT cleared, the converter held at
zero, the ages of the peer table stopped, the Rail Allocator's work dropped (R25, R28, R45, R54, R91, R144). -/
def Node.enterStop (n : Node) (s : NodeState) (code : FaultCode) : Node :=
  let n1 : Node := (((n.setState s).emptyQueue).stopAges).reportFault code
  (((n1.clearLevelsToZero [.join, .serve, .test, .pulse]).railStop).gradeSilent).rederive

/-- The listen window expires (R37). -/
def Node.listenEnds (n : Node) : Node :=
  if n.pres.plan.isNone then n.enterUnplanned
  else if n.pres.holdFlag then n.enterHold
  else n.enterActive

/-- The FAULT of the LINE QUIET entry is handed at line rejoin, with the count of active entries at the rejoin (R180; the
model's choice, log entry 29). -/
def Node.handQuietFault (n : Node) : Node :=
  if n.serv.quietFaultDue then
    let n1 : Node := n.onServ fun s => { s with quietFaultDue := false }
    match n.serv.faults.find? fun e => e.code == .lineQuiet with
    | some e => n1.handFault e
    | none => n1
  else n

/-- Line rejoin (R44): the line, LISTEN with its window, the tables, then the blocks in turn (R60, R90, R115, R144,
R163, R177). -/
def Node.rejoin (n : Node) : Node :=
  let n1 : Node := n.onLine fun _ => { Line.initial with cleanDue := true }
  let n2 : Node := (n1.setState .listen).onPres fun q => { q with listenTimer := n.after 1500 }
  let n3 : Node := n2.onPeers fun _ => .initial
  let n4 : Node := (n3.railRejoin).clearLevels exchangeLevels
  (((n4.abandonTest).pairRejoin).posRejoin).handQuietFault

/-! ### The plan (R39, R41, R42, R54) -/

/-- The age of an entry: the time since it was last heard from, standing still once the ages have stopped (R49, R54). -/
def Node.age (n : Node) (e : Peer) : Nat := n.peers.stopped.getD n.mon.now - e.heardAt

/-- The addresses of the entries whose age has reached the lifetime (R54). -/
def Node.overage (n : Node) (p : Plan) : List Nat :=
  (n.peers.entries.filter fun e => decide (p.lifetime ≤ n.age e)).map Peer.address

/-- The tag state is judged anew; UNKNOWN is a fault, and the Grade Engine tests its start (R71, R93). -/
def Node.rejudgeTag (n : Node) : Node :=
  let n1 : Node := n.onMon fun m => { m with tagState := n.judgeTag m.tag }
  (if n1.mon.tagState = .unknown then n1.reportFault .tag else n1).startRegime

/-- A plan is stored (R41): the blocks that begin by it, the expiries of R54, and a new candidate list (R58). -/
def Node.storePlan (n : Node) (p : Plan) : Node :=
  let n1 : Node := (n.onPres fun q => { q with plan := some p }).latchFault .planInvalid
  let n2 : Node := n1.onPos fun q => { q with view := some (emptyView p) }
  let n3 : Node := if n2.rail.certain then n2 else n2.onRail fun r => { r with certainTimer := n2.after p.lifetime }
  (((n.overage p).foldl Node.removePeer n3).rejudgeTag).rederive

/-- The address is compared with the roster count (R41, step 3). -/
def Node.acceptPlan (n : Node) (p : Plan) : Node :=
  let n1 : Node := n.storePlan p
  if p.roster < n.address then n1.enterStop .strapFault .strap
  else if n.pres.state = .unplanned then n1.enterActive
  else n1

/-- A complete plan is checked, and the buffer emptied (R39, R41). -/
def Node.planComplete (n : Node) (a : Assembly) : Node :=
  let n1 : Node := n.onPres fun q => { q with assembly := none }
  match checkPlan a.identity (a.parts.map Prod.snd) with
  | some p => n1.acceptPlan p
  | none => n1.reportFault .planInvalid

/-- A PLAN notice (R39, R42). -/
def Node.heardPlan (n : Node) (x : PlanPart) : Node :=
  match n.pres.plan with
  | some p => if x.identity = p.identity then n else n.reportFault .planConflict
  | none =>
    let n1 : Node := n.onPres fun q => { q with assembly := takePart q.assembly x }
    match n1.pres.assembly with
    | some a => if a.complete then n1.planComplete a else n1
    | none => n1

/-! ### Module change (R72) -/

/-- The Module Monitor's own state at a module change (R72, R74). -/
def Monitor.changed (m : Monitor) : Monitor :=
  { m with volts := [], counter := .cleared, rest := 0, watchGrade := none, watchPosition := none, reading := none
           tag := m.tagSeen, tagRun := 0, limit := .clear, clearTimer := none }

/-- A module change (R72): the monitor, the hardware's opening, then the blocks in turn (R89, R143, R114, R162, R176, R179).
Where entries leave the fault list a queued PRESENCE is rebuilt, also where a like entry is added anew (R179). -/
def Node.changeModule (n : Node) : Node :=
  let n1 : Node := n.onMon Monitor.changed
  let n2 : Node := n1.onMon fun m => { m with tagState := n1.judgeTag m.tag }
  let n3 : Node := (n2.hardwareOpen).clearLevelsToZero [.protect, .join, .serve, .test, .pulse]
  let n4 : Node := (((n3.railModule).gradeModule).pairModule).modulePath
  let n5 : Node := n4.publish n4.grade.working
  let n6 : Node := n5.removeModuleFaults
  let n7 : Node := (if n6.mon.tagState = .unknown then n6.reportFault .tag else n6).startRegime
  if n6.serv.faults = n5.serv.faults then n7 else n7.rebuildPresence

end Sys2Proof.Machine
end

