-- ==== Sys2Proof/Machine/Service.lean ====
section
/-! DEFINITION. Status and Service: QUERY and READOUT (R181), directives and their result (R182, R183). -/

namespace Sys2Proof.Machine

/-! ### READOUT (R181) -/

/-- An absent value is written as form 0. -/
def numField (code : Nat) (v : Option Nat) : Nat × Value := (code, optNum v)

/-- An absent figure is written as form 0. -/
def figField (code : Nat) (v : Option Fig) : Nat × Value := (code, optFig v)

/-- A level context as READOUT numbers it. -/
def Level.number (l : Level) : Nat := l.state.code * 48 + l.dir.code * 16 + l.setpoint

/-- Part 0: the published copy. -/
def Node.readout0 (n : Node) : List (Nat × Value) :=
  let r : Record := n.grade.published
  [(0, .num 0), (1, .num n.grade.generation), (2, .num r.cls.code), numField 3 r.profile, figField 4 r.cap, figField 5 r.res,
    figField 6 r.hlt, figField 7 r.sdr, figField 8 r.ocv, figField 9 r.tmp]

/-- Part 1: grade state, attempts, cells of the working record (log entry 32), level contexts, own side and exchange. -/
def Node.readout1 (n : Node) : List (Nat × Value) :=
  [(0, .num 1), (1, .num n.grade.state.code), (2, .num n.grade.attempts), numField 3 n.grade.working.cells,
    (4, .num n.duty.protect.number), (5, .num n.duty.join.number), (6, .num n.duty.serve.number), (7, .num n.duty.test.number),
    (8, .num n.duty.pulse.number), (9, .num n.rail.side.code), numField 10 (n.rail.own.map OwnRecord.id),
    numField 11 (n.rail.own.map OwnRecord.role), numField 12 (n.rail.own.map OwnRecord.other),
    numField 13 (n.rail.own.map OwnRecord.units), numField 14 (n.rail.own.map OwnRecord.driven), (15, .num n.rail.wait)]

/-- The peer fields of part 2: address, plan identity, node state, held generation, class and pair state. Field 15 is one
number of two values: of an entry whose pair state has not been heard yet it is not held as a whole and written as form 0 (R181
names no half of it; the model's choice, log entry 32). A number outside 1 to 48 is written in field 11 as the QUERY carries it, and
names no entry, so that fields 12 to 15 are of form 0 (R181 gives the range alone; the model's choice, log entry 21). -/
def Node.peerFields (n : Node) (peer : Option Nat) : List (Nat × Value) :=
  let e : Option Peer := peer.bind n.peer
  [numField 11 peer, numField 12 (e.bind Peer.planId), numField 13 ((e.bind Peer.nodeState).map NodeState.code),
    numField 14 (e.bind Peer.heldGen),
    numField 15 (e.bind fun x => x.pairState.map fun s => x.cls.code * 8 + s.code)]

/-- Part 2: pairing, position and the peer named, or the partner. Of contactor and switch it states the confirmed positions
(R181 names neither these nor the drives; the model's choice, log entry 32). -/
def Node.readout2 (n : Node) (peer : Option Nat) : List (Nat × Value) :=
  [(0, .num 2), (1, .num n.pair.state.code), numField 2 n.pair.partner, numField 3 n.pair.target, numField 4 n.pair.barred,
    numField 5 n.pair.lastCause, (6, .num (bit n.pair.silent)), (7, .num n.pos.phase.code), numField 8 n.pos.position,
    (9, .num (n.pos.claims * 4 + n.pos.attempts)), (10, .num (bit n.pos.contactor.position * 2 + bit n.pos.switch.position))]
    ++ n.peerFields (match peer with | some a => some a | none => n.pair.partner)

/-- The fields `code`..10 filled from a list of first-seen times. -/
def timeFields : Nat → Nat → List Nat → List (Nat × Value)
  | 0, _, _ => []
  | k + 1, code, [] => (code, .notKnown) :: timeFields k (code + 1) []
  | k + 1, code, t :: ts => (code, .num t) :: timeFields k (code + 1) ts

/-- Part 3: the fault list, active entries first, and the kind of breach of the LIMIT entry. -/
def Node.readout3 (n : Node) : List (Nat × Value) :=
  let on := n.serv.faults.filter FaultEntry.active
  let off := n.serv.faults.filter fun e => !e.active
  [(0, .num 3), (1, .list (on.map fun e => e.code.number)), (2, .list (off.map fun e => e.code.number))]
    ++ timeFields 8 3 ((on ++ off).map FaultEntry.seen)
    ++ [numField 11 (((n.serv.faults.find? fun e => e.code == .limit).bind FaultEntry.detail).map BreachKind.number)]

/-- Hands one READOUT part; a number that names no part hands nothing (log entry 21). -/
def Node.readout (n : Node) (part : Nat) (peer : Option Nat) : Node :=
  if part = 0 then n.handPart .readout 0 0 n.readout0
  else if part = 1 then n.handPart .readout 0 1 n.readout1
  else if part = 2 then n.handPart .readout 0 2 (n.readout2 peer)
  else if part = 3 then n.handPart .readout 0 3 n.readout3
  else n

/-- A QUERY (R181). One that names no part, code 1 missing or carried as "not known", is answered with all four (for the
latter the model's choice, log entry 21). -/
def Node.heardQuery (n : Node) (named : Nat) (part peer : Option Nat) : Node :=
  if named = n.address then
    match part with
    | some k => n.readout k peer
    | none => (((n.readout 0 peer).readout 1 peer).readout 2 peer).readout 3 peer
  else n

/-! ### Directives (R182, R183) -/

/-- Records a directive result, and a queued PRESENCE is rebuilt. -/
def Node.result (n : Node) (kind outcome : Nat) : Node :=
  (n.onServ fun s => { s with lastResult := kind * 16 + outcome }).rebuildPresence

/-- The directive is decided: refused with a reason, or accepted with its effect. -/
def Node.decide (n : Node) (kind : Nat) (refusal : Option Nat) (effect : Node → Node) : Node :=
  match refusal with
  | some r => n.result kind r
  | none => (effect n).result kind 0

/-- HOLD is accepted in ACTIVE. -/
def Node.holdRefusal (n : Node) : Option Nat := if n.pres.state = .active then none else some 1

/-- RESUME-NODE is accepted in HOLD. -/
def Node.resumeRefusal (n : Node) : Option Nat := if n.pres.state = .hold then none else some 1

/-- CLEAR-FAULTS is accepted in UNPLANNED, ACTIVE and HOLD with an entry latched. -/
def Node.clearRefusal (n : Node) : Option Nat :=
  if n.pres.state = .unplanned ∨ n.pres.state = .active ∨ n.pres.state = .hold then
    if n.serv.faults.all FaultEntry.active then some 6 else none
  else some 1

/-- Every latched entry is removed. -/
def Node.clearLatched (n : Node) : Node := n.onServ fun s => { s with faults := s.faults.filter FaultEntry.active }

/-- A DIRECTIVE heard (R182, R183). -/
def Node.heardDirective (n : Node) (named kind : Nat) : Node :=
  if named = 0 ∨ named = n.address then
    if kind = 1 then n.decide 1 n.regradeRefusal Node.acceptRegrade
    else if kind = 2 then n.decide 2 n.releaseRefusal Node.acceptRelease
    else if kind = 3 then n.decide 3 n.holdRefusal Node.enterHold
    else if kind = 4 then n.decide 4 n.resumeRefusal Node.enterActive
    else if kind = 5 then n.decide 5 n.clearRefusal Node.clearLatched
    else n.result 0 7
  else n

end Sys2Proof.Machine
end

