-- ==== Sys2Proof/Machine/Events.lean ====
section
/-! DEFINITION. How an event of the node is taken whole: the delivery of a heard frame (R23-R25, R29), a sample set
(R61-R70), a stop of a level (R83), and the end of a step, where completion reports are taken (R98, R101, R136) and a
queued PRESENCE is rebuilt (R141, R145, R164, R179, R183). -/

namespace Sys2Proof.Machine

/-! ### The end of a step -/

/-- The own exchange, which was agreed for the test, is the one whose completion is reported (R136). -/
def Rail.runsTest (r : Rail) (exchange : Option Nat) : Bool :=
  match r.own with | some o => o.servesTest && exchange == some o.id | none => false

/-- The completion of a TEST belongs to the test that the Grade Engine still asks for: its exchange is the own one, or has left the
view with its classification recorded. One whose test has been withdrawn is not passed on (R136). -/
def Rail.awaitsTest (r : Rail) (exchange : Option Nat) : Bool := r.runsTest exchange || r.testOrdinary.isSome

/-- The test is complete (R101): what is still in view of its exchange is asked for no more. -/
def Rail.testTaken (r : Rail) (exchange : Option Nat) : Rail :=
  { (if r.runsTest exchange then { r.disown with request := none } else r) with testOrdinary := none, testEnded := false }

/-- A TEST that stopped at its target or bound (R101). -/
def Node.testStopped (n : Node) (exchange : Option Nat) : Node :=
  if n.rail.awaitsTest exchange then (n.onRail fun r => r.testTaken exchange).testDone true else n

/-- A completion report is taken (R83, R101, R136). A TEST that ended by an end request waits for the classification of
its exchange's end (log entry 11). -/
def Node.takeCompletion (n : Node) (c : Completion) : Node :=
  match c.level, c.cause with
  | .pulse, _ => n.pulseDone c
  | .test, .charge => n.testStopped c.exchange
  | .test, .cell => n.testStopped c.exchange
  | .test, _ => n.onRail fun r => { r with testEnded := r.testEnded || r.awaitsTest c.exchange }
  | .protect, _ => n
  | .join, _ => n
  | .serve, _ => n

/-- The completion ENDED of the TEST and the classification of its exchange's end have both come (R101, R136). -/
def Node.settleTest (n : Node) : Node :=
  match n.rail.testOrdinary with
  | some c => if n.rail.testEnded then (n.onRail fun r => { r with testOrdinary := none, testEnded := false }).testDone c else n
  | none => n

/-- The completion reports of the step are taken; a level ended by their taking reports to no block. -/
def Node.takeCompletions (n : Node) : Node :=
  ((n.duty.reports.foldl Node.takeCompletion n).settleTest).onDuty fun d => { d with reports := [] }

/-- What a queued PRESENCE is rebuilt for at the end of a step: own record, pair state, partner and silence flag, phase and
position, fault list. -/
structure PresenceMark where
  own : Option (Nat × Nat × Bool × Bool)
  pair : PairState
  partner : Option Nat
  silent : Bool
  phase : Phase
  position : Option Nat
  faults : List FaultEntry
deriving DecidableEq, Repr

/-- The mark of a node as it stands. The published generation is no part of it: R95 lets the PRESENCE carry the new one from the
report on, and R46 fixes the content at the hand-over, so a PRESENCE queued at a publication keeps the old one (the model's
choice, log entry 9). -/
def Node.mark (n : Node) : PresenceMark :=
  { own := n.rail.own.map fun o => (o.id, o.units, o.flagOwn, o.flagOther)
    pair := n.pair.state, partner := n.pair.partner, silent := n.pair.silent, phase := n.pos.phase, position := n.pos.position
    faults := n.serv.faults }

/-- The end of a step that began at `before`. -/
def Node.conclude (n before : Node) : Node :=
  if n.takeCompletions.mark = before.mark then n.takeCompletions else n.takeCompletions.rebuildPresence

/-- A step of the node: the event, then the end of the step; the waiting commands are not touched. -/
def State.act (s : State) (event : Node → Node) : Host.Outcome State Fault Refusal :=
  .next { s with node := (event s.node).conclude s.node }

/-! ### Frames heard (R23-R25, R29) -/

/-- A notice reaches the blocks (R24, R29): the silence timers, for a peer's notice the Peer Table, then the block that
owns the kind. -/
def Node.deliver (n : Node) (src : Nat) (x : Notice) : Node :=
  let n0 : Node := (n.railNote src).pairNote src
  let n1 : Node := if src = n.address then n0 else n0.peerTouch src
  match x with
  | .plan p => n1.heardPlan p
  | .directive a k => n1.heardDirective a k
  | .query a part peer => n1.heardQuery a part peer
  | .presence p =>
    let n2 : Node := if src = n.address then n0 else n0.peerPresence src p
    let n3 : Node := n2.railPresence src p.stated
    (match n2.rowStatement src p with
      | some x => n3.viewPresence src x
      | none => n3).pairPresence src p
  | .grade g c pr cap res => if src = n.address then n0 else n0.peerGrade src g c pr cap res
  | .readout _ => n1
  | .fault _ _ => n1
  | .need id d _ e => n1.heardNeed src id d e
  | .offer id h => n1.heardOffer src id h
  | .agree id c k d u w e =>
    n1.heardAgree src { id := id, counterpart := c, kind := k, dir := d, units := u, draw := w, expected := e }
  | .release id u c => n1.heardRelease src id u c
  | .suspend id => n1.heardSuspend src id
  | .resume id => n1.heardResume src id
  | .propose t sc g h => n1.heardPropose src t sc g h
  | .bind a => n1.heardBind src a
  | .unbind a c => n1.heardUnbind src a c
  | .claim p y => n1.heardClaim src p y
  | .engage p s soc v => n1.heardEngage src p s soc v
  | .vacate p s r => n1.heardVacate src p s r

/-- The line carries another station's frame (R20). -/
def Node.lineBusy (n : Node) : Node := n.onLine fun l => { l with state := .busy }

/-- The Line Interface receives frames in FREE, from their start mark, and in BUSY (R20, R23, log entry 7). -/
def Node.receives (n : Node) : Bool := n.line.state == .free || n.line.state == .busy

/-- An address clash (R25). -/
def Node.clash (n : Node) : Node := n.enterStop .clashed .addressClash

/-- A frame of kind `k` of another station is heard (R24); one of the node's own address is a clash (R25), and one that
the Codec discards reaches no block. -/
def Node.hear (n : Node) (k : Kind) (h : Heard) : Node :=
  if n.receives then
    if n.live then
      if h.source = n.address then n.lineBusy.clash
      else match decode k h.source h.payload with
        | some x => n.lineBusy.deliver h.source x
        | none => n.lineBusy
    else n.lineBusy
  else n

/-- The kind number that a DIRECTIVE payload carries. -/
def directiveKind (h : Heard) : Option Nat :=
  match decode .directive h.source h.payload with
  | some (.directive _ k) => some k
  | some _ => none
  | none => none

/-- A DIRECTIVE whose kind is one of `kinds` is heard; any other frame is not this command (log entry 8), but one of the
node's own address is a clash whatever it carries (R25). -/
def Node.hearDirective (n : Node) (kinds : Nat → Bool) (h : Heard) : Node :=
  if n.live ∧ h.source = n.address then n.hear .directive h
  else match directiveKind h with
  | some k => if kinds k then n.hear .directive h else n
  | none => n

/-- The node's own frame is heard at its clean completion (R24). -/
def Node.hearOwn (n : Node) (q : Queued) : Node :=
  if n.live then
    match decode q.kind n.address q.payload with
    | some x => n.deliver n.address x
    | none => n
  else n

/-! ### Sample sets (R61-R70, R77, R82) -/

/-- The clear timer restarts at 10 s (R70). -/
def Node.restartClear (n : Node) (s : LimitState) : Node :=
  n.onMon fun m => { m with limit := s, clearTimer := n.after 10000 }

/-- A sample set with a hard breach (R70). The hardware opens the contactor at the entry into HARD, with the report, and at
no further hard breach in HARD (the model's choice, log entry 43). -/
def Node.hardLimit (n : Node) (k : BreachKind) : Node :=
  let n1 : Node := n.restartClear .hard
  if n.mon.limit = .hard then n1
  else ((if n.mon.limit = .clear then n1.requestProtect else n1).hardPath).reportFault .limit (some k)

/-- A sample set with soft breaches only (R70). -/
def Node.softLimit (n : Node) : Node :=
  match n.mon.limit with
  | .clear => (n.restartClear .soft).requestProtect
  | .soft => n.restartClear .soft
  | .hard => n.restartClear .hard

/-- The limit tests of the latest sample set (R69, R70). -/
def Node.limitTests (n : Node) : Node :=
  match hardBreach n.mon.sample n.profile with
  | some k => n.hardLimit k
  | none => if softBreach n.mon.sample n.mon.cell n.profile then n.softLimit else n

/-- A rest break is reported to the Grade Engine where it holds a watch (R65, R107). -/
def Node.restBreak (n : Node) : Node :=
  if restful n.mon.sample.current = false ∧ n.mon.watchGrade.isSome = true then n.abortSelfRest else n

/-- A sample set (R61). Its limit tests are taken before MODULE_CHANGE can accept a tag reading of the same set: R73 lets
either be taken first, and this order is the model's choice (log entry 39). The limit tests, with PROTECT's request, come before
the Duty Level Controller takes the set: R61 orders neither, and this order too is the model's choice (log entry 54). -/
def Node.sampleSet (n : Node) (r : RawSample) : Node :=
  (((n.takeSample (sampleOf r) r.tag).restBreak).limitTests).onDuty fun d => d.sample (sampleOf r).current

/-! ### Stops (R83, R88, R135) -/

/-- The level carries the node's own exchange (R134). -/
def Node.carriesOwn (n : Node) (i : LevelId) : Bool :=
  match n.rail.own with
  | some o => o.level == i && (n.duty.get i).exchange == some o.id
  | none => false

/-- A stop condition of the RUNNING holder is met (R83); the level of the node's own exchange releases it (R135). A level that has
become RUNNING after the latest sample set is first tested at the next one. -/
def Node.levelStop (n : Node) : Node :=
  match n.duty.conv.holder with
  | some i =>
    match (n.duty.get i).stopCause n.mon.cell with
    | some c =>
      if (n.duty.get i).state = .running ∧ (n.duty.get i).sampled = true then
        let n1 : Node := n.onDuty fun d =>
          let d1 : Duty := (d.upd i fun l => { l with state := .ending, cause := some c }).setpoint 0
          if i = .pulse ∧ c = .time then { d1 with pulseEnd := some (n.mon.sample.current, n.mon.sample.voltage) } else d1
        (if n.carriesOwn i then n1.releaseOwn causeStop else n1).settle n.duty.owner
      else n
    | none => n
  | none => n

end Sys2Proof.Machine
end

