-- ==== Sys2Proof/Machine/LineSteps.lean ====
section
/-! DEFINITION. The meanings of the pin and line commands: POWER_ON_RESET to SILENT_DISCARD (R20-R23, R36). -/

namespace Sys2Proof.Machine

/-- POWER_ON_RESET (R35, R36): every block in its power-on state. -/
def execPowerOnReset (straps : BitVec 6) (tag : TagReading) (s : State) : Host.Outcome State Fault Refusal :=
  .next { s with node := Node.powerOn straps tag }

/-- LINE_FREE (R20): 10 consecutive recessive bit periods. -/
def Node.lineFree (n : Node) : Node :=
  if n.line.state = .settling ∨ n.line.state = .busy then n.onLine fun l => { l with state := .free } else n

/-- LINE_FREE. -/
def execLineFree (s : State) : Host.Outcome State Fault Refusal := s.act Node.lineFree

/-- The node states in which a frame may be started (R21). -/
def NodeState.sends (s : NodeState) : Bool := s == .unplanned || s == .active || s == .hold

/-- FRAME_START (R21, R27): the head of the queue becomes the frame in transmission. It acts in FREE alone: whether a ready
node also joins a start mark in the interframe space, where R20 treats the line as FREE and has that frame received,
is left open; here it receives that frame and joins only once LINE_FREE has come (DESIGN CHOICE, log entry 7). -/
def Node.frameStart (n : Node) : Node :=
  match n.line.queue with
  | q :: qs =>
    if n.pres.state.sends ∧ n.line.state = .free then n.onLine fun l => { l with state := .sending, queue := qs, sending := some q }
    else n
  | [] => n

/-- FRAME_START. -/
def execFrameStart (s : State) : Host.Outcome State Fault Refusal := s.act Node.frameStart

/-- ARBITRATION_LOST (R21, R27): the frame returns to the queue and the winner's is received. -/
def Node.arbitrationLost (n : Node) : Node :=
  match n.line.state, n.line.sending with
  | .sending, some q => n.onLine fun l => { l with state := .busy, sending := none, queue := returnQueue q l.queue }
  | _, _ => n

/-- ARBITRATION_LOST. -/
def execArbitrationLost (s : State) : Host.Outcome State Fault Refusal := s.act Node.arbitrationLost

/-- FRAME_ABANDONED (R22, R44): the frame is gone; the eighth abandonment in a row leads to QUIET. -/
def Node.frameAbandoned (n : Node) : Node :=
  match n.line.state, n.line.sending with
  | .sending, some _ =>
    let n1 : Node := n.onLine fun l => { l with state := .busy, sending := none, abandons := min 8 (l.abandons + 1) }
    if n1.line.abandons = 8 ∧ n1.pres.state.sends = true then n1.enterQuiet else n1
  | _, _ => n

/-- FRAME_ABANDONED. -/
def execFrameAbandoned (s : State) : Host.Outcome State Fault Refusal := s.act Node.frameAbandoned

/-- FRAME_COMPLETE_CLEAN (R22, R24): the abandon count is 0, LINE QUIET latches at the first clean frame after a line
rejoin, and the node hears its own frame (log entry 6). -/
def Node.frameCompleteClean (n : Node) : Node :=
  match n.line.state, n.line.sending with
  | .sending, some q =>
    let n1 : Node := n.onLine fun l => { l with state := .busy, sending := none, abandons := 0, cleanDue := false }
    (if n.line.cleanDue then n1.latchFault .lineQuiet else n1).hearOwn q
  | _, _ => n

/-- FRAME_COMPLETE_CLEAN. -/
def execFrameCompleteClean (s : State) : Host.Outcome State Fault Refusal := s.act Node.frameCompleteClean

/-- RECEIVE_ERROR (R23, R124): a frame that fails the checks of length, framing or check sequence. -/
def Node.receiveError (n : Node) (f : RawFrame) : Node :=
  if n.receives ∧ verdictOf f = .error then
    if n.live then n.lineBusy.uncertain false else n.lineBusy
  else n

/-- RECEIVE_ERROR. -/
def execReceiveError (f : RawFrame) (s : State) : Host.Outcome State Fault Refusal := s.act fun n => n.receiveError f

/-- SILENT_DISCARD (R23, R29, R32, R33): an unknown kind, an impossible source or a notice that the Codec discards
reaches no block; a frame of the node's own address is a clash all the same (R25). -/
def Node.silentDiscard (n : Node) (f : RawFrame) : Node :=
  if n.receives then
    match verdictOf f with
    | .error => n
    | .silent => n.lineBusy
    | .heard k src =>
      if n.live ∧ src = n.address then n.lineBusy.clash
      else if n.live ∧ (decode k src f.payload).isSome = true then n
      else n.lineBusy
  else n

/-- SILENT_DISCARD. -/
def execSilentDiscard (f : RawFrame) (s : State) : Host.Outcome State Fault Refusal := s.act fun n => n.silentDiscard f

end Sys2Proof.Machine
end

