-- ==== Sys2Proof/Machine/ModuleSteps.lean ====
section
/-! DEFINITION. The meanings of the measurement, converter and grading commands: SAMPLE_SET to GRADE_REPEAT_EXPIRY
(chapters 5 to 7). -/

namespace Sys2Proof.Machine

/-- SAMPLE_SET (R61). -/
def execSampleSet (r : RawSample) (s : State) : Host.Outcome State Fault Refusal := s.act fun n => n.sampleSet r

/-- LIMIT_CLEAR_EXPIRY (R70), while the timer runs: CLEAR, PROTECT released, and the end of a hard episode. -/
def Node.limitClearExpiry (n : Node) : Node :=
  if n.mon.clearTimer.isSome then
    let n1 : Node := (n.onMon fun m => { m with limit := .clear, clearTimer := none }).releaseProtect
    if n.mon.limit = .hard then n1.latchFault .limit else n1
  else n

/-- LIMIT_CLEAR_EXPIRY. -/
def execLimitClearExpiry (s : State) : Host.Outcome State Fault Refusal := s.act Node.limitClearExpiry

/-- MODULE_CHANGE (R71, R72): a differing tag reading has stood in 5 consecutive sample sets. -/
def Node.moduleChange (n : Node) : Node := if 5 ≤ n.mon.tagRun then n.changeModule else n

/-- MODULE_CHANGE. -/
def execModuleChange (s : State) : Host.Outcome State Fault Refusal := s.act Node.moduleChange

/-- REST_WATCH_COMPLETE of the Grade Engine (R66, R67): the reading is formed and handed over, the watch closed. -/
def Node.gradeWatchComplete (n : Node) : Node :=
  if n.mon.due n.mon.watchGrade then
    let n1 : Node := (n.formReading).cancelGrade
    match n.restReading with
    | some r => n1.gradeReading r
    | none => n1
  else n

/-- REST_WATCH_COMPLETE of the Position Manager (R66, R67). -/
def Node.positionWatchComplete (n : Node) : Node :=
  if n.mon.due n.mon.watchPosition then
    let n1 : Node := (n.formReading).cancelPosition
    match n.restReading with
    | some r => n1.settledReport r
    | none => n1
  else n

/-- REST_WATCH_COMPLETE. -/
def execRestWatchComplete (w : Watcher) (s : State) : Host.Outcome State Fault Refusal :=
  s.act fun n => match w with | .grade => n.gradeWatchComplete | .position => n.positionWatchComplete

/-- PERIODIC_REST_READING (R67): the rest timer stands at a whole multiple of 60 s, also where it stays at its limit of 200 h
(the model's choice, log entry 50). -/
def Node.periodicRestReading (n : Node) : Node :=
  if 0 < n.mon.rest ∧ n.mon.rest % 60000 = 0 then n.formReading else n

/-- PERIODIC_REST_READING. -/
def execPeriodicRestReading (s : State) : Host.Outcome State Fault Refusal := s.act Node.periodicRestReading

/-- RAMP_DOWN_COMPLETE (R78): the actual value stands at 0 at setpoint 0. -/
def execRampDownComplete (s : State) : Host.Outcome State Fault Refusal := s.act Node.rampIfIdle

/-- LEVEL_STOP (R83). -/
def execLevelStop (s : State) : Host.Outcome State Fault Refusal := s.act Node.levelStop

/-- GRADE_REPEAT_EXPIRY (R95), while the timer runs. -/
def Node.gradeRepeatExpiry (n : Node) : Node :=
  if n.grade.repeatTimer.isSome ∧ n.pres.state.repeats = true then n.handGrade else n

/-- GRADE_REPEAT_EXPIRY. -/
def execGradeRepeatExpiry (s : State) : Host.Outcome State Fault Refusal := s.act Node.gradeRepeatExpiry

end Sys2Proof.Machine
end

