-- ==== Sys2Proof/Machine/PairSteps.lean ====
section
/-! DEFINITION. The meanings of the pairing commands: PROPOSE to PARTNER_SILENCE_EXPIRY (chapter 9). -/

namespace Sys2Proof.Machine

/-- PROPOSE (R150). -/
def execPropose (h : Heard) (s : State) : Host.Outcome State Fault Refusal := s.act fun n => n.hear .propose h

/-- BIND (R151). -/
def execBind (h : Heard) (s : State) : Host.Outcome State Fault Refusal := s.act fun n => n.hear .bind h

/-- UNBIND (R152). -/
def execUnbind (h : Heard) (s : State) : Host.Outcome State Fault Refusal := s.act fun n => n.hear .unbind h

/-- PROPOSAL_TIMER_EXPIRY (R149). -/
def Node.proposalTimerExpiry (n : Node) : Node :=
  if n.live ∧ n.pair.state = .proposing ∧ n.pair.proposalTimer.isSome = true then n.proposalEnds else n

/-- PROPOSAL_TIMER_EXPIRY. -/
def execProposalTimerExpiry (s : State) : Host.Outcome State Fault Refusal := s.act Node.proposalTimerExpiry

/-- BAR_TIMER_EXPIRY (R157): the bar ends, and a node in SEEKING proposes to a new target (R148). -/
def Node.barTimerExpiry (n : Node) : Node :=
  if n.live ∧ n.pair.barTimer.isSome = true then n.endBar.seekOn else n

/-- BAR_TIMER_EXPIRY. -/
def execBarTimerExpiry (s : State) : Host.Outcome State Fault Refusal := s.act Node.barTimerExpiry

/-- PARTNER_SILENCE_EXPIRY (R159). -/
def Node.partnerSilenceExpiry (n : Node) : Node :=
  if n.live ∧ n.pair.silenceTimer.isSome = true then n.onPair fun q => { q with silent := true, silenceTimer := none } else n

/-- PARTNER_SILENCE_EXPIRY. -/
def execPartnerSilenceExpiry (s : State) : Host.Outcome State Fault Refusal := s.act Node.partnerSilenceExpiry

end Sys2Proof.Machine
end

