-- ==== Sys2Proof/Machine/PositionSteps.lean ====
section
/-! DEFINITION. The meanings of the position commands: CLAIM to LEAVE_TIMER_EXPIRY (chapter 10). In STRAPFAULT and CLASHED
the own record does not change (R177). -/

namespace Sys2Proof.Machine

/-- CLAIM (R166). -/
def execClaim (h : Heard) (s : State) : Host.Outcome State Fault Refusal := s.act fun n => n.hear .claim h

/-- ENGAGE (R173). -/
def execEngage (h : Heard) (s : State) : Host.Outcome State Fault Refusal := s.act fun n => n.hear .engage h

/-- VACATE (R175). -/
def execVacate (h : Heard) (s : State) : Host.Outcome State Fault Refusal := s.act fun n => n.hear .vacate h

/-- QUIET_WINDOW_EXPIRY (R169). -/
def Node.quietWindowExpiry (n : Node) : Node :=
  if n.live ∧ n.pos.windowTimer.isSome = true ∧ n.pos.phase = .claimWait then n.positionWon else n

/-- QUIET_WINDOW_EXPIRY. -/
def execQuietWindowExpiry (s : State) : Host.Outcome State Fault Refusal := s.act Node.quietWindowExpiry

/-- POSITION_REPEAT_EXPIRY (R164): a notice under repeat is handed again, and its interval starts anew. -/
def Node.positionRepeatExpiry (n : Node) (x : PosNotice) : Node :=
  if (n.pos.repeats.map Prod.fst).contains x then
    (n.sendPos x).onPos fun q => { q with repeats := restartRepeat x n.repeatAt q.repeats }
  else n

/-- POSITION_REPEAT_EXPIRY. -/
def execPositionRepeatExpiry (x : PosNotice) (s : State) : Host.Outcome State Fault Refusal := s.act fun n => n.positionRepeatExpiry x

/-- LIVE_REPORT_TIMER_EXPIRY (R171): a live report, and the timer anew. -/
def Node.liveReportTimerExpiry (n : Node) : Node :=
  match n.pos.position with
  | some p =>
    if n.live ∧ n.pos.liveTimer.isSome = true then
      (n.hand .engage (engageFields p 0 none (n.average.map fun v => formFig .ocv v))).onPos fun q => { q with liveTimer := n.after 1000 }
    else n
  | none => n

/-- LIVE_REPORT_TIMER_EXPIRY. -/
def execLiveReportTimerExpiry (s : State) : Host.Outcome State Fault Refusal := s.act Node.liveReportTimerExpiry

/-- CONTACTOR_CONFIRM (R173): the driven move is confirmed, and the step that waited for it follows. A confirmation that comes
when none is awaited, after its failure at 100 ms, changes nothing (the model's choice, log entry 49). -/
def Node.contactorConfirm (n : Node) : Node :=
  if n.live ∧ n.pos.contactor.timer.isSome = true then
    (n.onPos fun q => { q with contactor := { q.contactor with position := q.contactor.drive, timer := none } }).contactorStep
  else n

/-- CONTACTOR_CONFIRM. -/
def execContactorConfirm (s : State) : Host.Outcome State Fault Refusal := s.act Node.contactorConfirm

/-- TRANSFER_SWITCH_CONFIRM (R173), late as CONTACTOR_CONFIRM (log entry 49). -/
def Node.switchConfirm (n : Node) : Node :=
  if n.live ∧ n.pos.switch.timer.isSome = true then
    (n.onPos fun q => { q with switch := { q.switch with position := q.switch.drive, timer := none } }).switchStep
  else n

/-- TRANSFER_SWITCH_CONFIRM. -/
def execTransferSwitchConfirm (s : State) : Host.Outcome State Fault Refusal := s.act Node.switchConfirm

/-- A confirmation failure after its report (R174, R175): an engage abort in ENGAGING, the next step at once while
leaving. -/
def Node.afterFailure (n : Node) (d : Drive) : Node :=
  match n.pos.phase with
  | .engaging => (n.onPos fun q => { q with onContactor := none, onSwitch := none }).handVacate 0 .contactor
  | .vacating => match d with | .contactor => n.contactorStep | .switch => n.switchStep
  | .none => n | .bonded => n | .claiming => n | .claimWait => n | .settleWait => n | .reported => n | .transfer => n | .inString => n

/-- CONFIRM_TIMEOUT (R173): a move is not confirmed within 100 ms of its drive. -/
def Node.confirmTimeout (n : Node) (d : Drive) : Node :=
  match d with
  | .contactor =>
    if n.live ∧ n.pos.contactor.timer.isSome = true then
      ((n.onPos fun q => { q with contactor := { q.contactor with timer := none } }).reportFault .contactor).afterFailure d
    else n
  | .switch =>
    if n.live ∧ n.pos.switch.timer.isSome = true then
      ((n.onPos fun q => { q with switch := { q.switch with timer := none } }).reportFault .contactor).afterFailure d
    else n

/-- CONFIRM_TIMEOUT. -/
def execConfirmTimeout (d : Drive) (s : State) : Host.Outcome State Fault Refusal := s.act fun n => n.confirmTimeout d

/-- ENGAGE_TIMEOUT (R174): the engage timer expires in ENGAGING. -/
def Node.engageTimeout (n : Node) : Node :=
  if n.live ∧ n.pos.engageTimer.isSome = true ∧ n.pos.phase = .engaging then
    (n.onPos fun q => { q with engageTimer := none }).handVacate 0 .timeout
  else n

/-- ENGAGE_TIMEOUT. -/
def execEngageTimeout (s : State) : Host.Outcome State Fault Refusal := s.act Node.engageTimeout

/-- LEAVE_TIMER_EXPIRY (R175): the lead opens its contactor. -/
def Node.leaveTimerExpiry (n : Node) : Node :=
  if n.live ∧ n.pos.leaveTimer.isSome = true ∧ n.pos.phase = .vacating then n.leadOpens true else n

/-- LEAVE_TIMER_EXPIRY. -/
def execLeaveTimerExpiry (s : State) : Host.Outcome State Fault Refusal := s.act Node.leaveTimerExpiry

end Sys2Proof.Machine
end

