-- ==== Sys2Proof/Machine/RackSteps.lean ====
section
/-! DEFINITION. The meanings of the commands of joining the rack and of the peer table: PLAN to ENTRY_EXPIRES (chapters 3
and 4), and of QUERY and the directives (chapter 11). -/

namespace Sys2Proof.Machine

/-- PLAN (R39, R42). -/
def execPlan (h : Heard) (s : State) : Host.Outcome State Fault Refusal := s.act fun n => n.hear .plan h

/-- LISTEN_WINDOW_EXPIRY (R37), while the window runs. -/
def Node.listenWindowExpiry (n : Node) : Node :=
  if n.pres.state = .listen ∧ n.pres.listenTimer.isSome = true then n.listenEnds else n

/-- LISTEN_WINDOW_EXPIRY. -/
def execListenWindowExpiry (s : State) : Host.Outcome State Fault Refusal := s.act Node.listenWindowExpiry

/-- PRESENCE_TIMER_EXPIRY (R46), while the timer runs. -/
def Node.presenceTimerExpiry (n : Node) : Node :=
  if n.pres.presenceTimer.isSome ∧ (n.pres.state = .unplanned ∨ n.pres.state = .active ∨ n.pres.state = .hold) then
    n.sendPresence
  else n

/-- PRESENCE_TIMER_EXPIRY. -/
def execPresenceTimerExpiry (s : State) : Host.Outcome State Fault Refusal := s.act Node.presenceTimerExpiry

/-- LINE_REJOIN (R44): the quiet timer expires. -/
def Node.lineRejoin (n : Node) : Node :=
  if n.pres.state = .quiet ∧ n.pres.quietTimer.isSome = true then n.rejoin else n

/-- LINE_REJOIN. -/
def execLineRejoin (s : State) : Host.Outcome State Fault Refusal := s.act Node.lineRejoin

/-- PRESENCE (R50, R122, R156, R167). -/
def execPresence (h : Heard) (s : State) : Host.Outcome State Fault Refusal := s.act fun n => n.hear .presence h

/-- GRADE (R51). -/
def execGrade (h : Heard) (s : State) : Host.Outcome State Fault Refusal := s.act fun n => n.hear .grade h

/-- READOUT (R52). -/
def execReadout (h : Heard) (s : State) : Host.Outcome State Fault Refusal := s.act fun n => n.hear .readout h

/-- FAULT (R52). -/
def execFault (h : Heard) (s : State) : Host.Outcome State Fault Refusal := s.act fun n => n.hear .fault h

/-- ENTRY_EXPIRES (R53-R55), while a plan is stored; not in STRAPFAULT and CLASHED. -/
def Node.entryExpires (n : Node) (a : Nat) : Node :=
  if n.live ∧ n.pres.plan.isSome = true ∧ (n.peer a).isSome = true then n.removePeer a else n

/-- ENTRY_EXPIRES. -/
def execEntryExpires (a : Nat) (s : State) : Host.Outcome State Fault Refusal := s.act fun n => n.entryExpires a

/-- QUERY (R181). -/
def execQuery (h : Heard) (s : State) : Host.Outcome State Fault Refusal := s.act fun n => n.hear .query h

/-- REGRADE (R112): a DIRECTIVE of kind 1. -/
def execRegrade (h : Heard) (s : State) : Host.Outcome State Fault Refusal := s.act fun n => n.hearDirective (· == 1) h

/-- DIRECTIVE_RELEASE (R160): a DIRECTIVE of kind 2. -/
def execDirectiveRelease (h : Heard) (s : State) : Host.Outcome State Fault Refusal := s.act fun n => n.hearDirective (· == 2) h

/-- HOLD (R43): a DIRECTIVE of kind 3. -/
def execHold (h : Heard) (s : State) : Host.Outcome State Fault Refusal := s.act fun n => n.hearDirective (· == 3) h

/-- RESUME_NODE (R43): a DIRECTIVE of kind 4. -/
def execResumeNode (h : Heard) (s : State) : Host.Outcome State Fault Refusal := s.act fun n => n.hearDirective (· == 4) h

/-- CLEAR_FAULTS (R182): a DIRECTIVE of kind 5. -/
def execClearFaults (h : Heard) (s : State) : Host.Outcome State Fault Refusal := s.act fun n => n.hearDirective (· == 5) h

/-- DIRECTIVE_UNKNOWN_KIND (R182): a DIRECTIVE of a kind outside 1..5. -/
def execDirectiveUnknownKind (h : Heard) (s : State) : Host.Outcome State Fault Refusal :=
  s.act fun n => n.hearDirective (fun k => k == 0 || decide (5 < k)) h

end Sys2Proof.Machine
end

