-- ==== Sys2Proof/Machine/RailSteps.lean ====
section
/-! DEFINITION. The meanings of the exchange commands: NEED to UNCERTAINTY_EXPIRY (chapter 8). A timer's expiry acts while
the timer runs, and not in STRAPFAULT and CLASHED, where all of them are stopped (R144). -/

namespace Sys2Proof.Machine

/-- NEED (R128, R129, R131). -/
def execNeed (h : Heard) (s : State) : Host.Outcome State Fault Refusal := s.act fun n => n.hear .need h

/-- OFFER (R129). -/
def execOffer (h : Heard) (s : State) : Host.Outcome State Fault Refusal := s.act fun n => n.hear .offer h

/-- AGREE (R119, R132). -/
def execAgree (h : Heard) (s : State) : Host.Outcome State Fault Refusal := s.act fun n => n.hear .agree h

/-- RELEASE (R120). -/
def execRelease (h : Heard) (s : State) : Host.Outcome State Fault Refusal := s.act fun n => n.hear .release h

/-- SUSPEND (R121). -/
def execSuspend (h : Heard) (s : State) : Host.Outcome State Fault Refusal := s.act fun n => n.hear .suspend h

/-- RESUME (R121). -/
def execResume (h : Heard) (s : State) : Host.Outcome State Fault Refusal := s.act fun n => n.hear .resume h

/-- NEED_TIMEOUT (R128): the NEED is taken as lost. -/
def Node.needTimeout (n : Node) : Node :=
  if n.live ∧ n.rail.needTimer.isSome = true ∧ n.rail.side = .needing then n.backToWaiting.roomTest else n

/-- NEED_TIMEOUT. -/
def execNeedTimeout (s : State) : Host.Outcome State Fault Refusal := s.act Node.needTimeout

/-- OFFER_WINDOW_EXPIRY (R129, R130). -/
def Node.offerWindowExpiry (n : Node) : Node :=
  if n.live ∧ n.rail.windowTimer.isSome = true ∧ n.rail.side = .window then n.closeWindow.roomTest else n

/-- OFFER_WINDOW_EXPIRY. -/
def execOfferWindowExpiry (s : State) : Host.Outcome State Fault Refusal := s.act Node.offerWindowExpiry

/-- RETRY_TIMER_EXPIRY (R130). -/
def Node.retryTimerExpiry (n : Node) : Node :=
  if n.live ∧ n.rail.retryTimer.isSome = true then (n.onRail fun r => { r with retryTimer := none }).roomTest else n

/-- RETRY_TIMER_EXPIRY. -/
def execRetryTimerExpiry (s : State) : Host.Outcome State Fault Refusal := s.act Node.retryTimerExpiry

/-- AGREE_TIMEOUT (R130): the AGREE is taken as lost. -/
def Node.agreeTimeout (n : Node) : Node :=
  if n.live ∧ n.rail.agreeTimer.isSome = true ∧ n.rail.side = .agreeing then n.backToWaiting.roomTest else n

/-- AGREE_TIMEOUT. -/
def execAgreeTimeout (s : State) : Host.Outcome State Fault Refusal := s.act Node.agreeTimeout

/-- OFFER_HOLD_EXPIRY (R131). -/
def Node.offerHoldExpiry (n : Node) : Node :=
  if n.live ∧ n.rail.heldTimer.isSome = true then n.endOffer.roomTest else n

/-- OFFER_HOLD_EXPIRY. -/
def execOfferHoldExpiry (s : State) : Host.Outcome State Fault Refusal := s.act Node.offerHoldExpiry

/-- START_TIMER_EXPIRY (R134). -/
def Node.startTimerExpiry (n : Node) : Node :=
  match n.rail.own with
  | some o => if n.live ∧ n.rail.startTimer.isSome = true ∧ n.rail.side = .starting then n.startParty o else n
  | none => n

/-- START_TIMER_EXPIRY. -/
def execStartTimerExpiry (s : State) : Host.Outcome State Fault Refusal := s.act Node.startTimerExpiry

/-- SUSPEND_HOLD_EXPIRY (R138). -/
def Node.suspendHoldExpiry (n : Node) : Node :=
  if n.live ∧ n.rail.suspendTimer.isSome = true then
    (n.onRail fun r => { r with suspendTimer := none }).releaseOwn causeHoldExpiry
  else n

/-- SUSPEND_HOLD_EXPIRY. -/
def execSuspendHoldExpiry (s : State) : Host.Outcome State Fault Refusal := s.act Node.suspendHoldExpiry

/-- PARTY_SILENCE_EXPIRY (R139). -/
def Node.partySilenceExpiry (n : Node) : Node :=
  if n.live ∧ n.rail.silenceTimer.isSome = true then
    (n.onRail fun r => { r with silenceTimer := none }).releaseOwn causeSilence
  else n

/-- PARTY_SILENCE_EXPIRY. -/
def execPartySilenceExpiry (s : State) : Host.Outcome State Fault Refusal := s.act Node.partySilenceExpiry

/-- RAIL_REPEAT_EXPIRY (R140): a notice under repeat is handed again, and its interval starts anew. -/
def Node.railRepeatExpiry (n : Node) (x : RailNotice) : Node :=
  if (n.rail.repeats.map Prod.fst).contains x then
    (n.sendRail x).onRail fun r => { r with repeats := restartRepeat x n.repeatAt r.repeats }
  else n

/-- RAIL_REPEAT_EXPIRY. -/
def execRailRepeatExpiry (x : RailNotice) (s : State) : Host.Outcome State Fault Refusal := s.act fun n => n.railRepeatExpiry x

/-- UNCERTAINTY_EXPIRY (R124): one peer lifetime since the latest cause. -/
def Node.uncertaintyExpiry (n : Node) : Node :=
  if n.live ∧ n.rail.certainTimer.isSome = true ∧ n.pres.plan.isSome = true then n.makeCertain else n

/-- UNCERTAINTY_EXPIRY. -/
def execUncertaintyExpiry (s : State) : Host.Outcome State Fault Refusal := s.act Node.uncertaintyExpiry

end Sys2Proof.Machine
end

