-- ==== Sys2Proof/Machine/Dispatch.lean ====
section
/-! DEFINITION. The dispatch of the commands to their meanings, one arm for each constructor of `Instr`. -/

namespace Sys2Proof.Machine

/-- The effect of a command on everything but the queue. -/
def exec (i : Instr) (s : State) : Host.Outcome State Fault Refusal :=
  match i with
  | .powerOnReset straps tag => Sys2Proof.Machine.execPowerOnReset straps tag s
  | .lineFree => Sys2Proof.Machine.execLineFree s
  | .frameStart => Sys2Proof.Machine.execFrameStart s
  | .arbitrationLost => Sys2Proof.Machine.execArbitrationLost s
  | .frameAbandoned => Sys2Proof.Machine.execFrameAbandoned s
  | .frameCompleteClean => Sys2Proof.Machine.execFrameCompleteClean s
  | .receiveError f => Sys2Proof.Machine.execReceiveError f s
  | .silentDiscard f => Sys2Proof.Machine.execSilentDiscard f s
  | .plan h => Sys2Proof.Machine.execPlan h s
  | .listenWindowExpiry => Sys2Proof.Machine.execListenWindowExpiry s
  | .presenceTimerExpiry => Sys2Proof.Machine.execPresenceTimerExpiry s
  | .lineRejoin => Sys2Proof.Machine.execLineRejoin s
  | .presence h => Sys2Proof.Machine.execPresence h s
  | .grade h => Sys2Proof.Machine.execGrade h s
  | .readout h => Sys2Proof.Machine.execReadout h s
  | .fault h => Sys2Proof.Machine.execFault h s
  | .entryExpires address => Sys2Proof.Machine.execEntryExpires address s
  | .sampleSet r => Sys2Proof.Machine.execSampleSet r s
  | .limitClearExpiry => Sys2Proof.Machine.execLimitClearExpiry s
  | .moduleChange => Sys2Proof.Machine.execModuleChange s
  | .restWatchComplete w => Sys2Proof.Machine.execRestWatchComplete w s
  | .periodicRestReading => Sys2Proof.Machine.execPeriodicRestReading s
  | .rampDownComplete => Sys2Proof.Machine.execRampDownComplete s
  | .levelStop => Sys2Proof.Machine.execLevelStop s
  | .gradeRepeatExpiry => Sys2Proof.Machine.execGradeRepeatExpiry s
  | .need h => Sys2Proof.Machine.execNeed h s
  | .offer h => Sys2Proof.Machine.execOffer h s
  | .agree h => Sys2Proof.Machine.execAgree h s
  | .release h => Sys2Proof.Machine.execRelease h s
  | .suspend h => Sys2Proof.Machine.execSuspend h s
  | .resume h => Sys2Proof.Machine.execResume h s
  | .needTimeout => Sys2Proof.Machine.execNeedTimeout s
  | .offerWindowExpiry => Sys2Proof.Machine.execOfferWindowExpiry s
  | .retryTimerExpiry => Sys2Proof.Machine.execRetryTimerExpiry s
  | .agreeTimeout => Sys2Proof.Machine.execAgreeTimeout s
  | .offerHoldExpiry => Sys2Proof.Machine.execOfferHoldExpiry s
  | .startTimerExpiry => Sys2Proof.Machine.execStartTimerExpiry s
  | .suspendHoldExpiry => Sys2Proof.Machine.execSuspendHoldExpiry s
  | .partySilenceExpiry => Sys2Proof.Machine.execPartySilenceExpiry s
  | .railRepeatExpiry x => Sys2Proof.Machine.execRailRepeatExpiry x s
  | .uncertaintyExpiry => Sys2Proof.Machine.execUncertaintyExpiry s
  | .propose h => Sys2Proof.Machine.execPropose h s
  | .bind h => Sys2Proof.Machine.execBind h s
  | .unbind h => Sys2Proof.Machine.execUnbind h s
  | .proposalTimerExpiry => Sys2Proof.Machine.execProposalTimerExpiry s
  | .barTimerExpiry => Sys2Proof.Machine.execBarTimerExpiry s
  | .partnerSilenceExpiry => Sys2Proof.Machine.execPartnerSilenceExpiry s
  | .claim h => Sys2Proof.Machine.execClaim h s
  | .engage h => Sys2Proof.Machine.execEngage h s
  | .vacate h => Sys2Proof.Machine.execVacate h s
  | .quietWindowExpiry => Sys2Proof.Machine.execQuietWindowExpiry s
  | .positionRepeatExpiry x => Sys2Proof.Machine.execPositionRepeatExpiry x s
  | .liveReportTimerExpiry => Sys2Proof.Machine.execLiveReportTimerExpiry s
  | .contactorConfirm => Sys2Proof.Machine.execContactorConfirm s
  | .transferSwitchConfirm => Sys2Proof.Machine.execTransferSwitchConfirm s
  | .confirmTimeout d => Sys2Proof.Machine.execConfirmTimeout d s
  | .engageTimeout => Sys2Proof.Machine.execEngageTimeout s
  | .leaveTimerExpiry => Sys2Proof.Machine.execLeaveTimerExpiry s
  | .query h => Sys2Proof.Machine.execQuery h s
  | .regrade h => Sys2Proof.Machine.execRegrade h s
  | .directiveRelease h => Sys2Proof.Machine.execDirectiveRelease h s
  | .hold h => Sys2Proof.Machine.execHold h s
  | .resumeNode h => Sys2Proof.Machine.execResumeNode h s
  | .clearFaults h => Sys2Proof.Machine.execClearFaults h s
  | .directiveUnknownKind h => Sys2Proof.Machine.execDirectiveUnknownKind h s

end Sys2Proof.Machine
end

