-- ==== Sys2Proof/Safety.lean ====
section
/-! DEFINITION. The laws of the device that a safe node keeps: what the manual calls "a law of the device" for the
transmit queue (R26), the peer table (R48), the rail view (R118), the converter (R77), the contactor (R164, R173), the
fault list (R178), and what a stopped node may not do (R28, R45). Claims are stated in these terms. -/

namespace Sys2Proof.Machine

/-- The transmit queue holds at most 8 notices, highest priority first, at most one PRESENCE, one GRADE and one READOUT
of a part; those three, in the queue or in transmission, have the fixed priority of their kind (R26, R29). -/
abbrev Node.QueueLaw (n : Node) : Prop :=
  n.line.queue.length ≤ 8
    ∧ n.line.queue.Pairwise (fun x y => y.priority ≤ x.priority)
    ∧ n.line.queue.Pairwise (fun x y => x.replaces y = false)
    ∧ ∀ q ∈ n.line.queue ++ n.line.sending.toList,
        (q.kind = .presence ∨ q.kind = .grade ∨ q.kind = .readout) → q.priority = q.kind.priority 0

/-- The Peer Table holds one entry per address, by address rising, none for station 0 and none for the node itself (R48). -/
abbrev Node.PeerLaw (n : Node) : Prop :=
  n.peers.entries.Pairwise (fun e f => e.address < f.address)
    ∧ ∀ e ∈ n.peers.entries, 1 ≤ e.address ∧ e.address ≤ 48 ∧ e.address ≠ n.pres.address

/-- The rail view holds nothing without a plan; with one its draws, each that of the units held, keep within the pool, it
holds at most E exchanges, and never two of one id (R117, R118). -/
abbrev Node.RailLaw (n : Node) : Prop :=
  match n.pres.plan with
  | none => n.rail.view = []
  | some p =>
    drawn n.rail.view ≤ p.pool ∧ n.rail.view.length ≤ p.slots ∧ (n.rail.view.map Exchange.id).Nodup
      ∧ ∀ e ∈ n.rail.view, e.draw = drawOf p.share e.units

/-- The converter's setpoint is zero unless the level that owns the converter is RUNNING, and is then its holder (R77). -/
abbrev Node.SetpointLaw (n : Node) : Prop :=
  n.duty.conv.setpoint ≠ 0 →
    match n.duty.conv.holder with
    | some i => n.duty.owner = some i ∧ (n.duty.get i).state = .running
    | none => False

/-- PROTECT drives no current: its direction is OFF (R75, R87). -/
abbrev Node.ProtectLaw (n : Node) : Prop := n.duty.protect.dir = .off

/-- The fault list holds at most 8 entries and never two of one code (R178). -/
abbrev Node.FaultLaw (n : Node) : Prop := n.serv.faults.length ≤ 8 ∧ (n.serv.faults.map FaultEntry.code).Nodup

/-- The pair states in which a couple has or has had its position: JOINING, JOINED and LEAVING. -/
abbrev PairState.placed (s : PairState) : Prop := s = .joining ∨ s = .joined ∨ s = .leaving

/-- The pair state that goes with each phase (R164). In VACATING the pair state is still that of the phase before until
leaving begun is reported (R175). -/
abbrev Phase.goesWith (p : Phase) (s : PairState) : Prop :=
  match p with
  | .none => True
  | .bonded => s = .bound
  | .claiming => s = .bound
  | .claimWait => s = .bound
  | .settleWait => s = .joining
  | .reported => s = .joining
  | .transfer => s = .joining
  | .engaging => s = .joining
  | .inString => s = .joined
  | .vacating => s.placed

/-- The slot contactor is driven closed only in ENGAGING, IN_STRING and VACATING, where the pair state goes with the phase
and is JOINING, JOINED or LEAVING; a phase but NONE stands only under a stored plan; and the report of leaving begun waits for the
transfer switch only, and only in VACATING (R164, R173, R175). -/
abbrev Node.ContactorLaw (n : Node) : Prop :=
  n.pos.phase.goesWith n.pair.state
    ∧ (n.pos.contactor.drive = true → n.pos.phase = .engaging ∨ n.pos.phase = .inString ∨ n.pos.phase = .vacating)
    ∧ (n.pos.phase ≠ .none → n.pres.plan.isSome = true)
    ∧ (n.pos.onSwitch = some .vacate1 → n.pos.phase = .vacating)
    ∧ n.pos.onContactor ≠ some .vacate1

/-- From BOUND to LEAVING the node has a partner; and a node that is not stopped and seeks, proposes, is bound or joining is
graded: its grade state is GRADED or SELFREST (R47, R112, R145, R146, R162). -/
abbrev Node.PairLaw (n : Node) : Prop :=
  (n.pair.state = .bound ∨ n.pair.state.placed → n.pair.partner.isSome = true)
    ∧ (n.live = true → (n.pair.state = .seeking ∨ n.pair.state = .proposing ∨ n.pair.state = .bound ∨ n.pair.state = .joining) →
        n.grade.state = .graded ∨ n.grade.state = .selfRest)

/-- A node that is not stopped has a station address of 1..48: any other strap value leads to STRAPFAULT (R35, R36). -/
abbrev Node.AddressLaw (n : Node) : Prop := n.live = true → 1 ≤ n.address ∧ n.address ≤ 48

/-- The assembly buffer never holds a complete plan between steps: its last part empties it (R39). -/
abbrev Node.AssemblyLaw (n : Node) : Prop := ∀ b, n.pres.assembly = some b → b.complete = false

/-- The node is stopped: in STRAPFAULT or CLASHED (R45). -/
abbrev Node.stopped (n : Node) : Prop := n.pres.state = .strapFault ∨ n.pres.state = .clashed

/-- A stopped node is silent: its transmit queue is empty and no frame is in transmission (R28). -/
abbrev Node.SilenceLaw (n : Node) : Prop := n.stopped → n.line.queue = [] ∧ n.line.sending = none

/-- The initiator of a TEST holds no end classification while its own exchange stands: it records one when the exchange leaves its
view (R125, R136). -/
abbrev Node.TestLaw (n : Node) : Prop :=
  n.rail.side = .party → ∀ o, n.rail.own = some o → o.join = false → o.initiator = true → n.rail.testOrdinary = none

/-- Between steps no completion report waits, and the two reports that end a TEST do not wait for each other (R101, R136). -/
abbrev Node.Settled (n : Node) : Prop :=
  n.duty.reports = [] ∧ (n.rail.testEnded = false ∨ n.rail.testOrdinary = none)

/-! ### The terms of the statements about one command -/

/-- A frame of kind `k` is heard that carries the notice `x`: the line is received, the node delivers frames, the source
is another station, and the Codec delivers the payload (R23, R24, R25, R29). -/
abbrev Node.hears (n : Node) (k : Kind) (h : Heard) (x : Notice) : Prop :=
  n.receives = true ∧ n.live = true ∧ h.source ≠ n.address ∧ decode k h.source h.payload = some x

/-- What every heard notice of another station does before the block that owns its kind takes it: the line is BUSY, the
party and partner silence timers restart, and the age of the source's entry restarts (R20, R52, R139, R159). -/
abbrev Node.heardFrom (n : Node) (src : Nat) : Node := ((n.lineBusy.railNote src).pairNote src).peerTouch src

/-- A notice of the queue with the payload of these fields (R26, R34). -/
abbrev noticeOf (k : Kind) (priority : Nat) (fields : List (Nat × Value)) (part : Nat := 0) : Queued :=
  { kind := k, priority := priority, part := part, payload := encodeFields fields }

/-- The position that a PRESENCE carries: of a lead from CLAIM_WAIT, of a partner from SETTLE_WAIT, up to VACATING (R164). -/
abbrev Node.statesPosition (n : Node) : Prop :=
  n.pos.phase.joining = true ∨ n.pos.phase = .inString ∨ n.pos.phase = .vacating ∨ (n.pos.phase = .claimWait ∧ n.pos.lead = true)

/-- The exchange statement of a PRESENCE, fields 9 to 13: id, role and state, other party, units held and their pool draw
(R47, R141). -/
abbrev OwnRecord.statement (o : OwnRecord) (p : Plan) : List (Nat × Value) :=
  let suspended : Bool := o.flagOwn || o.flagOther
  [(9, .num o.id),
    (10, .num (if o.initiator = true then (if suspended = true then 1 else 0) else if suspended = true then 3 else 2)),
    (11, .num o.other), (12, .num o.units), (13, .num (o.units - min o.units p.share + 1))]

/-- The fields of the node's PRESENCE by the table of R47: the statement stands in it while the node is a party under its plan,
and is omitted else (R47, R141, R164, R183). -/
abbrev Node.presenceContent (n : Node) : List (Nat × Value) :=
  [(0, .num n.pres.state.code), (1, optNum (n.pres.plan.map Plan.identity)), (2, .num n.grade.state.code),
    (3, .num n.grade.generation), (4, optFig ((n.mon.reading.bind RestReading.soc).map fun s => formFig .soc s)),
    (5, .num n.pair.state.code), (6, optNum n.pair.partner), (7, optNum (if n.statesPosition then n.pos.position else none)),
    (8, .num (if n.pair.silent = true then 1 else 0))]
  ++ (match n.rail.own, n.pres.plan with | some o, some p => o.statement p | _, _ => [])
  ++ [(14, .num (n.serv.faults.filter FaultEntry.active).length), (15, .num n.serv.lastResult)]

/-- The PRESENCE of the node as it stands, as a notice of the queue (R29, R46, R47). -/
abbrev Node.presenceQueued (n : Node) : Queued :=
  noticeOf .presence 80 n.presenceContent

/-- A level context as READOUT numbers it: state × 48 + direction × 16 + setpoint (R181). -/
abbrev Level.context (l : Level) : Nat :=
  (match l.state with | .empty => 0 | .ready => 1 | .running => 2 | .suspended => 3 | .ending => 4) * 48
    + (match l.dir with | .off => 0 | .source => 1 | .sink => 2) * 16 + l.setpoint

/-- The content of READOUT part 0, the published copy; a value not held is written as form 0 (R181). -/
abbrev Node.part0Content (n : Node) : List (Nat × Value) :=
  let r : Record := n.grade.published
  [(0, .num 0), (1, .num n.grade.generation), (2, .num r.cls.code), (3, optNum r.profile), (4, optFig r.cap), (5, optFig r.res),
    (6, optFig r.hlt), (7, optFig r.sdr), (8, optFig r.ocv), (9, optFig r.tmp)]

/-- The content of READOUT part 1: grading, the level contexts, and the own side with its exchange (R181). -/
abbrev Node.part1Content (n : Node) : List (Nat × Value) :=
  let own (f : OwnRecord → Nat) : Value := optNum (n.rail.own.map f)
  [(0, .num 1), (1, .num n.grade.state.code), (2, .num n.grade.attempts), (3, optNum n.grade.working.cells),
    (4, .num n.duty.protect.context), (5, .num n.duty.join.context), (6, .num n.duty.serve.context),
    (7, .num n.duty.test.context), (8, .num n.duty.pulse.context), (9, .num n.rail.side.code), (10, own OwnRecord.id),
    (11, own fun o => if o.initiator = true then (if o.flagOwn = true ∨ o.flagOther = true then 1 else 0)
      else if o.flagOwn = true ∨ o.flagOther = true then 3 else 2),
    (12, own OwnRecord.other), (13, own OwnRecord.units), (14, own OwnRecord.driven), (15, .num n.rail.wait)]

/-- The content of READOUT part 2: pairing, position, and the peer asked, or the partner where none is asked (R181). -/
abbrev Node.part2Content (n : Node) (asked : Option Nat) : List (Nat × Value) :=
  let address : Option Nat := if asked.isSome = true then asked else n.pair.partner
  let peer (f : Peer → Option Nat) : Value := optNum (address.bind fun a => (n.peer a).bind f)
  [(0, .num 2), (1, .num n.pair.state.code), (2, optNum n.pair.partner), (3, optNum n.pair.target), (4, optNum n.pair.barred),
    (5, optNum n.pair.lastCause), (6, .num (if n.pair.silent = true then 1 else 0)), (7, .num n.pos.phase.code),
    (8, optNum n.pos.position), (9, .num (n.pos.claims * 4 + n.pos.attempts)),
    (10, .num ((if n.pos.contactor.position = true then 2 else 0) + (if n.pos.switch.position = true then 1 else 0))),
    (11, optNum address), (12, peer Peer.planId), (13, peer fun e => e.nodeState.map NodeState.code), (14, peer Peer.heldGen),
    (15, peer fun e => e.pairState.map fun s => e.cls.code * 8 + s.code)]

/-- The content of READOUT part 3: the active and the latched fault codes, their first-seen times, active list first, and the
detail of the LIMIT entry (R181). -/
abbrev Node.part3Content (n : Node) : List (Nat × Value) :=
  let active := n.serv.faults.filter fun e => e.active
  let latched := n.serv.faults.filter fun e => !e.active
  [(0, .num 3), (1, .list (active.map fun e => e.code.number)), (2, .list (latched.map fun e => e.code.number))]
  ++ (List.range 8).map (fun i => (3 + i, optNum (((active ++ latched)[i]?).map FaultEntry.seen)))
  ++ [(11, optNum (((n.serv.faults.find? fun e => e.code == .limit).bind FaultEntry.detail).map BreachKind.number))]

/-- The transmit queue after a notice is handed: offered where the queue takes notices, lost otherwise (R26, R28). -/
abbrev Node.offered (n : Node) (q : Queued) : List Queued :=
  if n.queueOpen then offerQueue q n.line.queue else n.line.queue

/-- The node `m` at the end of a step begun at `before`: a queued PRESENCE is rebuilt where something that it is rebuilt
for has changed (R141, R145, R164, R179). -/
abbrev Node.withPresence (m before : Node) : Node := if m.mark = before.mark then m else m.rebuildPresence

/-- The entry that a report of a new fault code adds to the list: active for a condition code, latched for an event
code, first seen now (R178, R179). -/
abbrev Node.newFault (n : Node) (code : FaultCode) (detail : Option BreachKind) : FaultEntry :=
  { code := code, detail := detail, active := code.condition, seen := min 65535 (n.mon.now / 1000) }

/-- A code that is not listed, with room in the list (R178). -/
abbrev Node.faultRoom (n : Node) (code : FaultCode) : Prop :=
  (∀ e ∈ n.serv.faults, e.code ≠ code) ∧ n.serv.faults.length < 8

/-- An EMPTY or ENDING level. -/
abbrev Level.over (l : Level) : Prop := l.state = .empty ∨ l.state = .ending

/-- The pair states without a bond. -/
abbrev PairState.single (s : PairState) : Prop := s = .unpaired ∨ s = .seeking ∨ s = .proposing

/-- The rest reading that voltage `v` makes now (R67). -/
abbrev Node.readingOf (n : Node) (v : Nat) : RestReading :=
  { millivolts := v, ocv := formFig .ocv v, soc := n.profile.map fun p => socOf p v, rest := n.mon.rest, moment := n.mon.now }

/-- A sense reading held at the range lo..hi, with its saturation mark (R61). -/
abbrev heldAs (r : SenseReading) (lo hi x : Int) (mark : Bool) : Prop :=
  (∀ v, r = .value v → x = max lo (min hi v) ∧ (mark = true ↔ v < lo ∨ hi < v))
    ∧ (r = .overLow → x = lo ∧ mark = true) ∧ (r = .overHigh → x = hi ∧ mark = true)

/-- A count and residue of charge after `add` hundredths of a mAs: whole mAs are carried, and the count stays at the
limit of ±2147483647 with residue 0 (R63). -/
abbrev chargedAs (count residue add count' residue' : Int) : Prop :=
  let c := count + (residue + add).tdiv 100
  (-2147483647 ≤ c ∧ c ≤ 2147483647 → count' = c ∧ residue' = (residue + add).tmod 100)
    ∧ (2147483647 < c → count' = 2147483647 ∧ residue' = 0) ∧ (c < -2147483647 → count' = -2147483647 ∧ residue' = 0)

/-- A hard limit breach of a sample set (R69). -/
abbrev Node.breachesHard (n : Node) (x : SampleSet) : Prop :=
  x.currentSat = true ∨ x.voltageSat = true ∨ x.busSat = true ∨ x.temp1Sat = true ∨ x.temp2Sat = true
    ∨ ∃ p, n.profile = some p ∧ p.hard.int < max x.temp1 x.temp2

/-- A soft limit breach of a sample set (R69). -/
abbrev Node.breachesSoft (n : Node) (x : SampleSet) : Prop :=
  ∃ p, n.profile = some p ∧ (p.warn.int < max x.temp1 x.temp2 ∨ perCell x.voltage p.cells < p.cellMin.mag
    ∨ p.cellMax.mag < perCell x.voltage p.cells)

/-- The holder of the converter is not ramping down as an ENDING level. -/
abbrev Node.notEnding (n : Node) : Prop := ∀ i, n.duty.conv.holder = some i → (n.duty.get i).state ≠ .ending

/-- The node can offer this headroom to a NEED in this direction for this expected charge (R131). -/
abbrev Node.couldOffer (n : Node) (p : Plan) (dir : Dir) (expected hr : Fig) : Prop :=
  n.pres.state = .active ∧ n.rail.certain = true ∧ (n.rail.side = .idle ∨ n.rail.side = .waiting) ∧ n.rail.held = none
    ∧ n.rail.own = none ∧ (n.pair.state = .unpaired ∨ n.pair.state = .seeking)
    ∧ n.grade.state ≠ .restA ∧ n.grade.state ≠ .restB ∧ n.grade.state ≠ .selfRest
    ∧ hr.ge expected = true
    ∧ ∃ s, n.mon.reading.bind RestReading.soc = some s
      ∧ ∃ c, (match n.grade.published.cap with | some f => some f.mag | none => n.profile.map fun f => f.nam.mag) = some c
        ∧ ((dir = .sink ∧ hr = formQuotient .hdr (((p.serveHigh : Int) * 100 - s) * c) 10000)
          ∨ (dir = .source ∧ hr = formQuotient .hdr (((s : Int) - p.serveLow * 100) * c) 10000))

/-- The initiator has room for these units (R126). -/
abbrev Node.hasRoom (n : Node) (p : Plan) (units : Nat) : Prop :=
  n.pres.state = .active ∧ n.rail.certain = true ∧ n.rail.held = none ∧ n.rail.own = none
    ∧ n.rail.view.length < p.slots ∧ drawOf p.share units ≤ p.pool - (n.rail.view.map Exchange.draw).sum

/-- The units that a request asks: those of the request, but of a congested node of weight code 0 only its own part (R126). -/
abbrev Node.asks (n : Node) (p : Plan) (units : Nat) : Nat :=
  if p.weight n.address = 0 ∧ 0 < n.rail.wait then (if p.share = 0 then 1 else min units p.share) else units

/-- An AGREE of `src` that no node takes (R119). -/
abbrev AgreeTerms.unsound (t : AgreeTerms) (v : List Exchange) (src : Nat) : Prop :=
  (∃ e ∈ v, e.id = t.id) ∨ t.id / 16 ≠ src ∨ t.units < 1 ∨ 8 < t.units ∨ 48 < t.counterpart ∨ t.counterpart = src
    ∨ 1 < t.kind ∨ 1 < t.dir

/-- A sound AGREE of `src` that fits the view: slot, pool, pool draw, and both parties free (R119). -/
abbrev AgreeTerms.fits (t : AgreeTerms) (p : Plan) (v : List Exchange) (src : Nat) : Prop :=
  ¬t.unsound v src ∧ v.length < p.slots ∧ t.draw ≤ p.pool - (v.map Exchange.draw).sum ∧ t.draw = drawOf p.share t.units
    ∧ (∀ e ∈ v, src ≠ 0 → e.initiator ≠ src ∧ e.counterpart ≠ src)
    ∧ (∀ e ∈ v, t.counterpart ≠ 0 → e.initiator ≠ t.counterpart ∧ e.counterpart ≠ t.counterpart)

/-- One component of the mismatch score by the words of R147: 1000 × |a − b| / max(a, b) rounded half up, 0 for two zeros. -/
abbrev scorePart (a b : Nat) : Nat :=
  if a = 0 ∧ b = 0 then 0 else (roundHalfUp ((1000 * (max a b - min a b) : Nat) : Int) (max a b)).toNat

/-- The two published grades match with this score: classes A to C no further apart than the plan lets them, the same profile,
figures on both sides, and a score wQ × Sq + wR × Sr within the plan's limit (R57, R147, R155). -/
abbrev Node.matchesWith (n : Node) (p : Plan) (e : Peer) (score : Nat) : Prop :=
  (∃ c d, n.grade.published.cap = some c ∧ n.grade.published.res = some d ∧ ∃ c' d', e.cap = some c' ∧ e.res = some d'
      ∧ score = p.wQ * scorePart c.mag c'.mag + p.wR * scorePart d.mag d'.mag)
    ∧ (n.grade.published.cls = .a ∨ n.grade.published.cls = .b ∨ n.grade.published.cls = .c) ∧ (e.cls = .a ∨ e.cls = .b ∨ e.cls = .c)
    ∧ max e.cls.code n.grade.published.cls.code - min e.cls.code n.grade.published.cls.code ≤ p.classDistance
    ∧ e.profile.isSome = true ∧ e.profile = n.grade.published.profile ∧ score ≤ p.maxScore

/-- The entry of a peer that a proposal could be made to, as far as the entry tells: another node of the row and of the roster,
ACTIVE, SEEKING or PROPOSING, graded, its grade held in the generation that it announces (R57). -/
abbrev Node.wouldTake (n : Node) (p : Plan) (e : Peer) : Prop :=
  e.address ≤ p.roster ∧ (e.address - 1) / p.rowLength = (n.address - 1) / p.rowLength
    ∧ e.heldGen.isSome = true ∧ e.announced = e.heldGen ∧ e.nodeState = some .active
    ∧ (e.pairState = some .seeking ∨ e.pairState = some .proposing)
    ∧ (e.gradeState = some .graded ∨ e.gradeState = some .selfRest)

/-! ### The plan that passes its check (R40, R41) -/

/-- Item `code` is the number `v` of the range `lo`..`hi` (R40). -/
abbrev numberIs (items : List (Nat × Value)) (code lo hi v : Nat) : Prop := numAt items code = some v ∧ lo ≤ v ∧ v ≤ hi

/-- Timer item `code` is given, and `v` is its number clamped to the nearer limit of `lo`..`hi` (R41, step 2). -/
abbrev timerIs (items : List (Nat × Value)) (code lo hi v : Nat) : Prop := ∃ t, numAt items code = some t ∧ v = min hi (max lo t)

/-- Item `code` is the figure `f`. -/
abbrev figureIs (items : List (Nat × Value)) (code : Nat) (f : Fig) : Prop := standing code items = some (.fig f)

/-- The weight codes that one part gives: the nodes from its first node on, with the codes of its list (R40). -/
abbrev PlanPart.codes (x : PlanPart) : List (Nat × Nat) :=
  (((listAt x.items 6).getD []).zipIdx ((numAt x.items 5).getD 0)).map fun c => (c.2, c.1)

/-- The weight codes: each part gives a first node 1..48 and a list of codes 0..7, and each node of 1..N has one code, no
other address any (R40, R41; a part without first node or list is invalid by the model's choice, log entry 20). -/
abbrev weightsSound (ps : List PlanPart) (roster : Nat) (ws : List (Nat × Nat)) : Prop :=
  (∀ x ∈ ps, x.sect = 3 → (∃ a, numberIs x.items 5 1 48 a) ∧ ∃ l, listAt x.items 6 = some l ∧ l ≠ [])
    ∧ ws = (ps.filter fun x => x.sect == 3).flatMap PlanPart.codes
    ∧ (∀ c ∈ ws, c.1 ≤ roster ∧ c.2 ≤ 7)
    ∧ ∀ a, 1 ≤ a → a ≤ roster → (ws.filter fun c => c.1 == a).length = 1

/-- A profile by its limits and points sections: all items given, cells 1..32, NAM above zero, eleven points that rise strictly,
cell minimum below maximum, temperature warn not above hard (R40, R41). -/
abbrev profileSound (limits points : List (Nat × Value)) (f : Profile) : Prop :=
  numberIs limits 5 1 32 f.cells ∧ figureIs limits 6 f.nam ∧ figureIs limits 7 f.cellMin ∧ figureIs limits 8 f.cellMax
    ∧ figureIs limits 9 f.warn ∧ figureIs limits 10 f.hard ∧ f.nam.mag ≠ 0 ∧ f.cellMin.mag < f.cellMax.mag ∧ f.warn.int ≤ f.hard.int
    ∧ (List.range 11).map (fun k => standing (5 + k) points) = f.points.map (fun g => some (.fig g))
    ∧ f.points.Pairwise (fun g g' => g.mag < g'.mag)

/-- The four profiles: one whose limits or points section is given is present and sound, any other absent, and one at least is
present (R40, R41). -/
abbrev profilesSound (ps : List PlanPart) (fs : List (Option Profile)) : Prop :=
  fs.length = 4 ∧ (∃ f, some f ∈ fs)
    ∧ ∀ i, i < 4 →
      ((∀ x ∈ ps, x.sect ≠ 4 + i ∧ x.sect ≠ 8 + i) → fs[i]? = some none)
      ∧ ((∃ x ∈ ps, x.sect = 4 + i ∨ x.sect = 8 + i) →
          ∃ f, fs[i]? = some (some f) ∧ profileSound (itemsOf ps (4 + i)) (itemsOf ps (8 + i)) f)

/-- A chain by its section: three lists of its length, at most 6, each entry within its values, and a limit for each
criterion, brought to the criterion's kind (R40, R41; a list that is not given, or carried as "not known", is empty by the model's
choice, log entry 20). -/
abbrev chainSound (items : List (Nat × Value)) (chain : List Criterion) : Prop :=
  let entries (code : Nat) : List Nat := (listAt items code).getD []
  chain.length ≤ 6 ∧ (entries 5).length = chain.length ∧ (entries 6).length = chain.length ∧ (entries 7).length = chain.length
    ∧ ∀ i x, chain[i]? = some x →
      (∃ k, (entries 5)[i]? = some k ∧ 1 ≤ k ∧ [FigKind.cap, .res, .hlt, .sdr, .ocv, .tmp][k - 1]? = some x.kind)
      ∧ (entries 6)[i]? = some (if x.atLeast = true then 0 else 1)
      ∧ (∃ k, (entries 7)[i]? = some k ∧ [ChainOp.load, .and, .or, .andNot, .orNot][k]? = some x.op)
      ∧ ∃ limit, figureIs items (8 + i) limit ∧ x.limit = rescale x.kind limit

/-- The complete parts `ps` of a plan pass steps 1 and 2 of R41, and `plan` is the plan that they make: sections 0 to 14; no item of
a section but the weight codes twice; the items of sections 0 and 1 in their ranges; room of 2 units beside the
dedicated shares; weight codes, profiles and chains sound; the timers given, but for the presence period, and clamped (R40, R41).
An item carried as "not known" counts as given by its part (the model's choice, log entry 20). -/
structure PlanSound (identity : Nat) (ps : List PlanPart) (plan : Plan) : Prop where
  identity_eq : plan.identity = identity
  sections : ∀ x ∈ ps, x.sect ≤ 14
  itemsOnce : ∀ s, s ≤ 14 → s ≠ 3 → ((itemsOf ps s).map Prod.fst).Nodup
  roster : numberIs (itemsOf ps 0) 5 1 48 plan.roster
  rowLength : numberIs (itemsOf ps 0) 6 2 16 plan.rowLength ∧ plan.rowLength % 2 = 0
  capacity : numberIs (itemsOf ps 0) 7 8 96 plan.capacity
  share : numberIs (itemsOf ps 0) 8 0 4 plan.share
  slots : numberIs (itemsOf ps 0) 9 2 16 plan.slots
  offerCount : numberIs (itemsOf ps 0) 10 0 4 plan.offerCount ∧ plan.offerCount ≠ 3
  testDepth : numberIs (itemsOf ps 0) 11 20 60 plan.testDepth
  testUnits : numberIs (itemsOf ps 0) 12 1 8 plan.testUnits
  pulseCurrent : numberIs (itemsOf ps 0) 13 2 10 plan.pulseCurrent
  classDistance : numberIs (itemsOf ps 0) 14 0 1 plan.classDistance
  joinWindow : numberIs (itemsOf ps 1) 5 20 500 plan.joinWindow
  joinMax : numberIs (itemsOf ps 1) 6 1 8 plan.joinMax
  releaseFraction : numberIs (itemsOf ps 1) 7 0 75 plan.releaseFraction ∧ plan.releaseFraction % 25 = 0
  serveLow : numberIs (itemsOf ps 1) 8 10 40 plan.serveLow
  serveHigh : numberIs (itemsOf ps 1) 9 60 90 plan.serveHigh
  wQ : numberIs (itemsOf ps 1) 10 0 15 plan.wQ
  wR : numberIs (itemsOf ps 1) 11 0 15 plan.wR
  maxScore : numberIs (itemsOf ps 1) 12 0 30000 plan.maxScore
  room : plan.roster * plan.share + 2 ≤ plan.capacity
  presencePeriod : timerIs (itemsOf ps 2) 5 200 2000 plan.presencePeriod
    ∨ (numAt (itemsOf ps 2) 5 = none ∧ plan.presencePeriod = 500)
  lifetimeCount : timerIs (itemsOf ps 2) 6 3 10 plan.lifetimeCount
  offerWindow : timerIs (itemsOf ps 2) 7 20 500 plan.offerWindow
  proposalPeriod : timerIs (itemsOf ps 2) 8 1 10 plan.proposalPeriod
  quietWindow : timerIs (itemsOf ps 2) 9 200 2000 plan.quietWindow
  suspendHold : timerIs (itemsOf ps 2) 10 1 30 plan.suspendHold
  restTime : timerIs (itemsOf ps 2) 11 10 60 plan.restTime
  selfRest : timerIs (itemsOf ps 2) 12 24 168 plan.selfRest
  joinSettle : timerIs (itemsOf ps 2) 13 10 120 plan.joinSettle
  weights : weightsSound ps plan.roster plan.weights
  profiles : profilesSound ps plan.profiles
  chainA : chainSound (itemsOf ps 12) plan.chainA
  chainB : chainSound (itemsOf ps 13) plan.chainB
  chainC : chainSound (itemsOf ps 14) plan.chainC

/-- A chain's verdict by the words of R109: the first criterion sets it, each later one combines with it. -/
def verdictFrom (r : Record) (v : Bool) : List Criterion → Bool
  | [] => v
  | c :: cs =>
    verdictFrom r (match c.op with
      | .load => c.value r
      | .and => v && c.value r
      | .or => v || c.value r
      | .andNot => v && !(c.value r)
      | .orNot => v || !(c.value r)) cs

end Sys2Proof.Machine
end

