-- ==== Sys2Proof/Certificates/Slice0/Obligations.lean ====
section
/-! DEFINITION. The statements for the provers about the VG48: what each command does to the node and what it leaves
alone, the laws of the device that every command keeps, and the line's codes. `n` is the node before the command. -/

open Sys2Proof Sys2Proof.Machine

/-! ### The machine and its reset -/

/-- The step takes the command at the front of the queue and runs it with the queue's rest. On an empty queue it idles
(the model's choice, log entry 2). -/
def Obligations.StepRunsFrontCommand : Prop :=
  (∀ (c : Instr) (rest : List Instr) (s : State), step { s with pending := c :: rest } = exec c { s with pending := rest })
    ∧ ∀ s : State, s.pending = [] → step s = .next s

/-- No command faults or is refused, none touches the waiting commands, and each leaves a settled node (R45, R101, R136). -/
def Obligations.EveryCommandSettles : Prop :=
  ∀ (c : Instr) (s : State), ∃ m : Node, exec c s = .next { s with node := m } ∧ m.Settled

/-- The reset state listens at the model's strap value (log entry 4), waits for no command and keeps every law. -/
def Obligations.ResetKeepsLaws : Prop :=
  State.reset.pending = [] ∧ State.reset.node.pres.address = 1 ∧ State.reset.node.pres.state = .listen
    ∧ State.reset.node.pres.listenTimer = some 1500 ∧ State.reset.node.pres.plan = none
    ∧ State.reset.node.QueueLaw ∧ State.reset.node.PeerLaw ∧ State.reset.node.RailLaw ∧ State.reset.node.SetpointLaw ∧ State.reset.node.ProtectLaw
    ∧ State.reset.node.FaultLaw ∧ State.reset.node.ContactorLaw ∧ State.reset.node.PairLaw ∧ State.reset.node.SilenceLaw ∧ State.reset.node.Settled
    ∧ State.reset.node.AddressLaw ∧ State.reset.node.AssemblyLaw ∧ State.reset.node.TestLaw

/-- POWER_ON_RESET puts every block into its power-on state, whatever it was before: registers, tables, records, counts and timers
(R20, R22, R28, R35, R36, R60, R74, R75, R77, R116, R144, R163, R177, R184). The latest sample set, which R74 has taken 10 ms later, and
the role and step fields that no bond has set are the model's choices (log entries 5, 57), and the statement leaves them open. -/
def Obligations.PowerOnResetClearsNode : Prop :=
  ∀ (straps : BitVec 6) (tag : TagReading) (n : Node) (w : List Instr), ∃ m : Node,
    exec (.powerOnReset straps tag) ⟨n, w⟩ = .next ⟨m, w⟩
      ∧ m.pres.address = straps.toNat ∧ m.pres.plan = none ∧ m.pres.assembly = none ∧ m.pres.holdFlag = false
      ∧ m.pres.presenceTimer = none ∧ m.pres.quietTimer = none
      ∧ (1 ≤ straps.toNat ∧ straps.toNat ≤ 48 →
          m.pres.state = .listen ∧ m.pres.listenTimer = some 1500 ∧ m.serv.faults = [])
      ∧ (¬(1 ≤ straps.toNat ∧ straps.toNat ≤ 48) →
          m.pres.state = .strapFault ∧ m.pres.listenTimer = none ∧ m.serv.faults.map FaultEntry.code = [.strap]
            ∧ ∀ e ∈ m.serv.faults, e.active = true)
      ∧ m.line.state = .settling ∧ m.line.queue = [] ∧ m.line.sending = none ∧ m.line.abandons = 0
      ∧ m.peers.entries = [] ∧ m.peers.cands = [] ∧ m.peers.stopped = none
      ∧ m.mon.counter = { count := 0, residue := 0, running := false, saturated := false }
      ∧ m.mon.rest = 0 ∧ m.mon.watchGrade = none ∧ m.mon.watchPosition = none ∧ m.mon.reading = none
      ∧ m.mon.tag = tag ∧ m.mon.tagState = (if tag.present then .pending else .absent) ∧ m.mon.limit = .clear ∧ m.mon.clearTimer = none
      ∧ (∀ i : LevelId, (m.duty.get i).state = .empty ∧ (m.duty.get i).dir = .off ∧ (m.duty.get i).setpoint = 0
          ∧ (m.duty.get i).charge = 0 ∧ (m.duty.get i).residue = 0 ∧ (m.duty.get i).elapsed = 0
          ∧ (m.duty.get i).target = none ∧ (m.duty.get i).bound = none ∧ (m.duty.get i).limit = none
          ∧ (m.duty.get i).exchange = none ∧ (m.duty.get i).other = none ∧ (m.duty.get i).heldHere = false
          ∧ (m.duty.get i).heldThere = false ∧ (m.duty.get i).resumeOut = false ∧ (m.duty.get i).cause = none
          ∧ m.duty.kept i = none)
      ∧ m.duty.conv = { setpoint := 0, actual := 0, path := .open, holder := none }
      ∧ (let cleared : Record :=
          { cls := .none, profile := none, cells := none, cap := none, res := none, hlt := none, sdr := none, ocv := none,
            tmp := none, attempts := 0 }
        m.grade = { state := .ungraded, attempts := 0, readingA := none, readingB := none, restStart := none, working := cleared,
                    published := cleared, generation := 0, repeatTimer := none })
      ∧ m.rail.view = [] ∧ m.rail.certain = false ∧ m.rail.side = .idle ∧ m.rail.own = none ∧ m.rail.request = none
      ∧ m.rail.held = none ∧ m.rail.wait = 0 ∧ m.rail.serial = 0 ∧ m.rail.current = none ∧ m.rail.offers = [] ∧ m.rail.repeats = []
      ∧ m.rail.testOrdinary = none ∧ m.rail.certainTimer = none ∧ m.rail.needTimer = none ∧ m.rail.windowTimer = none
      ∧ m.rail.retryTimer = none ∧ m.rail.agreeTimer = none ∧ m.rail.heldTimer = none ∧ m.rail.startTimer = none
      ∧ m.rail.suspendTimer = none ∧ m.rail.silenceTimer = none
      ∧ m.pair.state = .unpaired ∧ m.pair.partner = none ∧ m.pair.proposed = none ∧ m.pair.target = none ∧ m.pair.barred = none
      ∧ m.pair.silent = false ∧ m.pair.proposalTimer = none ∧ m.pair.silenceTimer = none ∧ m.pair.barTimer = none
      ∧ m.pair.lastCause = none
      ∧ m.pos.phase = .none ∧ m.pos.view = none ∧ m.pos.partner = none ∧ m.pos.position = none ∧ m.pos.claims = 0
      ∧ m.pos.attempts = 0 ∧ m.pos.claimed = none ∧ m.pos.ownReport = none ∧ m.pos.partnerReport = none ∧ m.pos.repeats = []
      ∧ m.pos.contactor = { drive := false, position := false, timer := none }
      ∧ m.pos.switch = { drive := false, position := false, timer := none } ∧ m.pos.engageLine = false
      ∧ m.pos.windowTimer = none ∧ m.pos.engageTimer = none ∧ m.pos.leaveTimer = none ∧ m.pos.liveTimer = none
      ∧ m.serv.lastResult = 0

/-! ### The line (R20-R28) -/

/-- LINE_FREE leads to FREE, and FRAME_START takes the head of the queue into transmission, in UNPLANNED, ACTIVE and HOLD alone.
ARBITRATION_LOST returns the frame: discarded behind a newer notice of its kind, ahead of its equals where there is room, and
offered anew where the queue is full (R20, R21, R26, R27). -/
def Obligations.FramesLeaveAndReturn : Prop :=
  ∀ (n : Node) (w : List Instr), n.Settled →
    ((n.line.state = .settling ∨ n.line.state = .busy) →
      exec .lineFree ⟨n, w⟩ = .next ⟨{ n with line := { n.line with state := .free } }, w⟩)
    ∧ (∀ (q : Queued) (qs : List Queued), n.line.queue = q :: qs → n.line.state = .free →
        (n.pres.state = .unplanned ∨ n.pres.state = .active ∨ n.pres.state = .hold) →
        exec .frameStart ⟨n, w⟩ = .next ⟨{ n with line := { n.line with state := .sending, queue := qs, sending := some q } }, w⟩)
    ∧ ((n.pres.state = .listen ∨ n.pres.state = .quiet ∨ n.pres.state = .strapFault ∨ n.pres.state = .clashed) →
        exec .frameStart ⟨n, w⟩ = .next ⟨n, w⟩)
    ∧ (∀ q : Queued, n.line.sending = some q → n.line.state = .sending →
        ∃ m : Node, exec .arbitrationLost ⟨n, w⟩ = .next ⟨m, w⟩
          ∧ m = { n with line := { n.line with state := .busy, sending := none, queue := m.line.queue } }
          ∧ ((∃ x ∈ n.line.queue, q.replaces x = true) → m.line.queue = n.line.queue)
          ∧ ((∀ x ∈ n.line.queue, q.replaces x = false) → n.line.queue.length < 8 →
              m.line.queue = n.line.queue.takeWhile (fun x => decide (q.priority < x.priority)) ++ q
                :: n.line.queue.dropWhile (fun x => decide (q.priority < x.priority)))
          ∧ ((∀ x ∈ n.line.queue, q.replaces x = false) → 8 ≤ n.line.queue.length → ∀ x, n.line.queue.getLast? = some x →
              (x.priority < q.priority →
                m.line.queue = n.line.queue.dropLast.takeWhile (fun y => decide (q.priority ≤ y.priority)) ++ q
                  :: n.line.queue.dropLast.dropWhile (fun y => decide (q.priority ≤ y.priority)))
              ∧ (q.priority ≤ x.priority → m.line.queue = n.line.queue)))

/-- FRAME_ABANDONED raises the abandon count; the eighth takes the node to QUIET with an empty queue, the quiet timer and the
fault LINE QUIET, and leaves plan, levels, measurement and position alone (R22, R28, R44). -/
def Obligations.FrameAbandonedCountsToQuiet : Prop :=
  ∀ (n : Node) (w : List Instr) (q : Queued), n.Settled → n.line.state = .sending → n.line.sending = some q →
    (n.line.abandons < 7 →
      exec .frameAbandoned ⟨n, w⟩ = .next ⟨{ n with
        line := { n.line with state := .busy, sending := none, abandons := n.line.abandons + 1 } }, w⟩)
    ∧ (n.line.abandons = 7 →
        (n.pres.state = .unplanned ∨ n.pres.state = .active ∨ n.pres.state = .hold) →
        ∃ m : Node, exec .frameAbandoned ⟨n, w⟩ = .next ⟨m, w⟩
          ∧ m.pres = { n.pres with
              state := .quiet, listenTimer := none, presenceTimer := none, quietTimer := some (n.mon.now + 2000) }
          ∧ m.line = { n.line with state := .busy, sending := none, queue := [], abandons := 8 }
          ∧ (n.faultRoom .lineQuiet → m.serv.faults = n.serv.faults ++ [n.newFault .lineQuiet none])
          ∧ m.rail = { n.rail with held := none, heldTimer := none }
          ∧ ((n.pair.state = .seeking ∨ n.pair.state = .proposing) → m.pair.state = .unpaired)
          ∧ m.mon = n.mon ∧ m.duty = n.duty ∧ m.pos = n.pos ∧ m.peers.entries = n.peers.entries)

/-- FRAME_COMPLETE_CLEAN ends the transmission with the abandon count 0, and the node hears its own frame (R22, R24): its NEED opens
the offer window (R129); its AGREE makes it a party, is declined, or is void, when a request tests for room anew with the wait count
raised (R119, R126, R132, R134); its RELEASE, SUSPEND and RESUME act on its exchange and level, a later request held beside the
exchange going on (R85, R86, R120, R121, R135, R136, R138; which request ends with the exchange is the model's reading, log entry
12); its BIND binds, fails or is answered (R151); its CLAIM is won, void or late (R168, R169); its settled report leads to the check
(R170); its ENGAGE steps 1 and 2 are repeated no more and step 3 joins it (R164, R173); its VACATE aborts, asks on or ends the leave
(R164, R174, R175); and its CLAIM, ENGAGE and VACATE move its record in the row view (R166). -/
def Obligations.FrameCompleteCleanIsHeard : Prop :=
  ∀ (n : Node) (w : List Instr) (q : Queued), n.Settled → n.AddressLaw → n.PairLaw →
    n.line.state = .sending → n.line.sending = some q →
    let own (k : Kind) (x : Notice) : Prop := n.live = true ∧ q.kind = k ∧ decode k n.address q.payload = some x
    let at1000 : Nat := n.mon.now + 1000
    ∃ m : Node, exec .frameCompleteClean ⟨n, w⟩ = .next ⟨m, w⟩
      ∧ m.line.state = .busy ∧ m.line.sending = none ∧ m.line.abandons = 0 ∧ m.line.cleanDue = false ∧ m.pres = n.pres
      ∧ ((q.kind = .readout ∨ q.kind = .fault ∨ q.kind = .grade) →
          m.serv = (if n.line.cleanDue then
              { n.serv with faults := n.serv.faults.map fun e => if e.code = .lineQuiet then { e with active := false } else e }
            else n.serv)
          ∧ m.mon = n.mon ∧ m.duty = n.duty ∧ m.grade = n.grade ∧ m.peers = n.peers ∧ m.pos = n.pos)
      ∧ (∀ (id dir units : Nat) (e : Fig), own .need (.need id dir units e) →
          ∀ p, n.pres.plan = some p → n.rail.side = .needing → n.rail.current = some id →
          m.rail.side = .window ∧ m.rail.offers = [] ∧ m.rail.needTimer = none
            ∧ m.rail.windowTimer = some (n.mon.now + p.offerWindow) ∧ m.rail.current = some id)
      ∧ (∀ t : AgreeTerms, own .agree (.agree t.id t.counterpart t.kind t.dir t.units t.draw t.expected) →
          ∀ p, n.pres.plan = some p →
          let mine : Prop := n.rail.side = .agreeing ∧ n.rail.current = some t.id
          (t.fits p n.rail.view n.address →
            m.rail.wait = 0
            ∧ (∀ e, e ∈ m.rail.view ↔ e ∈ n.rail.view ∨
                e = { id := t.id, initiator := n.address, counterpart := t.counterpart, units := t.units, draw := t.draw, suspended := false })
            ∧ (mine →
                let party : OwnRecord :=
                  { id := t.id, initiator := true, other := t.counterpart, join := t.kind == 1, dir := n.rail.dir, units := t.units,
                    driven := t.units, original := t.units, flagOwn := false, flagOther := false, headroom := 0, released := false,
                    dropped := false }
                m.rail.side = .starting ∧ m.rail.own = some party
                  ∧ m.rail.startTimer = some (n.mon.now + 50) ∧ m.rail.silenceTimer = some (n.mon.now + 2 * p.presencePeriod))
            ∧ (¬mine → m.rail.own = n.rail.own ∧ (.release t.id 0 4, at1000) ∈ m.rail.repeats))
          ∧ (¬t.unsound n.rail.view n.address → ¬t.fits p n.rail.view n.address →
              m.rail.view = n.rail.view ∧ m.rail.own = n.rail.own ∧ m.rail.wait = min 255 (n.rail.wait + 1)
                ∧ (mine → n.rail.request = none → m.rail.side = .waiting ∧ m.rail.current = none)
                ∧ (mine → ∀ r, n.rail.request = some r →
                    let k : Nat := if p.weight n.address = 0 then (if p.share = 0 then 1 else min r.units p.share) else r.units
                    let next : Option Nat := some (n.address * 16 + n.rail.serial)
                    (n.rail.retryTimer.isSome = true ∨ ¬n.hasRoom p k → m.rail.side = .waiting ∧ m.rail.current = none)
                    ∧ (n.rail.retryTimer = none → n.hasRoom p k →
                        (r.isTest = true → m.rail.side = .needing ∧ m.rail.current = next ∧ m.rail.asked = k)
                        ∧ (r.isTest = false → n.pair.partner.isSome = true →
                            m.rail.side = .agreeing ∧ m.rail.current = next ∧ m.rail.asked = k)))))
      ∧ (∀ id units cause : Nat, own .release (.release id units cause) → ∀ p, n.pres.plan = some p →
          (∃ e ∈ n.rail.view, e.id = id ∧ (e.initiator = n.address ∨ e.counterpart = n.address)) → (n.rail.view.map Exchange.id).Nodup →
          (∀ z ∈ m.rail.repeats, z.1 ≠ .release id units cause)
          ∧ (units = 0 → m.rail.view = n.rail.view.filter (fun e => e.id != id)
              ∧ ∀ o, n.rail.own = some o → o.id = id →
                  let spent : Prop := o.initiator = true ∧ o.dropped = false ∧ (o.join = true ∨ n.rail.side = .party)
                  m.rail.own = none ∧ m.rail.side ≠ .party ∧ m.rail.side ≠ .starting
                  ∧ (¬spent → n.rail.testing = true → m.rail.testing = true ∧ m.rail.side ≠ .idle)
                  ∧ (spent → n.notEnding → m.rail.request = none ∧ m.rail.side = .idle)
                  ∧ (o.join = true → o.dropped = false → n.pos.phase = .transfer → n.pos.attempts < 2 →
                      m.pos.phase = .settleWait ∧ m.pos.attempts = n.pos.attempts + (if cause = 0 then 0 else 1)
                        ∧ m.mon.watchPosition = some { duration := p.joinSettle * 1000, sampled := false }))
          ∧ (0 < units → (∀ o, n.rail.own = some o → o.other ≠ n.address → m.rail.own = some o)
              ∧ m.rail.view = n.rail.view.map (fun e =>
                if e.id = id ∧ units < e.units then { e with units := units, draw := units - min units p.share + 1 } else e)))
      ∧ (∀ (id : Nat) (o : OwnRecord), n.rail.own = some o → o.id = id →
          (∃ e ∈ n.rail.view, e.id = id ∧ (e.initiator = n.address ∨ e.counterpart = n.address)) →
          (own .suspend (.suspend id) → ∀ p, n.pres.plan = some p →
            m.rail.own = some { o with flagOwn := true } ∧ m.rail.suspendTimer = some (n.mon.now + p.suspendHold * 1000)
              ∧ m.duty = n.duty)
          ∧ (own .resume (.resume id) → n.notEnding →
              m.rail.own = some { o with flagOwn := false }
              ∧ m.rail.suspendTimer = (if o.flagOther = true then n.rail.suspendTimer else none)
              ∧ (n.rail.side = .party → (n.duty.get o.level).state = .suspended →
                  (m.duty.get o.level).resumeOut = false
                  ∧ ((n.duty.get o.level).heldHere = false → (n.duty.get o.level).heldThere = false →
                      (m.duty.get o.level).state = .ready ∨ (m.duty.get o.level).state = .running)
                  ∧ ((n.duty.get o.level).heldHere = true ∨ (n.duty.get o.level).heldThere = true →
                      (m.duty.get o.level).state = .suspended))))
      ∧ (∀ x : Nat, own .bind (.bind x) →
          let proposed : Prop := n.pair.state = .proposing ∧ n.pair.proposed = some x
          (proposed → n.bondTest x = true → n.grade.state = .graded →
            (x < n.address → m.pair.state = .bound ∧ m.pair.partner = some x ∧ m.pair.proposed = none
              ∧ m.pair.proposalTimer = none ∧ m.pos.phase = .bonded ∧ m.pos.lead = false ∧ m.pos.partner = some x
              ∧ m.pos.position = none)
            ∧ (n.address < x → n.pres.state = .active → ∀ v, n.pos.view = some v → ∀ k, lowestFree 1 v = some k →
                m.pair.state = .bound ∧ m.pair.partner = some x ∧ m.pos.phase = .claiming ∧ m.pos.lead = true
                  ∧ m.pos.claims = 1 ∧ m.pos.claimed = some k ∧ (.claim k x, at1000) ∈ m.pos.repeats))
          ∧ (proposed → n.bondTest x = false → m.pair.state.single ∧ m.pair.lastCause = some 2)
          ∧ (¬proposed → n.pair.partner = some x → x ≠ n.address → m.pair = n.pair)
          ∧ (¬proposed → n.pair.partner ≠ some x → n.pair.partner ≠ some n.address → n.line.cleanDue = false →
              m.pair = n.pair ∧ m.line.queue = n.offered (noticeOf .unbind 142 [(0, .num x), (1, .num 0)])))
      ∧ (∀ k y : Nat, own .claim (.claim k y) → ∀ v, n.pos.view = some v → ∀ r, recordAt v k = some r →
          n.ownRow n.address = true → n.ownRow y = true → n.address < y →
          let mine : Prop := n.pos.phase = .claiming ∧ n.pos.claimed = some k ∧ n.pos.partner = some y
          let recorded : Prop := r.state = .free ∨ r.couple = some (n.address, y)
          (r.couple = some (n.address, y) → m.pos.view = some v)
          ∧ (r.couple ≠ some (n.address, y) → ∃ v' : List PosRecord, m.pos.view = some v' ∧ v'.length = v.length
              ∧ (∀ j, j ≠ k → recordAt v' j = (recordAt v j).map fun x =>
                  if x.lead = some n.address then { state := .free, couple := none } else x)
              ∧ recordAt v' k = some (if r.state = .free then { state := .claimed, couple := some (n.address, y) } else r))
          ∧ (recorded → mine → ∀ p, n.pres.plan = some p →
            m.pos.phase = .claimWait ∧ m.pos.position = some k ∧ m.pos.windowTimer = some (n.mon.now + p.quietWindow) ∧ m.pos.repeats = [])
          ∧ (recorded → ¬mine → ¬(n.pos.position = some k ∧ n.pos.partner = some y) → (.vacate k 3 6, at1000) ∈ m.pos.repeats)
          ∧ (¬recorded → mine → n.pos.claims < 3 → n.pres.state = .active →
              ∀ v', m.pos.view = some v' → ∀ j, lowestFree 1 v' = some j →
              m.pos.phase = .claiming ∧ m.pos.claimed = some j ∧ m.pos.claims = n.pos.claims + 1 ∧ (.claim j y, at1000) ∈ m.pos.repeats)
          ∧ (¬recorded → mine → 3 ≤ n.pos.claims → n.pair.state = .bound → n.pair.partner.isSome = true →
              m.pair.partner = none ∧ m.pair.state.single ∧ m.pair.lastCause = some 4))
      ∧ (∀ v, n.pos.view = some v → n.ownRow n.address = true → n.pos.partner ≠ some n.address → ∀ k : Nat,
          let moved (f : PosRecord → PosRecord) (v' : List PosRecord) : Prop :=
            v'.length = v.length ∧ (∀ j, j ≠ k → recordAt v' j = recordAt v j)
              ∧ ∀ r, recordAt v k = some r → recordAt v' k = some (f r)
          (∀ (step : Nat) (soc volt : Option Fig), own .engage (.engage k step soc volt) →
            ∃ v', m.pos.view = some v'
              ∧ moved (fun r => if r.lead = some n.address ∧ step = 1 ∧ r.state = .claimed then { r with state := .engaging }
                  else if r.lead = some n.address ∧ step = 3 ∧ r.state = .engaging then { r with state := .engaged } else r) v'
              ∧ (step = 1 ∨ step = 2 → volt = none → soc = none →
                  m.pos = { n.pos with view := some v', repeats := n.pos.repeats.filter fun z => z.1 != .engage k step none }))
          ∧ (∀ step reason : Nat, own .vacate (.vacate k step reason) →
              ∃ v', m.pos.view = some v'
                ∧ moved (fun r => if step = 3 ∧ r.lead = some n.address then { state := .free, couple := none }
                    else if r.member n.address = true ∧ step = 0 ∧ reason ≤ 2 ∧ r.state = .engaging then { r with state := .claimed }
                    else if r.member n.address = true ∧ step = 1 ∧ (r.state = .engaging ∨ r.state = .engaged) then
                      { r with state := .leaving }
                    else r) v'))
      ∧ (∀ v, n.pos.view = some v → n.ownRow n.address = true → ∀ k, n.pos.position = some k →
          (∀ s : Fig, own .engage (.engage k 0 (some s) none) → n.pos.phase.joining = true →
            (n.pos.phase ≠ .reported ∨ n.pos.partnerReport = none → m.pos.ownReport = some s.mag ∧ m.pos.phase = n.pos.phase)
            ∧ (∀ p, n.pres.plan = some p → ∀ f, n.profile = some f → ∀ b, n.pos.partnerReport = some b → n.pos.phase = .reported →
                let dv : Int := (voltageOf f s.mag : Int) - voltageOf f b
                m.pos.ownReport = none ∧ m.pos.partnerReport = none
                ∧ (dv.natAbs ≤ p.joinWindow → n.pres.state ≠ .active → m.pos.phase = .settleWait)
                ∧ (dv.natAbs ≤ p.joinWindow → n.pres.state = .active →
                    m.pos.phase = .engaging
                    ∧ (n.pos.lead = true → m.pos.contactor.drive = true ∧ m.pos.engageTimer = some (n.mon.now + 2000))
                    ∧ (n.pos.lead = false → m.pos.contactor = n.pos.contactor ∧ m.pos.engageTimer = some (n.mon.now + 3000)))
                ∧ (p.joinWindow < dv.natAbs → n.pos.firstCheck = true ∨ n.pos.attempts < 2 →
                    m.pos.phase = .transfer ∧ m.pos.attempts = n.pos.attempts + (if n.pos.firstCheck = true then 0 else 1)
                    ∧ (0 < dv → m.rail.request = some (.join (min p.joinMax (1 + dv.natAbs / 100))))
                    ∧ (dv < 0 → m.rail.request = n.rail.request))))
          ∧ (own .engage (.engage k 3 none none) → n.pos.lead = true → n.pos.phase = .engaging →
              m.pos.phase = .inString ∧ m.pos.engageTimer = none ∧ m.pos.contactor = n.pos.contactor
                ∧ (n.pair.state = .joining → m.pair.state = .joined ∧ m.pair.partner = n.pair.partner
                    ∧ ∀ p, n.pres.plan = some p → m.pair.silenceTimer = some (n.mon.now + p.lifetimeCount * p.presencePeriod)))
          ∧ (∀ step reason : Nat, own .vacate (.vacate k step reason) → n.pos.partner ≠ some n.address →
              (step ≠ 0 ∨ reason ≤ 2 → ∀ z ∈ m.pos.repeats, z.1 ≠ .vacate k step reason)
              ∧ (step = 0 → 3 ≤ reason → m.pos.repeats = n.pos.repeats ∧ m.pos.phase = n.pos.phase)
              ∧ (step = 0 → reason ≤ 2 → n.pos.phase = .engaging →
                  m.pos.contactor.drive = false
                  ∧ (n.pos.lead = true → m.pos.engageLine = false ∧ m.pos.switch.drive = false)
                  ∧ (∀ p, n.pres.plan = some p → n.pos.attempts < 2 →
                      m.pos.phase = .settleWait ∧ m.pos.attempts = n.pos.attempts + 1 ∧ m.pos.engageTimer = none))
              ∧ (step = 3 → n.pos.lead = true → n.pos.phase = .vacating →
                  m.pos.phase = .none ∧ m.pos.position = none ∧ m.pos.contactor.drive = false
                  ∧ (n.pair.state = .leaving → n.pair.partner.isSome = true → m.pair.partner = none ∧ m.pair.state.single))))

/-- RECEIVE_ERROR makes the rail view uncertain and withdraws an offer held; SILENT_DISCARD of an unknown kind or an impossible
source, or of a sound frame of another station whose notice the Codec discards, does nothing but hold the line BUSY (R23, R29,
R32, R33, R124, R131). That a SILENT_DISCARD of a frame that is delivered is no such event is the model's choice (log entry 8). -/
def Obligations.ReceiveErrorAndSilentDiscard : Prop :=
  ∀ (n : Node) (w : List Instr) (f : RawFrame), n.Settled → n.receives = true →
    (verdictOf f = .error → n.live = true →
      exec (.receiveError f) ⟨n, w⟩ = .next ⟨{ n with
        line := { n.line with state := .busy },
        rail := { n.rail with
          certain := false, heardSince := [], held := none, heldTimer := none,
          certainTimer := n.pres.plan.map fun p => n.mon.now + p.lifetimeCount * p.presencePeriod } }, w⟩)
    ∧ (verdictOf f = .error → n.live = false →
        exec (.receiveError f) ⟨n, w⟩ = .next ⟨{ n with line := { n.line with state := .busy } }, w⟩)
    ∧ (verdictOf f = .silent →
        exec (.silentDiscard f) ⟨n, w⟩ = .next ⟨{ n with line := { n.line with state := .busy } }, w⟩)
    ∧ (∀ k src, verdictOf f = .heard k src → src ≠ n.address →
        (decode k src f.payload = none →
          exec (.silentDiscard f) ⟨n, w⟩ = .next ⟨{ n with line := { n.line with state := .busy } }, w⟩)
        ∧ (n.live = true → (decode k src f.payload).isSome = true → exec (.silentDiscard f) ⟨n, w⟩ = .next ⟨n, w⟩))

/-- A frame of the node's own address, heard and not its own, is an address clash whatever it carries, a notice that the Codec
discards included: CLASHED, an empty queue, the fault, the converter at zero and the exchange levels ended, the ages of the peer
table stopped, the contactor and the position record as they stood (R25, R28, R45, R54, R91, R144). -/
def Obligations.AddressClashStopsNode : Prop :=
  ∀ (n : Node) (w : List Instr) (h : Heard) (c : Instr), n.Settled → n.ProtectLaw → n.receives = true → n.live = true →
    h.source = n.address →
    (c ∈ [Instr.plan h, .presence h, .grade h, .readout h, .fault h, .need h, .offer h, .agree h, .release h, .suspend h, .resume h,
        .propose h, .bind h, .unbind h, .claim h, .engage h, .vacate h, .query h, .regrade h, .directiveRelease h, .hold h,
        .resumeNode h, .clearFaults h, .directiveUnknownKind h]
      ∨ ∃ f k, verdictOf f = .heard k h.source ∧ c = .silentDiscard f) →
    ∃ m : Node, exec c ⟨n, w⟩ = .next ⟨m, w⟩
      ∧ m.pres = { n.pres with state := .clashed, listenTimer := none, presenceTimer := none, quietTimer := none }
      ∧ m.line = { n.line with state := .busy, queue := [], sending := none }
      ∧ (n.faultRoom .addressClash → m.serv.faults = n.serv.faults ++ [n.newFault .addressClash none])
      ∧ m.duty.conv.setpoint = 0 ∧ m.duty.join.over ∧ m.duty.serve.over ∧ m.duty.test.over ∧ m.duty.pulse.over
      ∧ m.rail.view = n.rail.view ∧ m.rail.side = .idle ∧ m.rail.own = none ∧ m.rail.request = none ∧ m.rail.held = none
      ∧ m.rail.wait = 0 ∧ m.rail.serial = n.rail.serial
      ∧ m.pos = n.pos ∧ m.pair.state = n.pair.state ∧ m.pair.partner = n.pair.partner ∧ m.mon = n.mon
      ∧ m.peers.entries = n.peers.entries ∧ m.peers.stopped = some n.mon.now

/-! ### The plan and the node states (R36-R47) -/

/-- PLAN while no plan is stored: the first part opens the assembly, a further one takes its place in it; the last part of a plan
whose items pass the check of R40 and R41 (`PlanSound`) stores it, its timers clamped, with every position FREE, and takes an
UNPLANNED node to ACTIVE, leaves one in LISTEN or QUIET there, and takes one whose address lies above the roster to STRAPFAULT
with STRAP. One that fails it is not stored and reports PLAN INVALID (R39, R40, R41, R165). What `PlanSound` makes of an item
carried as "not known" in one of two parts, of a weight part without first node or list, and of a chain list not given or
carried as "not known" is the model's choice (log entry 20). -/
def Obligations.PlanPartsMakePlan : Prop :=
  ∀ (n : Node) (w : List Instr) (h : Heard) (x : PlanPart), n.Settled → n.AssemblyLaw → n.hears .plan h (.plan x) → n.pres.plan = none →
    ∃ m : Node, exec (.plan h) ⟨n, w⟩ = .next ⟨m, w⟩ ∧ m.pres.address = n.pres.address
      ∧ (x.count < 1 ∨ 48 < x.count ∨ x.count ≤ x.index → m.pres = n.pres)
      ∧ (x.index < x.count → x.count ≤ 48 → 1 < x.count →
          (n.pres.assembly = none ∨ ∃ b, n.pres.assembly = some b ∧ (b.identity ≠ x.identity ∨ b.count ≠ x.count)) →
          m.pres = { n.pres with
            assembly := some { identity := x.identity, count := x.count, parts := [(x.index, x)] } })
      ∧ (∀ b, n.pres.assembly = some b → b.identity = x.identity → b.count = x.count → x.index < x.count → x.count ≤ 48 →
          (b.parts.map Prod.fst).Pairwise (fun i j => i < j) →
          let parts := b.parts.filter (fun y => decide (y.1 < x.index)) ++ (x.index, x) :: b.parts.filter (fun y => decide (x.index < y.1))
          (parts.length ≠ x.count → m.pres = { n.pres with assembly := some { b with parts := parts } })
          ∧ (parts.length = x.count → m.pres.assembly = none))
      ∧ (∀ a, takePart n.pres.assembly x = some a → a.complete = true →
          ∀ p, PlanSound a.identity (a.parts.map Prod.snd) p →
          m.pres.plan = some p ∧ m.pres.assembly = none
          ∧ m.pos.view = some (List.replicate (p.rowLength / 2) { state := .free, couple := none })
          ∧ (n.pres.state = .unplanned → n.address ≤ p.roster →
              m.pres.state = .active ∧ m.pres.holdFlag = false ∧ m.pres.presenceTimer = some (n.mon.now + p.presencePeriod))
          ∧ ((n.pres.state = .listen ∨ n.pres.state = .quiet) → n.address ≤ p.roster →
              m.pres = { n.pres with plan := some p, assembly := none })
          ∧ (p.roster < n.address →
              m.pres.state = .strapFault ∧ m.line.queue = [] ∧ m.line.sending = none
              ∧ ((∀ e ∈ n.serv.faults, e.code ≠ .strap) → n.serv.faults.length < 7 →
                  ∃ e ∈ m.serv.faults, e.code = .strap ∧ e.active = true)))
      ∧ (∀ a, takePart n.pres.assembly x = some a → a.complete = true →
          (∀ p, ¬PlanSound a.identity (a.parts.map Prod.snd) p) → n.faultRoom .planInvalid →
          m.pres = { n.pres with assembly := none }
            ∧ m.serv.faults = n.serv.faults ++ [n.newFault .planInvalid none])

/-- PLAN while a plan is stored: one of the same identity is ignored, one of another identity is ignored and enters PLAN
CONFLICT, latched, with its FAULT (R42, R178, R179, R180). -/
def Obligations.PlanConflictKeepsPlan : Prop :=
  ∀ (n : Node) (w : List Instr) (h : Heard) (x : PlanPart) (p : Plan), n.Settled → n.hears .plan h (.plan x) →
    n.pres.plan = some p →
    (x.identity = p.identity → exec (.plan h) ⟨n, w⟩ = .next ⟨(n.heardFrom h.source).withPresence n, w⟩)
    ∧ (x.identity ≠ p.identity → n.faultRoom .planConflict →
        let m := n.heardFrom h.source
        let notice := noticeOf .fault 250 [(0, .num 4), (1, .num 1), (2, .notKnown), (3, .num n.serv.active)]
        let entry : FaultEntry :=
          { code := .planConflict, detail := none, active := false, seen := min 65535 (n.mon.now / 1000) }
        let noted : Node := { m with
          serv := { m.serv with faults := n.serv.faults ++ [entry] },
          line := { m.line with queue := if m.queueOpen then offerQueue notice m.line.queue else m.line.queue } }
        exec (.plan h) ⟨n, w⟩ = .next ⟨noted.withPresence n, w⟩)

/-- LISTEN_WINDOW_EXPIRY leads to UNPLANNED without a plan, to HOLD with the hold flag, to ACTIVE otherwise; the presence timer
starts, and a node that becomes UNPLANNED hands its PRESENCE with the fields of R47 (R37, R38, R46, R47). -/
def Obligations.ListenWindowExpiryMoves : Prop :=
  ∀ (n : Node) (w : List Instr), n.Settled → n.pres.state = .listen → n.pres.listenTimer.isSome = true →
    ∃ m : Node, exec .listenWindowExpiry ⟨n, w⟩ = .next ⟨m, w⟩
      ∧ m.pres.state = (if n.pres.plan.isNone then .unplanned else if n.pres.holdFlag then .hold else .active)
      ∧ m.pres.listenTimer = none ∧ m.pres.plan = n.pres.plan ∧ m.pres.assembly = n.pres.assembly
      ∧ m.pres.address = n.pres.address ∧ m.pres.holdFlag = (n.pres.holdFlag)
      ∧ m.pres.presenceTimer = some (n.mon.now +
          (match n.pres.plan with | some p => p.presencePeriod | none => 1000))
      ∧ (n.pres.plan = none → m.line = { n.line with queue := offerQueue m.presenceQueued n.line.queue }
          ∧ m.peers = n.peers ∧ m.mon = n.mon ∧ m.duty = n.duty ∧ m.grade = n.grade ∧ m.rail = n.rail
          ∧ m.pair = n.pair ∧ m.pos = n.pos ∧ m.serv = n.serv)

/-- What is sent again at a timer's expiry: PRESENCE_TIMER_EXPIRY, GRADE_REPEAT_EXPIRY, RAIL_REPEAT_EXPIRY and
POSITION_REPEAT_EXPIRY hand their notice to the queue, a PRESENCE with the fields of R47 and a party's statement in it, a GRADE
with the published copy, restart their own timer or interval and change nothing else (R46, R47, R95, R96, R140, R141, R164; the
moments are those of the model's clock, log entry 2). -/
def Obligations.TimedNoticesAreHanded : Prop :=
  ∀ (n : Node) (w : List Instr), n.Settled →
    let sent (q : Queued) : Line := { n.line with queue := n.offered q }
    let railAgain (x : RailNotice) : Rail :=
      { n.rail with repeats := n.rail.repeats.map fun y => if y.1 = x then (x, n.mon.now + 1000) else y }
    let posAgain (x : PosNotice) : Positions :=
      { n.pos with repeats := n.pos.repeats.map fun y => if y.1 = x then (x, n.mon.now + 1000) else y }
    (n.pres.presenceTimer.isSome = true →
      (n.pres.state = .unplanned ∨ n.pres.state = .active ∨ n.pres.state = .hold) →
      exec .presenceTimerExpiry ⟨n, w⟩ = .next ⟨{ n with
        line := { n.line with queue := offerQueue n.presenceQueued n.line.queue },
        pres := { n.pres with presenceTimer := some (n.mon.now +
          (if n.pres.state = .unplanned then 1000
            else match n.pres.plan with | some p => p.presencePeriod | none => 1000)) } }, w⟩)
    ∧ (∀ p : Plan, n.pres.plan = some p → n.grade.repeatTimer.isSome = true →
        (n.pres.state = .active ∨ n.pres.state = .hold) →
        let r := n.grade.published
        let notice := noticeOf .grade 100
          [(0, .num n.grade.generation), (1, .num r.cls.code), (2, optNum r.profile), (3, optNum r.cells), (4, optFig r.cap),
            (5, optFig r.res), (6, optFig r.hlt), (7, optFig r.sdr), (8, optFig r.ocv), (9, optFig r.tmp), (10, .num r.attempts)]
        exec .gradeRepeatExpiry ⟨n, w⟩ = .next ⟨{ n with
          line := { n.line with queue := offerQueue notice n.line.queue },
          grade := { n.grade with repeatTimer := some (n.mon.now + 8 * p.presencePeriod) } }, w⟩)
    ∧ (∀ id units cause t : Nat, (.release id units cause, t) ∈ n.rail.repeats →
        exec (.railRepeatExpiry (.release id units cause)) ⟨n, w⟩ = .next ⟨{ n with
          line := sent (noticeOf .release 240 [(0, .num id), (1, .num units), (2, .num cause)]),
          rail := railAgain (.release id units cause) }, w⟩)
    ∧ (∀ id t : Nat, (.suspend id, t) ∈ n.rail.repeats →
        exec (.railRepeatExpiry (.suspend id)) ⟨n, w⟩ = .next ⟨{ n with
          line := sent (noticeOf .suspend 244 [(0, .num id)]), rail := railAgain (.suspend id) }, w⟩)
    ∧ (∀ id t : Nat, (.resume id, t) ∈ n.rail.repeats →
        exec (.railRepeatExpiry (.resume id)) ⟨n, w⟩ = .next ⟨{ n with
          line := sent (noticeOf .resume 238 [(0, .num id)]), rail := railAgain (.resume id) }, w⟩)
    ∧ (∀ p y t : Nat, (.claim p y, t) ∈ n.pos.repeats →
        exec (.positionRepeatExpiry (.claim p y)) ⟨n, w⟩ = .next ⟨{ n with
          line := sent (noticeOf .claim 120 [(0, .num p), (1, .num y)]), pos := posAgain (.claim p y) }, w⟩)
    ∧ (∀ (p k t : Nat) (soc : Option Nat), (.engage p k soc, t) ∈ n.pos.repeats →
        exec (.positionRepeatExpiry (.engage p k soc)) ⟨n, w⟩ = .next ⟨{ n with
          line := sent (noticeOf .engage 122
            [(0, .num p), (1, .num k), (2, optFig (soc.map fun x => formFig .soc x)), (3, .notKnown)]),
          pos := posAgain (.engage p k soc) }, w⟩)
    ∧ (∀ p k r t : Nat, (.vacate p k r, t) ∈ n.pos.repeats →
        exec (.positionRepeatExpiry (.vacate p k r)) ⟨n, w⟩ = .next ⟨{ n with
          line := sent (noticeOf .vacate 124 [(0, .num p), (1, .num k), (2, .num r)]), pos := posAgain (.vacate p k r) }, w⟩)

/-- LINE_REJOIN takes a QUIET node to LISTEN with a settling line and empty tables; its exchange is dropped, plan, hold flag,
assembly, measurement and serial are kept, where no exchange level is cleared, or PROTECT or PULSE holds the
converter, these and the converter stand as they were (the latter the model's choice, log entry 53), and a bond in BOUND or JOINING is dissolved (R44, R60, R74, R90, R144, R163,
R177). -/
def Obligations.LineRejoinStartsAfresh : Prop :=
  ∀ (n : Node) (w : List Instr), n.Settled → n.pres.state = .quiet → n.pres.quietTimer.isSome = true →
    ∃ m : Node, exec .lineRejoin ⟨n, w⟩ = .next ⟨m, w⟩
      ∧ m.pres = { n.pres with
          state := .listen, listenTimer := some (n.mon.now + 1500), presenceTimer := none, quietTimer := none }
      ∧ m.line.state = .settling ∧ m.line.sending = none ∧ m.line.abandons = 0 ∧ m.line.cleanDue = true
      ∧ m.peers.entries = [] ∧ m.peers.cands = []
      ∧ m.rail.view = [] ∧ m.rail.certain = false ∧ m.rail.side = .idle ∧ m.rail.own = none ∧ m.rail.request = none
      ∧ m.rail.held = none ∧ m.rail.wait = 0 ∧ m.rail.serial = n.rail.serial
      ∧ m.duty.join.over ∧ m.duty.serve.over ∧ m.duty.test.over
      ∧ (n.duty.exchanging = false ∨ n.duty.conv.holder = some .protect ∨ n.duty.conv.holder = some .pulse →
          m.duty.protect = n.duty.protect ∧ m.duty.pulse = n.duty.pulse ∧ m.duty.conv = n.duty.conv)
      ∧ m.mon.counter = n.mon.counter ∧ m.mon.rest = n.mon.rest ∧ m.mon.reading = n.mon.reading
      ∧ m.mon.limit = n.mon.limit ∧ m.mon.tag = n.mon.tag
      ∧ m.serv.lastResult = n.serv.lastResult
      ∧ (∀ x, n.pair.partner = some x → n.bonded = true →
          m.pair.state = .unpaired ∧ m.pair.partner = none ∧ m.pair.lastCause = some 8)
      ∧ (n.pair.state = .joined ∨ n.pair.state = .leaving →
          m.pair.state = n.pair.state ∧ m.pair.partner = n.pair.partner)

/-! ### The peer table (R48-R55) -/

/-- PRESENCE of a peer: its entry, created where there is none, takes the moment and every state field as carried, a partner, position
or statement out of range as absent; a state number outside its numbering leaves the state fields. The grade fields and every
other entry stay (R48, R49, R50). The rail view takes the statement, and a statement that does not fit makes it uncertain
(R122, R124, R125); the row position view takes what the entry holds, a conflict in the quiet window ends the claim (R59, R167, R169);
and the second PRESENCE of the partner that denies the bond dissolves it (R156). What a PRESENCE outside the numberings states is not
taken into the row view, a denial is judged by the notice, and a field of form 0 counts as omitted (the model's choice, log
entries 15 and 22); certainty returns once every other entry has been heard since and holds a last PRESENCE (the model's reading,
log entry 14); a position stated without a partner of the row changes no record and is no conflict (the model's choice, log entry
48). -/
def Obligations.PresenceUpdatesEntry : Prop :=
  ∀ (n : Node) (w : List Instr) (h : Heard) (p : PresenceNotice), n.Settled → n.PeerLaw → n.PairLaw → n.hears .presence h (.presence p) →
    let old : Peer := (n.peer h.source).getD (Peer.fresh h.source n.mon.now)
    let touched : Peer := { old with heardAt := n.mon.now, lastPresence := some n.mon.now }
    let numbered : Prop :=
      (nodeStateOf p.nodeState).isSome = true ∧ (gradeStateOf p.gradeState).isSome = true ∧ (pairStateOf p.pairState).isSome = true
    let position : Option Nat := p.position.filter (fun k => decide (1 ≤ k ∧ k ≤ 8))
    let partner : Option Nat := p.partner.filter (fun y => decide (1 ≤ y ∧ y ≤ 48 ∧ y ≠ h.source))
    let party (e : Exchange) : Bool := e.initiator == h.source || e.counterpart == h.source
    ∃ (m : Node) (e : Peer), exec (.presence h) ⟨n, w⟩ = .next ⟨m, w⟩ ∧ m.peer h.source = some e ∧ m.pres = n.pres
      ∧ (∀ a, a ≠ h.source → m.peer a = n.peer a)
      ∧ (∀ ns, nodeStateOf p.nodeState = some ns → ∀ gs, gradeStateOf p.gradeState = some gs →
          ∀ ps, pairStateOf p.pairState = some ps →
          e = { touched with
            nodeState := some ns, gradeState := some gs, pairState := some ps, planId := p.planId, announced := some p.generation,
            partner := partner, position := position,
            statement := (match p.stated with
              | .omitted => none
              | .broken => old.statement
              | .whole s => if 1 ≤ s.units ∧ s.units ≤ 8 then some s else none) })
      ∧ (¬numbered → e = touched)
      ∧ (∀ pl, n.pres.plan = some pl →
          (p.stated = .omitted → m.rail.view = n.rail.view.filter (fun x => !party x))
          ∧ (p.stated = .broken → m.rail.view = n.rail.view)
          ∧ (∀ s, p.stated = .whole s →
              let kept : List Exchange := n.rail.view.filter (fun x => !party x || x.id == s.id)
              let rest : List Exchange := kept.filter (fun x => x.id != s.id)
              let fits (x : Exchange) : Prop :=
                s.record pl h.source = some x ∧ (rest.map Exchange.draw).sum + x.draw ≤ pl.pool
                  ∧ ((∃ y ∈ n.rail.view, y.id = s.id) ∨ kept.length < pl.slots)
              (s.units < 1 ∨ 8 < s.units → m.rail.view = n.rail.view)
              ∧ (1 ≤ s.units → s.units ≤ 8 → ∀ x, fits x → ∀ y, y ∈ m.rail.view ↔ y = x ∨ y ∈ rest)
              ∧ (1 ≤ s.units → s.units ≤ 8 → (∀ x, ¬fits x) →
                  m.rail.view = kept ∧ m.rail.certain = false
                    ∧ m.rail.certainTimer = some (n.mon.now + pl.lifetimeCount * pl.presencePeriod)))
          ∧ (∀ o, n.rail.own = some o → (∀ x ∈ m.rail.view, x.id ≠ o.id) → m.rail.own = none)
          ∧ (p.stated = .omitted ∨ p.stated = .broken → n.rail.certain = false → n.rail.boot = false →
              (m.rail.certain = true ↔
                ∀ x ∈ n.peers.entries, x.address ≠ h.source → x.address ∈ n.rail.heardSince ∧ x.lastPresence.isSome = true)))
      ∧ (¬numbered → m.pos.view = n.pos.view)
      ∧ (∀ v, n.pos.view = some v → n.ownRow h.source = true → numbered →
          (position = none → m.pos.view = some (v.map fun r =>
            if r.couple.map Prod.fst = some h.source then { state := .free, couple := none } else r))
          ∧ (∀ k, position = some k → partner = none → m.pos.view = some v)
          ∧ (∀ k, position = some k → ∀ y, partner = some y →
              let couple : Nat × Nat := (min h.source y, max h.source y)
              let stated : PosState := if p.pairState = 5 then .engaged else if p.pairState = 6 then .leaving else .claimed
              let clash : Prop := n.pos.phase = .claimWait ∧ n.pos.position = some k ∧ n.pos.partner ≠ some h.source ∧ 4 ≤ p.pairState
              (n.ownRow y = false ∨ p.pairState < 3 → m.pos.view = some v)
              ∧ (n.ownRow y = true → 3 ≤ p.pairState →
                  ∃ v', m.pos.view = some v' ∧ v'.length = v.length ∧ (∀ j, j ≠ k → recordAt v' j = recordAt v j)
                  ∧ (∀ r, recordAt v k = some r →
                      (clash ∨ r.state = .free → recordAt v' k = some { state := stated, couple := some couple })
                      ∧ (¬clash → r.state ≠ .free → r.couple = some couple →
                          recordAt v' k = some (if 5 ≤ p.pairState then { r with state := stated } else r))
                      ∧ (¬clash → r.state ≠ .free → r.couple ≠ some couple → recordAt v' k = some r))
                  ∧ (clash → n.pair.partner ≠ some h.source → n.pos.lead = false → m.pos.phase = .bonded ∧ m.pos.position = none ∧ m.pos.windowTimer = none)
                  ∧ (clash → n.pair.partner ≠ some h.source → n.pos.lead = true → n.pres.state = .active → n.pos.claims < 3 → ∀ j, lowestFree 1 v' = some j →
                      ∀ z, n.pos.partner = some z →
                      m.pos.phase = .claiming ∧ m.pos.claimed = some j ∧ m.pos.position = none ∧ m.pos.claims = n.pos.claims + 1
                        ∧ (.claim j z, n.mon.now + 1000) ∈ m.pos.repeats))))
      ∧ (n.bonded = true → n.pair.partner = some h.source → n.pos.partner = some h.source → n.rail.own = none →
          let denied : Prop := 1 ≤ n.pair.frames ∧ (p.pairState ≤ 2 ∨ p.partner ≠ some n.address)
          (denied → m.pair.partner = none ∧ m.pair.state.single ∧ m.pair.lastCause = some 9)
          ∧ (¬denied → m.pair.state = n.pair.state ∧ m.pair.partner = some h.source ∧ m.pair.frames = min 2 (n.pair.frames + 1)))

/-- GRADE of a peer: its entry, created where there is none, takes the moment; a generation that differs from the held one replaces
all the grade fields, and an equal one, or a class or profile outside its numbering, restarts the age alone. The state fields
and every other entry stay (R48, R51). The candidate list is then that of R56, R57 and R58, each candidate with the mismatch score
of R147 and by rising score and address; and a replaced grade of the partner that fails the bond test dissolves the bond (R155).
A bonded node is graded (`PairLaw`), which every step keeps. -/
def Obligations.GradeReplacesEntry : Prop :=
  ∀ (n : Node) (w : List Instr) (h : Heard) (g c : Nat) (pr : Option Nat) (cap res : Option Fig), n.Settled → n.PeerLaw →
    n.hears .grade h (.grade g c pr cap res) → n.PairLaw →
    let old : Peer := (n.peer h.source).getD (Peer.fresh h.source n.mon.now)
    let replaces : Prop := (classOf c).isSome = true ∧ (∀ i, pr = some i → i ≤ 3) ∧ old.heldGen ≠ some g
    ∃ (m : Node) (e : Peer), exec (.grade h) ⟨n, w⟩ = .next ⟨m, w⟩ ∧ m.peer h.source = some e ∧ m.pres = n.pres
      ∧ (∀ a, a ≠ h.source → m.peer a = n.peer a)
      ∧ (∀ cl, classOf c = some cl → (∀ i, pr = some i → i ≤ 3) → old.heldGen ≠ some g →
          e = { old with heardAt := n.mon.now, heldGen := some g, cls := cl, profile := pr, cap := cap, res := res })
      ∧ (¬replaces → e = { old with heardAt := n.mon.now })
      ∧ ((n.pres.plan = none ∨ n.pres.state ≠ .active ∨ n.grade.published.cap = none ∨ n.grade.published.res = none
            ∨ n.grade.published.cls = .none ∨ n.grade.published.cls = .reject) → m.peers.cands = [])
      ∧ (∀ p, n.pres.plan = some p → p.wQ ≤ 15 → p.wR ≤ 15 → n.pres.state = .active →
          m.peers.cands.Pairwise (fun x y => x.2.mag < y.2.mag ∨ (x.2.mag = y.2.mag ∧ x.1 < y.1))
          ∧ ∀ (a : Nat) (sc : Fig), (a, sc) ∈ m.peers.cands ↔
              ∃ x score, m.peer a = some x ∧ n.wouldTake p x ∧ n.matchesWith p x score ∧ sc = formFig .sco (score : Int))
      ∧ (∀ p, n.pres.plan = some p → p.wQ ≤ 15 → p.wR ≤ 15 → n.bonded = true → n.pair.partner = some h.source →
          (replaces → (∀ score, ¬n.matchesWith p e score) →
            m.pair.partner = none ∧ m.pair.state.single ∧ m.pair.lastCause = some 2)
          ∧ (¬replaces ∨ (∃ score, n.matchesWith p e score) →
              m.pair.state = n.pair.state ∧ m.pair.partner = some h.source ∧ m.pair.lastCause = n.pair.lastCause))

/-- READOUT and FAULT of a peer reach no block but the tables: the age of its entry restarts, and the silence timers of a party
and of a joined partner restart; nothing else changes (R24, R29, R52, R139, R159). -/
def Obligations.ReadoutAndFaultRestartAges : Prop :=
  ∀ (n : Node) (w : List Instr) (h : Heard) (c : Instr), n.Settled →
    ((∃ k, n.hears .readout h (.readout k) ∧ c = .readout h) ∨ (∃ k a, n.hears .fault h (.fault k a) ∧ c = .fault h)) →
    ∃ m : Node, exec c ⟨n, w⟩ = .next ⟨m, w⟩
      ∧ (∀ a, m.peer a = if a = h.source then (n.peer a).map (fun e => { e with heardAt := n.mon.now })
            else n.peer a)
      ∧ m.peers.cands = n.peers.cands ∧ m.line.state = .busy ∧ m.line.sending = n.line.sending
      ∧ m.line.abandons = n.line.abandons
      ∧ m.rail = { n.rail with silenceTimer :=
          match n.rail.own, n.pres.plan with
          | some o, some p => if o.other = h.source ∧ n.rail.silenceTimer.isSome = true
              then some (n.mon.now + 2 * p.presencePeriod) else n.rail.silenceTimer
          | _, _ => n.rail.silenceTimer }
      ∧ (¬((n.pair.state = .joined ∨ n.pair.state = .leaving) ∧ n.pair.partner = some h.source) →
          m.pair = n.pair ∧ m.line.queue = n.line.queue)
      ∧ ((n.pair.state = .joined ∨ n.pair.state = .leaving) → n.pair.partner = some h.source →
          ∀ p, n.pres.plan = some p →
          m.pair = { n.pair with
            silent := false, silenceTimer := some (n.mon.now + p.lifetimeCount * p.presencePeriod) })
      ∧ m.pres = n.pres ∧ m.mon = n.mon ∧ m.duty = n.duty ∧ m.grade = n.grade ∧ m.pos = n.pos
      ∧ m.serv = n.serv

/-- ENTRY_EXPIRES removes the entry; its exchanges leave the rail view, the claims it leads in CLAIMED or ENGAGING are freed, a
bond with it is dissolved, and every other entry stays (R53, R55, R123, R154, R167). -/
def Obligations.EntryExpiresRemovesPeer : Prop :=
  ∀ (n : Node) (w : List Instr) (a : Nat), n.Settled → n.live = true → n.pres.plan.isSome = true →
    (n.peer a).isSome = true →
    ∃ m : Node, exec (.entryExpires a) ⟨n, w⟩ = .next ⟨m, w⟩
      ∧ m.peer a = none ∧ (∀ b, b ≠ a → m.peer b = n.peer b)
      ∧ m.rail.view = n.rail.view.filter (fun e => !(e.initiator == a || e.counterpart == a))
      ∧ m.pos.view = n.pos.view.map (fun v => v.map fun r =>
          if r.lead = some a ∧ (r.state = .claimed ∨ r.state = .engaging) then { state := .free, couple := none } else r)
      ∧ (n.bonded = true → n.pair.partner = some a → m.pair.partner = none ∧ m.pair.state.single)
      ∧ m.pres = n.pres

/-! ### Module measurement (R61-R74) -/

/-- SAMPLE_SET: every reading is held at its range, the clock, voltages, rest timer and running counter follow, and a differing tag
reading is counted. Without a breach nothing else follows but the level's count and one step of the converter (R61, R62, R63,
R65, R69, R71, R77, R82). -/
def Obligations.SampleSetMeasured : Prop :=
  ∀ (n : Node) (w : List Instr) (r : RawSample), n.Settled →
    ∃ m : Node, exec (.sampleSet r) ⟨n, w⟩ = .next ⟨m, w⟩
      ∧ m.mon.now = n.mon.now + 10
      ∧ heldAs r.voltage 0 100000 m.mon.sample.voltage m.mon.sample.voltageSat
      ∧ heldAs r.current (-40000) 40000 m.mon.sample.current m.mon.sample.currentSat
      ∧ heldAs r.temp1 (-400) 1250 m.mon.sample.temp1 m.mon.sample.temp1Sat
      ∧ heldAs r.temp2 (-400) 1250 m.mon.sample.temp2 m.mon.sample.temp2Sat
      ∧ heldAs r.bus 0 100000 m.mon.sample.bus m.mon.sample.busSat
      ∧ m.mon.volts = (m.mon.sample.voltage :: n.mon.volts).take 100
      ∧ m.mon.cell = n.profile.map (fun p => (roundHalfUp (m.mon.sample.voltage * 10) p.cells).toNat)
      ∧ m.mon.rest = (if m.mon.sample.current.natAbs < 50 then min 720000000 (n.mon.rest + 10) else 0)
      ∧ (n.mon.counter.running = false → m.mon.counter = n.mon.counter)
      ∧ (n.mon.counter.running = true → m.mon.counter.running = true
          ∧ chargedAs n.mon.counter.count n.mon.counter.residue m.mon.sample.current m.mon.counter.count m.mon.counter.residue
          ∧ (n.mon.counter.saturated = true → m.mon.counter.saturated = true))
      ∧ (tagAgrees r.tag n.mon.tag = true → m.mon.tagRun = 0)
      ∧ (tagAgrees r.tag n.mon.tag = false → 0 < n.mon.tagRun → tagAgrees r.tag n.mon.tagSeen = true →
          m.mon.tagRun = min 5 (n.mon.tagRun + 1) ∧ m.mon.tagSeen = n.mon.tagSeen)
      ∧ (tagAgrees r.tag n.mon.tag = false → (n.mon.tagRun = 0 ∨ tagAgrees r.tag n.mon.tagSeen = false) →
          m.mon.tagRun = 1 ∧ m.mon.tagSeen = r.tag)
      ∧ m.mon.tag = n.mon.tag ∧ m.mon.tagState = n.mon.tagState ∧ m.mon.reading = n.mon.reading ∧ m.pres = n.pres
      ∧ (¬n.breachesHard m.mon.sample → ¬n.breachesSoft m.mon.sample →
          (m.mon.sample.current.natAbs < 50 ∨ n.grade.state ≠ .selfRest) →
          m.mon.limit = n.mon.limit ∧ m.mon.clearTimer = n.mon.clearTimer
            ∧ m.duty.conv.setpoint = n.duty.conv.setpoint ∧ m.duty.conv.holder = n.duty.conv.holder ∧ m.duty.conv.path = n.duty.conv.path
            ∧ (n.duty.conv.actual < n.duty.conv.setpoint → m.duty.conv.actual = n.duty.conv.actual + 1)
            ∧ (n.duty.conv.setpoint < n.duty.conv.actual → m.duty.conv.actual = n.duty.conv.actual - 1)
            ∧ (n.duty.conv.actual = n.duty.conv.setpoint → m.duty.conv.actual = n.duty.conv.actual)
            ∧ (∀ i : LevelId, n.duty.conv.holder ≠ some i → m.duty.get i = n.duty.get i)
            ∧ (∀ i : LevelId, n.duty.conv.holder = some i → (m.duty.get i).state = (n.duty.get i).state
                ∧ (m.duty.get i).elapsed = (n.duty.get i).elapsed + (if (n.duty.get i).state = .running then 10 else 0)
                ∧ ((n.duty.get i).dir = .source → chargedAs (n.duty.get i).charge (n.duty.get i).residue m.mon.sample.current
                    (m.duty.get i).charge (m.duty.get i).residue)
                ∧ ((n.duty.get i).dir = .sink → chargedAs (n.duty.get i).charge (n.duty.get i).residue (-m.mon.sample.current)
                    (m.duty.get i).charge (m.duty.get i).residue))
            ∧ m.line = n.line ∧ m.peers = n.peers ∧ m.grade = n.grade ∧ m.rail = n.rail ∧ m.pair = n.pair ∧ m.pos = n.pos
            ∧ m.serv = n.serv)

/-- SAMPLE_SET with a limit breach: a hard one leads to HARD, opens the contactor and reports LIMIT with its kind; a soft one leads
to SOFT where no hard one stands. Out of CLEAR, PROTECT takes the converter at 0 A and holds the exchange levels; the clear timer
restarts at 10 s (R69, R70, R84, R87, R176). That the contactor opens at the entry into HARD alone, a further breach in HARD leaving
the position record as it is, and that it opens in STRAPFAULT and CLASHED too is the model's choice (log entry 43). -/
def Obligations.LimitBreachTakesProtect : Prop :=
  ∀ (n : Node) (w : List Instr) (r : RawSample), n.Settled → n.notEnding →
    let x := sampleOf r
    let kind : BreachKind :=
      if x.currentSat = true then .current else if x.voltageSat = true ∨ x.busSat = true then .voltage else .temperature
    let held (m : Node) (i : LevelId) : Prop :=
      (n.duty.get i).state = .ready ∨ (n.duty.get i).state = .running →
        (m.duty.get i).state = .suspended ∧ (m.duty.get i).heldHere = true
    let protects (m : Node) : Prop :=
      (m.duty.protect.state = .ready ∨ m.duty.protect.state = .running) ∧ m.duty.conv.setpoint = 0 ∧ held m .serve ∧ held m .test
    (n.breachesHard x →
      ∃ m : Node, exec (.sampleSet r) ⟨n, w⟩ = .next ⟨m, w⟩
        ∧ m.mon.limit = .hard ∧ m.mon.clearTimer = some (n.mon.now + 10010) ∧ m.pres = n.pres
        ∧ (n.mon.limit ≠ .hard → m.pos.contactor.drive = false ∧ m.pos.contactor.position = false)
        ∧ (n.mon.limit ≠ .hard → n.faultRoom .limit → m.serv.faults = n.serv.faults ++
            [{ code := .limit, detail := some kind, active := true, seen := min 65535 ((n.mon.now + 10) / 1000) }])
        ∧ (n.mon.limit = .clear → n.duty.protect.state = .empty → protects m)
        ∧ (n.mon.limit = .hard → m.pos = n.pos ∧ m.serv = n.serv))
    ∧ (¬n.breachesHard x → n.breachesSoft x →
        ∃ m : Node, exec (.sampleSet r) ⟨n, w⟩ = .next ⟨m, w⟩
          ∧ m.mon.limit = (if n.mon.limit = .hard then .hard else .soft) ∧ m.mon.clearTimer = some (n.mon.now + 10010)
          ∧ (n.mon.limit = .clear → n.duty.protect.state = .empty → protects m ∧ held m .join)
          ∧ m.pos = n.pos ∧ m.serv = n.serv ∧ m.pres = n.pres)

/-- LIMIT_CLEAR_EXPIRY leads to CLEAR and releases PROTECT: a level held here alone waits for its own RESUME; after HARD the LIMIT
entry is latched (R70, R86, R179). -/
def Obligations.LimitClearReleasesProtect : Prop :=
  ∀ (n : Node) (w : List Instr), n.Settled → n.mon.clearTimer.isSome = true → n.notEnding →
    ∃ m : Node, exec .limitClearExpiry ⟨n, w⟩ = .next ⟨m, w⟩
      ∧ m.mon = { n.mon with limit := .clear, clearTimer := none }
      ∧ (n.duty.protect.state = .ready ∨ n.duty.protect.state = .running →
          m.duty.protect.state = .empty
            ∧ ∀ i : LevelId, i = .join ∨ i = .serve ∨ i = .test → (n.duty.get i).state = .suspended → (n.duty.get i).heldHere = true →
                (m.duty.get i).state = .suspended ∧ (m.duty.get i).heldHere = false ∧ (m.duty.get i).resumeOut = true)
      ∧ m.serv.faults = (if n.mon.limit = .hard
          then n.serv.faults.map (fun e => if e.code = .limit then { e with active := false } else e) else n.serv.faults)
      ∧ m.pres = n.pres ∧ m.peers = n.peers ∧ m.grade = n.grade ∧ m.pair = n.pair ∧ m.pos = n.pos
      ∧ m.rail = { n.rail with repeats := m.rail.repeats }

/-- MODULE_CHANGE, after 5 sample sets of a differing tag: a new module is ungraded with cleared measurement, its node free of
bond, bar, proposal and wait count; the levels end at 0 A, the contactor opens, and a couple in the string begins to leave
(R71, R72, R89, R114, R143, R162, R176, R179). -/
def Obligations.ModuleChangeStartsAnew : Prop :=
  ∀ (n : Node) (w : List Instr), n.Settled → 5 ≤ n.mon.tagRun → n.live = true →
    ∃ m : Node, exec .moduleChange ⟨n, w⟩ = .next ⟨m, w⟩
      ∧ m.mon.tag = n.mon.tagSeen ∧ m.mon.tagRun = 0 ∧ m.mon.volts = [] ∧ m.mon.rest = 0
      ∧ m.mon.counter = { count := 0, residue := 0, running := false, saturated := false } ∧ m.mon.reading = none
      ∧ m.mon.watchPosition = none ∧ m.mon.limit = .clear ∧ m.mon.clearTimer = none ∧ m.mon.now = n.mon.now
      ∧ (n.mon.tagSeen.present = false → m.mon.tagState = .absent)
      ∧ (n.mon.tagSeen.present = true → n.pres.plan = none → m.mon.tagState = .pending)
      ∧ (∀ p, n.pres.plan = some p → n.mon.tagSeen.present = true →
          m.mon.tagState = (if ((p.profiles[n.mon.tagSeen.profile.toNat]?).join).isSome = true then .valid else .unknown))
      ∧ (m.grade.state = .ungraded ∨ (m.grade.state = .restA ∧ m.mon.tagState = .valid ∧ n.pres.state = .active))
      ∧ m.grade.attempts = 0 ∧ m.grade.generation = (n.grade.generation + 1) % 256 ∧ m.grade.published.cls = .none
      ∧ m.grade.published.cap = none ∧ m.grade.published.res = none
      ∧ (n.pair.state = .seeking ∨ n.pair.state = .proposing → m.pair.state = .unpaired)
      ∧ (∀ x, n.pair.partner = some x → n.bonded = true →
          m.pair.state = .unpaired ∧ m.pair.partner = none ∧ m.pair.lastCause = some 6)
      ∧ m.pair.barred = none ∧ m.pair.barTimer = none
      ∧ (∀ i : LevelId, (m.duty.get i).over) ∧ m.duty.conv.setpoint = 0
      ∧ m.pos.contactor.drive = false ∧ m.pos.contactor.position = false
      ∧ (n.pos.phase = .inString → m.pos.phase = .vacating ∧ m.pos.leaveReason = .module)
      ∧ m.rail.wait = 0 ∧ m.rail.held = none ∧ m.pres = n.pres
      ∧ ∀ e ∈ m.serv.faults, e.code ≠ .limit ∧ e.code ≠ .gradeFail ∧ (e.code = .tag → m.mon.tagState = .unknown)

/-! ### Grading (R92-R116) -/

/-- REST_WATCH_COMPLETE in REST_A gives reading A, restarts the counter and asks for PULSE, or for the rest again while an exchange
level stands; in SELFREST it publishes SDR and leads to GRADED (R66, R67, R97, R98, R108). -/
def Obligations.RestCompletesReading : Prop :=
  ∀ (n : Node) (w : List Instr) (d v : Nat) (p : Plan), n.Settled → n.mon.watchGrade = some { duration := d, sampled := true } →
    d ≤ n.mon.rest → n.average = some v → n.pres.plan = some p →
    (n.pres.state = .active → n.grade.state = .restA → 2 ≤ p.pulseCurrent → p.pulseCurrent ≤ 10 →
      ∃ m : Node, exec (.restWatchComplete .grade) ⟨n, w⟩ = .next ⟨m, w⟩
        ∧ m.grade.readingA = some (n.readingOf v) ∧ m.mon.reading = some (n.readingOf v)
        ∧ m.mon.counter = { count := 0, residue := 0, running := true, saturated := false }
        ∧ (n.duty.join.state = .empty → n.duty.serve.state = .empty → n.duty.test.state = .empty → n.duty.pulse.state = .empty →
            m.grade.state = .pulse ∧ m.mon.watchGrade = none ∧ (m.duty.pulse.state = .ready ∨ m.duty.pulse.state = .running)
              ∧ m.duty.pulse.dir = .source ∧ m.duty.pulse.setpoint = p.pulseCurrent ∧ m.duty.pulse.limit = some 2000)
        ∧ (n.duty.join.state ≠ .empty ∨ n.duty.serve.state ≠ .empty ∨ n.duty.test.state ≠ .empty →
            m.grade.state = .restA ∧ m.mon.watchGrade = some { duration := p.restTime * 60000, sampled := false }
              ∧ m.duty = n.duty)
        ∧ m.pres = n.pres ∧ m.peers = n.peers ∧ m.rail = n.rail ∧ m.pair = n.pair ∧ m.pos = n.pos ∧ m.serv = n.serv ∧ m.line = n.line)
    ∧ (∀ start, n.grade.restStart = some start → ∀ finish, (n.readingOf v).soc = some finish → n.live = true →
        n.grade.state = .selfRest →
        ∃ m : Node, exec (.restWatchComplete .grade) ⟨n, w⟩ = .next ⟨m, w⟩
          ∧ m.grade.state = .graded ∧ m.mon.watchGrade = none ∧ m.mon.reading = some (n.readingOf v)
          ∧ m.grade.published = { n.grade.working with
              sdr := some (formQuotient .sdr (((start : Int) - finish) * 720) p.selfRest), cls := m.grade.published.cls }
          ∧ m.grade.published.cls = p.classify m.grade.published
          ∧ m.grade.generation = (n.grade.generation + 1) % 256 ∧ m.grade.attempts = n.grade.attempts ∧ m.pres = n.pres)

/-- REST_WATCH_COMPLETE in REST_B judges the attempt: a failed one counts, the third leads to FAILED with class NONE published; a
success publishes CAP and HLT and the class and leads to the long rest (R102, R103, R104, R105, R106, R110). -/
def Obligations.AttemptJudged : Prop :=
  ∀ (n : Node) (w : List Instr) (d v a b : Nat) (p : Plan) (f : Profile), n.Settled →
    n.mon.watchGrade = some { duration := d, sampled := true } → d ≤ n.mon.rest → n.average = some v → n.pres.plan = some p →
    n.profile = some f → n.grade.readingA.bind RestReading.soc = some a → (n.readingOf v).soc = some b → n.live = true →
    n.grade.state = .restB → (n.pair.state = .unpaired ∨ n.pair.state = .seeking) →
    let q := n.mon.counter.count
    let fails : Prop := max a b - min a b < p.testDepth * 50 ∨ q = 0 ∨ (0 < q ∧ a < b) ∨ (q < 0 ∧ b < a)
      ∨ a = 0 ∨ a = 10000 ∨ b = 0 ∨ b = 10000
    ∃ m : Node, exec (.restWatchComplete .grade) ⟨n, w⟩ = .next ⟨m, w⟩
      ∧ m.grade.readingB = some (n.readingOf v) ∧ m.mon.counter = { n.mon.counter with running := false }
      ∧ m.duty = n.duty ∧ m.rail = n.rail ∧ m.pos = n.pos ∧ m.pres = n.pres
      ∧ (fails → n.grade.attempts < 2 →
          m.grade.state = .restA ∧ m.grade.attempts = n.grade.attempts + 1
            ∧ m.mon.watchGrade = some { duration := p.restTime * 60000, sampled := false }
            ∧ m.grade.published = n.grade.published ∧ m.grade.generation = n.grade.generation)
      ∧ (fails → 2 ≤ n.grade.attempts →
          m.grade.state = .failed ∧ m.grade.attempts = 3 ∧ m.grade.generation = (n.grade.generation + 1) % 256
            ∧ m.grade.published.cls = .none ∧ m.grade.published.cap = none ∧ m.grade.published.attempts = 3
            ∧ (n.faultRoom .gradeFail → m.serv.faults = n.serv.faults ++ [n.newFault .gradeFail none]))
      ∧ (¬fails →
          (m.grade.state = .selfRest ∨ m.grade.state = .graded) ∧ m.grade.attempts = 0 ∧ m.grade.restStart = some b
            ∧ (m.grade.state = .selfRest →
                m.mon.watchGrade = some { duration := p.restTime * 60000 + p.selfRest * 3600000, sampled := false })
            ∧ m.grade.generation = (n.grade.generation + 1) % 256
            ∧ m.grade.published.cap = some (formQuotient .cap (q.natAbs * 10 : Nat) (36 * (max a b - min a b)))
            ∧ m.grade.published.hlt = some (formQuotient .hlt
                (((formQuotient .cap (q.natAbs * 10 : Nat) (36 * (max a b - min a b))).mag * 1000 : Nat)) f.nam.mag)
            ∧ m.grade.published.ocv = some (formFig .ocv v) ∧ m.grade.published.attempts = n.grade.attempts
            ∧ m.grade.published.cls = p.classify m.grade.published)

/-- REST_WATCH_COMPLETE of the Position Manager in SETTLE_WAIT hands the settled report, ENGAGE step 0, and leads to REPORTED, or,
where both reports are held as it is entered, by the check to the engage steps, a new round or TRANSFER; PERIODIC_REST_READING at a
whole minute of rest replaces the last rest reading (R67, R170). The report belongs to the phase that
is entered with it and is repeated in it (the model's choice, log entry 19), and a rest timer that stays at its limit of 200 h
stands at a whole minute (the model's choice, log entry 50). -/
def Obligations.PositionRestAndMinuteReadings : Prop :=
  ∀ (n : Node) (w : List Instr) (v : Nat), n.Settled → n.average = some v →
    (∀ d pos, n.mon.watchPosition = some { duration := d, sampled := true } → d ≤ n.mon.rest → n.pos.position = some pos → n.live = true →
      n.pos.phase = .settleWait → n.pos.ownReport = none ∨ n.pos.partnerReport = none →
      let notice := noticeOf .engage 122 [(0, .num pos), (1, .num 0), (2, optFig ((n.readingOf v).soc.map (fun x => formFig .soc x))), (3, .notKnown)]
      let m : Node := { n with
        mon := { n.mon with reading := some (n.readingOf v), watchPosition := none },
        pos := { n.pos with phase := .reported, repeats := [(.engage pos 0 (n.readingOf v).soc, n.mon.now + 1000)] },
        line := { n.line with queue := n.offered notice } }
      exec (.restWatchComplete .position) ⟨n, w⟩ = .next ⟨m.rebuildPresence, w⟩)
    ∧ (∀ d pos, n.mon.watchPosition = some { duration := d, sampled := true } → d ≤ n.mon.rest → n.pos.position = some pos → n.live = true →
      n.pos.phase = .settleWait → n.PairLaw → ∀ p, n.pres.plan = some p → ∀ q, n.profile = some q →
      ∀ a, n.pos.ownReport = some a → ∀ b, n.pos.partnerReport = some b →
      let dv : Int := (voltageOf q a : Int) - voltageOf q b
      ∃ m : Node, exec (.restWatchComplete .position) ⟨n, w⟩ = .next ⟨m, w⟩ ∧ m.pos.ownReport = none ∧ m.pos.partnerReport = none
        ∧ m.mon.reading = some (n.readingOf v)
        ∧ (dv.natAbs ≤ p.joinWindow → n.pres.state ≠ .active →
            m.pos.phase = .settleWait ∧ m.mon.watchPosition = some { duration := p.joinSettle * 1000, sampled := false })
        ∧ (dv.natAbs ≤ p.joinWindow → n.pres.state = .active → m.pos.phase = .engaging)
        ∧ (p.joinWindow < dv.natAbs → n.pos.firstCheck = true ∨ n.pos.attempts < 2 → m.pos.phase = .transfer))
    ∧ (0 < n.mon.rest → n.mon.rest % 60000 = 0 →
        exec .periodicRestReading ⟨n, w⟩ = .next ⟨{ n with mon := { n.mon with reading := some (n.readingOf v) } }, w⟩)

/-! ### Duty levels and the converter (R75-R91) -/

/-- RAMP_DOWN_COMPLETE has no effect before the converter stands at 0 A. There, an ENDING holder becomes EMPTY, and the highest
level that asks takes the converter and runs if it was READY; a PULSE at its time limit gives RES, a TEST at its target or bound
TMP and REST_B where the test is still asked for, and nothing where it has been withdrawn (R78, R83, R99, R101, R136). That such a
PULSE gives RES in HOLD, and in LISTEN enters CAPTEST, too is the model's choice (log entry 44). -/
def Obligations.RampDownHandsOver : Prop :=
  ∀ (n : Node) (w : List Instr), n.Settled →
    (n.duty.conv.setpoint ≠ 0 ∨ n.duty.conv.actual ≠ 0 → exec .rampDownComplete ⟨n, w⟩ = .next ⟨n, w⟩)
    ∧ (n.duty.conv.setpoint = 0 → n.duty.conv.actual = 0 →
      (∀ i, n.duty.owner = some i → n.duty.conv.holder = none → (n.duty.get i).state = .ready →
        ∃ m : Node, exec .rampDownComplete ⟨n, w⟩ = .next ⟨m, w⟩
          ∧ m.duty.conv = { setpoint := (if (n.duty.get i).dir = .source then ((n.duty.get i).setpoint : Int)
                              else if (n.duty.get i).dir = .sink then -((n.duty.get i).setpoint : Int) else 0)
                            actual := 0
                            path := (if i = .protect then .open else if i = .pulse then .buffer else .rail)
                            holder := some i }
          ∧ m.duty.get i = { n.duty.get i with state := .running, sampled := false } ∧ (∀ j, j ≠ i → m.duty.get j = n.duty.get j)
          ∧ m.rail = n.rail ∧ m.grade = n.grade ∧ m.pos = n.pos ∧ m.pair = n.pair ∧ m.pres = n.pres ∧ m.mon = n.mon)
      ∧ (∀ i, n.duty.conv.holder = some i → (i = .join ∨ i = .serve) → (n.duty.get i).state = .ending → n.duty.kept i = none →
          ∃ m : Node, exec .rampDownComplete ⟨n, w⟩ = .next ⟨m, w⟩
            ∧ (m.duty.get i).state = .empty ∧ m.duty.conv.holder = m.duty.owner
            ∧ m.grade = n.grade ∧ m.rail = n.rail ∧ m.pos = n.pos ∧ m.pres = n.pres)
      ∧ (∀ q, n.duty.pulseEnd = some q → ∀ p, n.pres.plan = some p → ∀ a, n.grade.readingA = some a →
          n.duty.conv.holder = some .pulse → n.duty.pulse.state = .ending → n.duty.pulse.cause = some .time →
          n.duty.pulse.reported = true → n.duty.keptPulse = none → n.grade.state = .pulse → n.live = true →
          ∃ m : Node, exec .rampDownComplete ⟨n, w⟩ = .next ⟨m, w⟩ ∧ m.duty.pulse.state = .empty
            ∧ (1000 * p.pulseCurrent ≤ 4 * q.1.natAbs →
                m.grade.working.res = some (formQuotient .res ((((a.millivolts : Int) - q.2).natAbs * 100000 : Nat)) q.1.natAbs)
                  ∧ (∀ f, n.profile = some f → ∀ s, a.soc = some s →
                      m.grade.state = .capTest ∧ m.rail.testing = true ∧ m.rail.dir = (if 5000 ≤ s then .source else .sink)))
            ∧ (4 * q.1.natAbs < 1000 * p.pulseCurrent → m.grade.state = .restA ∧ m.rail = n.rail))
      ∧ (n.duty.conv.holder = some .test → n.duty.test.state = .ending →
          (n.duty.test.cause = some .charge ∨ n.duty.test.cause = some .cell) → n.duty.test.reported = true → n.duty.keptTest = none →
          n.grade.state = .capTest → n.live = true →
          let asked (o : OwnRecord) : Prop := n.rail.own = some o ∧ o.initiator = true ∧ o.join = false ∧ o.dropped = false
            ∧ n.duty.test.exchange = some o.id
          ∃ m : Node, exec .rampDownComplete ⟨n, w⟩ = .next ⟨m, w⟩ ∧ m.duty.test.state = .empty
            ∧ ((∃ o, asked o) ∨ n.rail.testOrdinary.isSome = true →
                m.grade.state = .restB ∧ m.grade.working.tmp = some (formFig .tmp (max n.mon.sample.temp1 n.mon.sample.temp2)))
            ∧ (∀ o, asked o → m.rail.testing = false ∧ m.rail.own = some { o with dropped := true })
            ∧ ((∀ o, ¬asked o) → n.rail.testOrdinary = none → m.grade = n.grade ∧ m.rail = n.rail)))

/-- LEVEL_STOP: the RUNNING holder that meets a stop condition at a sample set handed over since it runs, in the order charge target,
cell bound, time limit, ends with that cause at setpoint 0, a sample set without a per-cell value meeting every cell bound; a party
hands its final RELEASE with cause STOP, also where an earlier event has handed one, and a level that does not carry the own exchange
releases none. Where none is met nothing changes (R83, R88, R135). -/
def Obligations.LevelStopEndsHolder : Prop :=
  ∀ (n : Node) (w : List Instr), n.Settled →
    (∀ i, n.duty.conv.holder = some i →
      let l := n.duty.get i
      let charged : Prop := ∃ t, l.target = some t ∧ min (t : Int) 2147483647 ≤ l.charge
      let bounded : Prop := ∃ b, l.bound = some b ∧ (n.mon.cell = none ∨ ∃ u, n.mon.cell = some u ∧
        ((l.dir = .source ∧ u ≤ b) ∨ (l.dir = .sink ∧ b ≤ u)))
      let timed : Prop := ∃ t, l.limit = some t ∧ t ≤ l.elapsed
      (∀ c, ((c = .charge ∧ charged) ∨ (c = .cell ∧ ¬charged ∧ bounded) ∨ (c = .time ∧ ¬charged ∧ ¬bounded ∧ timed)) →
        l.state = .running → l.sampled = true → n.duty.conv.actual ≠ 0 → n.duty.owner = some i →
        ∃ m : Node, exec .levelStop ⟨n, w⟩ = .next ⟨m, w⟩
          ∧ m.duty.get i = { l with state := .ending, cause := some c } ∧ m.duty.conv = { n.duty.conv with setpoint := 0 }
          ∧ (i = .pulse → c = .time → m.duty.pulseEnd = some (n.mon.sample.current, n.mon.sample.voltage))
          ∧ (i = .protect ∨ i = .pulse → m.rail = n.rail ∧ m.line = n.line ∧ ∀ j, j ≠ i → m.duty.get j = n.duty.get j)
          ∧ (∀ o, n.rail.own = some o → o.level = i → l.exchange = some o.id →
              m.rail.own = some { o with released := true }
                ∧ ((∃ e ∈ n.rail.view, e.id = o.id) → (.release o.id 0 0, n.mon.now + 1000) ∈ m.rail.repeats)
                ∧ m.line.queue = n.offered (noticeOf .release 240 [(0, .num o.id), (1, .num 0), (2, .num 0)]))
          ∧ ((∀ o, n.rail.own = some o → o.level = i → l.exchange ≠ some o.id) → m.rail = n.rail ∧ m.line = n.line)
          ∧ (∀ j, j ≠ i → m.duty.get j = n.duty.get j)
          ∧ m.mon = n.mon ∧ m.grade = n.grade ∧ m.pair = n.pair ∧ m.pos = n.pos ∧ m.pres = n.pres ∧ m.serv = n.serv)
      ∧ (l.state ≠ .running ∨ l.sampled = false ∨ (¬charged ∧ ¬bounded ∧ ¬timed) → exec .levelStop ⟨n, w⟩ = .next ⟨n, w⟩))
    ∧ (n.duty.conv.holder = none → exec .levelStop ⟨n, w⟩ = .next ⟨n, w⟩)

/-! ### Rail units and exchanges (R117-R144) -/

/-- NEED of another node: a node that meets every condition of R131 hands an OFFER with its headroom and holds it for the offer
window and 250 ms; any other node answers nothing (R131). -/
def Obligations.NeedAnsweredByOffer : Prop :=
  ∀ (n : Node) (w : List Instr) (h : Heard) (id dir units : Nat) (e : Fig) (p : Plan) (d : Dir), n.Settled →
    n.hears .need h (.need id dir units e) → n.pres.plan = some p → ((dir = 0 ∧ d = .source) ∨ (dir = 1 ∧ d = .sink)) →
    (∀ hr, n.headroom p d = some hr → n.couldOffer p d e hr →
      let b : Node := n.heardFrom h.source
      let m : Node := { b with
        line := { b.line with queue := offerQueue (noticeOf .offer 150 [(0, .num id), (1, .fig hr)]) b.line.queue },
        rail := { b.rail with
          held := some { id := id, initiator := h.source, headroom := hr },
          heldTimer := some (n.mon.now + (p.offerWindow + 250)) } }
      exec (.need h) ⟨n, w⟩ = .next ⟨m.withPresence n, w⟩)
    ∧ ((n.headroom p d = none ∨ ∃ hr, n.headroom p d = some hr ∧ ¬n.couldOffer p d e hr) →
        exec (.need h) ⟨n, w⟩ = .next ⟨(n.heardFrom h.source).withPresence n, w⟩)

/-- OFFER in the offer window for the id sought, with headroom of at least the expected charge, is entered by its address, a later
one of a station replacing its earlier one; the last one awaited closes the window. Any other OFFER is ignored (R129). -/
def Obligations.OfferEntered : Prop :=
  ∀ (n : Node) (w : List Instr) (h : Heard) (id : Nat) (hd : Fig) (p : Plan), n.Settled →
    n.hears .offer h (.offer id hd) → n.pres.plan = some p →
    (∀ e, n.rail.expected = some e → n.rail.side = .window → n.rail.current = some id → hd.ge e = true →
      (n.rail.offers.map Prod.fst).Pairwise (fun a b => a < b) →
      let list := n.rail.offers.filter (fun o => decide (o.1 < h.source)) ++ (h.source, hd)
        :: n.rail.offers.filter (fun o => decide (h.source < o.1))
      (p.offerCount = 0 ∨ list.length < p.offerCount →
        let b : Node := n.heardFrom h.source
        let m : Node := { b with rail := { b.rail with offers := list } }
        exec (.offer h) ⟨n, w⟩ = .next ⟨m.withPresence n, w⟩)
      ∧ (p.offerCount ≠ 0 → p.offerCount ≤ list.length →
        ∃ m : Node, exec (.offer h) ⟨n, w⟩ = .next ⟨m, w⟩ ∧ m.rail.side ≠ .window ∧ m.rail.windowTimer = none ∧ m.rail.view = n.rail.view))
    ∧ ((n.rail.side ≠ .window ∨ n.rail.current ≠ some id ∨ ∃ e, n.rail.expected = some e ∧ hd.ge e = false) →
        exec (.offer h) ⟨n, w⟩ = .next ⟨(n.heardFrom h.source).withPresence n, w⟩)

/-- AGREE of another node: an unsound one is ignored, one that does not fit is void and leaves the view, one that fits adds its
exchange. A TEST counterpart that holds its offer, or could offer now with its offer lapsed, and a JOIN counterpart in JOINING with
the sender enter STARTING; any other counterpart declines, and a void AGREE naming the node is answered with a RELEASE of cause
VOID (R119, R131, R132, R133, R134, R139, R171). A TEST AGREE without an expected charge is judged like any other (the model's
choice, log entry 40), and a counterpart that holds an offer for another id declines (the model's choice, log entry 56). -/
def Obligations.AgreeJudged : Prop :=
  ∀ (n : Node) (w : List Instr) (h : Heard) (t : AgreeTerms) (p : Plan), n.Settled →
    n.hears .agree h (.agree t.id t.counterpart t.kind t.dir t.units t.draw t.expected) → n.pres.plan = some p →
    (t.unsound n.rail.view h.source → exec (.agree h) ⟨n, w⟩ = .next ⟨(n.heardFrom h.source).withPresence n, w⟩)
    ∧ (¬t.unsound n.rail.view h.source → ¬t.fits p n.rail.view h.source →
        ∃ m : Node, exec (.agree h) ⟨n, w⟩ = .next ⟨m, w⟩ ∧ m.rail.view = n.rail.view ∧ m.rail.own = n.rail.own
          ∧ (t.counterpart = n.address → n.queueOpen = true → n.rail.side ≠ .waiting →
              let b : Node := n.heardFrom h.source
              let answered : Node := { b with
                line := { b.line with
                  queue := offerQueue (noticeOf .release 240 [(0, .num t.id), (1, .num 0), (2, .num 3)]) b.line.queue } }
              m.line = (answered.withPresence n).line)
          ∧ (∀ o, n.rail.held = some o → (o.initiator = h.source → m.rail.held = none)
              ∧ (o.initiator ≠ h.source → m.rail.held = some o)))
    ∧ (t.fits p n.rail.view h.source →
        ∃ m : Node, exec (.agree h) ⟨n, w⟩ = .next ⟨m, w⟩
          ∧ (∀ e, e ∈ m.rail.view ↔ e ∈ n.rail.view ∨
              e = { id := t.id, initiator := h.source, counterpart := t.counterpart, units := t.units, draw := t.draw, suspended := false })
          ∧ (t.counterpart ≠ n.address → m.rail.own = n.rail.own)
          ∧ (t.counterpart = n.address →
              let dir : Dir := if t.dir = 0 then .sink else .source
              let own (join : Bool) (headroom : Nat) : OwnRecord :=
                { id := t.id, initiator := false, other := h.source, join := join,
                  dir := if join then .sink else dir,
                  units := t.units, driven := t.units, original := t.units,
                  flagOwn := false, flagOther := false, headroom := headroom, released := false, dropped := false }
              let starts (join : Bool) (headroom : Nat) : Prop :=
                m.rail.side = .starting ∧ m.rail.own = some (own join headroom)
                  ∧ m.rail.startTimer = some (n.mon.now + 50) ∧ m.rail.silenceTimer = some (n.mon.now + 2 * p.presencePeriod)
                  ∧ m.rail.held = none
              let declines : Prop := m.rail.own = n.rail.own ∧ (.release t.id 0 4, n.mon.now + 1000) ∈ m.rail.repeats
              let partner : Prop := n.pair.partner = some h.source ∧ n.pair.state = .joining
              let offers (hr : Fig) : Prop := n.headroom p dir = some hr ∧ ∃ e, t.expected = some e ∧ n.couldOffer p dir e hr
              (n.rail.own.isSome = true → declines)
              ∧ (n.rail.own = none → t.kind = 1 →
                  (partner → starts true 0 ∧ m.pos.liveTimer = some (n.mon.now + 1000)) ∧ (¬partner → declines))
              ∧ (n.rail.own = none → t.kind = 0 →
                  (∀ o, n.rail.held = some o → (o.id = t.id → starts false o.headroom.mag) ∧ (o.id ≠ t.id → declines))
                  ∧ (n.rail.held = none → (∀ hr, offers hr → starts false hr.mag) ∧ ((∀ hr, ¬offers hr) → declines)))))

/-- RELEASE of a party: at 0 units the exchange leaves the view and, where it is the node's own, the own record ends, the own side
going on with a test still requested and IDLE where the request was the exchange's own; with fewer units than held it lowers units and
draw, else nothing. A station that is no party releases nothing (R120, R135, R137). Which request ends with the exchange is the
model's reading (log entry 12), and that the own record and its level follow at the initiator of a JOIN and at either party of a TEST
too is its choice (log entry 47). -/
def Obligations.ReleaseTaken : Prop :=
  ∀ (n : Node) (w : List Instr) (h : Heard) (id units cause : Nat) (p : Plan), n.Settled →
    n.hears .release h (.release id units cause) → n.pres.plan = some p →
    ((∀ e ∈ n.rail.view, e.id = id → e.initiator ≠ h.source ∧ e.counterpart ≠ h.source) →
      exec (.release h) ⟨n, w⟩ = .next ⟨(n.heardFrom h.source).withPresence n, w⟩)
    ∧ ((∃ e ∈ n.rail.view, e.id = id ∧ (e.initiator = h.source ∨ e.counterpart = h.source)) → (n.rail.view.map Exchange.id).Nodup →
        ∃ m : Node, exec (.release h) ⟨n, w⟩ = .next ⟨m, w⟩
          ∧ (units = 0 → m.rail.view = n.rail.view.filter (fun e => e.id != id)
              ∧ (∀ o, n.rail.own = some o → o.id = id →
                  let spent : Prop := o.initiator = true ∧ o.dropped = false ∧ (o.join = true ∨ n.rail.side = .party)
                  m.rail.own = none ∧ m.rail.side ≠ .party ∧ m.rail.side ≠ .starting
                    ∧ (¬spent → n.rail.testing = true → m.rail.testing = true ∧ m.rail.side ≠ .idle)
                    ∧ (spent → n.notEnding → m.rail.request = none ∧ m.rail.side = .idle)))
          ∧ (0 < units → m.rail.view = n.rail.view.map (fun e =>
                if e.id = id ∧ units < e.units then { e with units := units, draw := units - min units p.share + 1 } else e))
          ∧ (∀ o, n.rail.own = some o → o.id = id → 0 < units → o.other = h.source →
              (∀ e ∈ n.rail.view, e.id = id → units < e.units) → units < o.units →
              m.rail.own = some { o with units := units, driven := min o.driven units }
                ∧ (units ≤ 8 → (n.duty.get o.level).state.asks = true → (m.duty.get o.level).setpoint = units))
          ∧ (∀ o, n.rail.own = some o → o.id ≠ id → (∃ e ∈ n.rail.view, e.id = o.id) → m.rail.own = some o)
          ∧ m.pres = n.pres ∧ m.mon = { n.mon with watchGrade := m.mon.watchGrade, watchPosition := m.mon.watchPosition })

/-- SUSPEND and RESUME of the other party set and clear its flag of the own exchange and the state in view; a SUSPEND starts the suspend
hold timer and holds the party's level, of a level SUSPENDED already setting its mark alone; a RESUME that leaves no flag stops the
timer (R85, R121, R138). -/
def Obligations.SuspendAndResumeTaken : Prop :=
  ∀ (n : Node) (w : List Instr) (h : Heard) (id : Nat) (p : Plan), n.Settled → n.notEnding → n.pres.plan = some p →
    (n.hears .suspend h (.suspend id) →
      ∃ m : Node, exec (.suspend h) ⟨n, w⟩ = .next ⟨m, w⟩
        ∧ m.rail.view = n.rail.view.map (fun e =>
            if e.id = id ∧ (e.initiator = h.source ∨ e.counterpart = h.source) then { e with suspended := true } else e)
        ∧ (∀ o, n.rail.own = some o → o.id = id → (∃ e ∈ n.rail.view, e.id = id ∧ (e.initiator = h.source ∨ e.counterpart = h.source)) →
            m.rail.own = some { o with flagOther := true } ∧ m.rail.suspendTimer = some (n.mon.now + p.suspendHold * 1000)
              ∧ (n.rail.side = .party → ((n.duty.get o.level).state = .ready ∨ (n.duty.get o.level).state = .running) →
                  (m.duty.get o.level).state = .suspended ∧ (m.duty.get o.level).heldThere = true)
              ∧ (n.rail.side = .party → (n.duty.get o.level).state = .suspended →
                  m.duty.get o.level = { n.duty.get o.level with heldThere := true } ∧ m.duty.conv = n.duty.conv))
        ∧ (n.rail.own = none → m.duty = n.duty))
    ∧ (n.hears .resume h (.resume id) →
        ∃ m : Node, exec (.resume h) ⟨n, w⟩ = .next ⟨m, w⟩
          ∧ m.rail.view = n.rail.view.map (fun e =>
              if e.id = id ∧ (e.initiator = h.source ∨ e.counterpart = h.source) then { e with suspended := false } else e)
          ∧ (∀ o, n.rail.own = some o → o.id = id → (∃ e ∈ n.rail.view, e.id = id ∧ (e.initiator = h.source ∨ e.counterpart = h.source)) →
              m.rail.own = some { o with flagOther := false }
                ∧ m.rail.suspendTimer = (if o.flagOwn = true then n.rail.suspendTimer else none)
                ∧ (n.rail.side = .party → (n.duty.get o.level).state = .suspended → (n.duty.get o.level).heldHere = false →
                    (n.duty.get o.level).resumeOut = false →
                    ((m.duty.get o.level).state = .ready ∨ (m.duty.get o.level).state = .running)
                      ∧ (m.duty.get o.level).heldThere = false))
          ∧ (n.rail.own = none → m.duty = n.duty))

/-- RETRY_TIMER_EXPIRY lets a waiting initiator test for room: without room it waits on; with room a test hands its NEED at its rank and
a transfer its directed AGREE (R126, R127, R128, R130, R133). -/
def Obligations.RetryTestsForRoom : Prop :=
  ∀ (n : Node) (w : List Instr) (p : Plan), n.Settled → n.rail.retryTimer.isSome = true → n.live = true → n.pres.plan = some p →
    (n.rail.request = none ∨ n.rail.side ≠ .waiting →
      exec .retryTimerExpiry ⟨n, w⟩ = .next ⟨{ n with rail := { n.rail with retryTimer := none } }, w⟩)
    ∧ (∀ q, n.rail.request = some q → n.rail.side = .waiting → ¬n.hasRoom p (n.asks p q.units) →
        exec .retryTimerExpiry ⟨n, w⟩ = .next ⟨{ n with rail := { n.rail with retryTimer := none } }, w⟩)
    ∧ (∀ dir units target bound e, n.rail.request = some (.test dir units target bound e) → n.rail.side = .waiting →
        n.hasRoom p (n.asks p units) →
        let id := n.address * 16 + n.rail.serial
        let notice := noticeOf .need (160 + rankOf n.rail.wait (p.weight n.address))
          [(0, .num id), (1, .num (if dir = .source then 1 else 0)), (2, .num (n.asks p units)), (3, .fig e)]
        exec .retryTimerExpiry ⟨n, w⟩ = .next ⟨{ n with
          line := { n.line with queue := offerQueue notice n.line.queue },
          rail := { n.rail with
            retryTimer := none, side := .needing, current := some id, asked := n.asks p units,
            serial := (n.rail.serial + 1) % 16, offers := [], needTimer := some (n.mon.now + 1000) } }, w⟩)
    ∧ (∀ units, n.rail.request = some (.join units) → ∀ x, n.pair.partner = some x → n.rail.side = .waiting →
        n.hasRoom p (n.asks p units) →
        let id := n.address * 16 + n.rail.serial
        let k := n.asks p units
        let notice := noticeOf .agree (200 + rankOf n.rail.wait (p.weight n.address))
          [(0, .num id), (1, .num x), (2, .num 1), (3, .num 0), (4, .num k), (5, .num (k - min k p.share + 1))]
        exec .retryTimerExpiry ⟨n, w⟩ = .next ⟨{ n with
          line := { n.line with queue := offerQueue notice n.line.queue },
          rail := { n.rail with
            retryTimer := none, side := .agreeing, current := some id, asked := k, serial := (n.rail.serial + 1) % 16,
            needTimer := none, windowTimer := none, agreeTimer := some (n.mon.now + 1000) } }, w⟩)

/-- NEED_TIMEOUT and AGREE_TIMEOUT take the notice as lost and return to WAITING, OFFER_HOLD_EXPIRY withdraws the offer held,
UNCERTAINTY_EXPIRY makes the view certain; each then tests for room, and changes nothing else (R124, R126, R128, R130, R131). -/
def Obligations.InitiatorTimersTestRoom : Prop :=
  ∀ (n : Node) (w : List Instr), n.Settled → n.live = true →
    let back : Node := { n with rail := { n.rail with
      side := .waiting, current := none, offers := [], needTimer := none, windowTimer := none, agreeTimer := none } }
    let unheld : Node := { n with rail := { n.rail with held := none, heldTimer := none } }
    let certain : Node := { n with rail := { n.rail with certain := true, boot := false, heardSince := [], certainTimer := none } }
    (n.rail.needTimer.isSome = true → n.rail.side = .needing → exec .needTimeout ⟨n, w⟩ = .next ⟨back.roomTest, w⟩)
    ∧ (n.rail.agreeTimer.isSome = true → n.rail.side = .agreeing → exec .agreeTimeout ⟨n, w⟩ = .next ⟨back.roomTest, w⟩)
    ∧ (n.rail.heldTimer.isSome = true → exec .offerHoldExpiry ⟨n, w⟩ = .next ⟨unheld.roomTest, w⟩)
    ∧ (n.rail.certainTimer.isSome = true → n.pres.plan.isSome = true →
        exec .uncertaintyExpiry ⟨n, w⟩ = .next ⟨certain.roomTest, w⟩)

/-- OFFER_WINDOW_EXPIRY: on an uncertain view back to WAITING, without room also with the wait count raised, without an offer with the retry timer
of 1 s; else an AGREE to the node offering most headroom, the lower address among equals, to station 0 only where no node
offered (R124, R126, R127, R130). The units asked are those of the NEED (the model's choice, log entry 16), and
an uncertain view does not raise the wait count, whatever room it shows (the model's choice, log entry 51). -/
def Obligations.OfferWindowCloses : Prop :=
  ∀ (n : Node) (w : List Instr) (p : Plan) (id : Nat), n.Settled → n.live = true → n.pres.plan = some p → n.rail.current = some id →
    n.rail.side = .window → n.rail.windowTimer.isSome = true →
    let back : Rail := { n.rail with
      side := .waiting, current := none, offers := [], needTimer := none, windowTimer := none, agreeTimer := none }
    let raised : Node := { n with rail := { back with wait := min 255 (n.rail.wait + 1) } }
    (n.rail.certain = false → exec .offerWindowExpiry ⟨n, w⟩ = .next ⟨{ n with rail := back }, w⟩)
    ∧ (n.rail.certain = true → ¬n.hasRoom p n.rail.asked → exec .offerWindowExpiry ⟨n, w⟩ = .next ⟨raised.roomTest, w⟩)
    ∧ (n.hasRoom p n.rail.asked → n.rail.offers = [] →
        exec .offerWindowExpiry ⟨n, w⟩ = .next ⟨{ n with rail := { back with retryTimer := some (n.mon.now + 1000) } }, w⟩)
    ∧ (n.hasRoom p n.rail.asked → n.rail.offers ≠ [] → (n.rail.offers.map Prod.fst).Pairwise (fun a b => a < b) →
        ∃ c : Nat, c ∈ n.rail.offers.map Prod.fst
          ∧ ((∃ o ∈ n.rail.offers, o.1 ≠ 0) → c ≠ 0)
          ∧ (∀ o ∈ n.rail.offers, o.1 = c → c ≠ 0 → ∀ y ∈ n.rail.offers, y.1 ≠ 0 → o.2.ge y.2 = true ∧ (y.2.ge o.2 = true → c ≤ y.1))
          ∧ let notice := noticeOf .agree (200 + rankOf n.rail.wait (p.weight n.address))
              (agreeFields id c 0 n.rail.dir.wire n.rail.asked (n.rail.asked - min n.rail.asked p.share + 1) n.rail.expected)
            exec .offerWindowExpiry ⟨n, w⟩ = .next ⟨{ n with
              line := { n.line with queue := offerQueue notice n.line.queue },
              rail := { n.rail with
                side := .agreeing, current := some id, needTimer := none, windowTimer := none,
                agreeTimer := some (n.mon.now + 1000) } }, w⟩)

/-- START_TIMER_EXPIRY makes the level of the party's role READY with the terms agreed and the stop conditions of its role, those of the
request for a TEST, of headroom and profile for a SERVE, of the profile for a JOIN, and leads to PARTY, suspended at once where the
other party has suspended; a level that is not free is declined with a RELEASE of cause DECLINED (R84, R85, R134). -/
def Obligations.StartTimerMakesParty : Prop :=
  ∀ (n : Node) (w : List Instr) (o : OwnRecord), n.Settled → n.rail.own = some o → n.live = true →
    n.rail.startTimer.isSome = true → n.rail.side = .starting → n.notEnding →
    ((n.duty.get o.level).state = .empty → 1 ≤ o.units → o.units ≤ 8 → o.dir ≠ .off →
      ∃ m : Node, exec .startTimerExpiry ⟨n, w⟩ = .next ⟨m, w⟩
        ∧ m.rail.side = .party ∧ m.rail.startTimer = none ∧ m.rail.own = some o ∧ m.rail.view = n.rail.view
        ∧ (m.duty.get o.level).dir = o.dir ∧ (m.duty.get o.level).setpoint = o.units ∧ (m.duty.get o.level).charge = 0
        ∧ (m.duty.get o.level).elapsed = 0 ∧ (m.duty.get o.level).exchange = some o.id ∧ (m.duty.get o.level).other = some o.other
        ∧ (o.join = true → (m.duty.get o.level).target = none)
        ∧ (o.join = false → o.initiator = false → (m.duty.get o.level).target = some (o.headroom * 36000))
        ∧ (∀ dir units target bound e, n.rail.request = some (.test dir units target bound e) → o.join = false → o.initiator = true →
            (m.duty.get o.level).target = some target ∧ (m.duty.get o.level).bound = some bound)
        ∧ (o.join = true ∨ o.initiator = false → ∀ f, n.profile = some f →
            (o.dir = .source → (m.duty.get o.level).bound = some f.cellMin.mag)
            ∧ (o.dir = .sink → (m.duty.get o.level).bound = some f.cellMax.mag))
        ∧ (m.duty.get o.level).limit = none
        ∧ (n.duty.protect.state = .empty → o.flagOther = false →
            (m.duty.get o.level).state = .ready ∨ (m.duty.get o.level).state = .running)
        ∧ (o.flagOther = true → (m.duty.get o.level).state = .suspended ∧ (m.duty.get o.level).heldThere = true)
        ∧ (n.duty.protect.state = .ready ∨ n.duty.protect.state = .running →
            (m.duty.get o.level).state = .suspended ∧ (m.duty.get o.level).heldHere = true)
        ∧ m.pres = n.pres ∧ m.pos = n.pos ∧ m.pair = n.pair)
    ∧ ((n.duty.get o.level).state = .ready ∨ (n.duty.get o.level).state = .running ∨ (n.duty.get o.level).state = .suspended →
        ∃ m : Node, exec .startTimerExpiry ⟨n, w⟩ = .next ⟨m, w⟩
          ∧ m.rail.own = some { o with released := true } ∧ m.rail.startTimer = none ∧ m.rail.side = .starting
          ∧ m.line.queue = n.offered (noticeOf .release 240 [(0, .num o.id), (1, .num 0), (2, .num 4)])
          ∧ m.duty = n.duty)

/-- SUSPEND_HOLD_EXPIRY and PARTY_SILENCE_EXPIRY stop their timer and hand the party's final RELEASE, each with its own cause, 1 and 2, also
where an earlier event has handed one; a party's level ends, a node in STARTING keeps its levels (R81, R135, R138, R139, R140).
Grading, pairing, position and peers stay as they are, but where an ENDING level stands at actual value 0 already, whose ramp-down is
complete with the end of the party's level (R78). -/
def Obligations.PartyTimersRelease : Prop :=
  ∀ (n : Node) (w : List Instr) (o : OwnRecord) (c : Instr) (cause : Nat) (stopped : Rail), n.Settled → n.PairLaw → n.TestLaw →
    n.live = true → n.rail.own = some o →
    ((c = .suspendHoldExpiry ∧ cause = 1 ∧ n.rail.suspendTimer.isSome = true ∧ stopped = { n.rail with suspendTimer := none })
      ∨ (c = .partySilenceExpiry ∧ cause = 2 ∧ n.rail.silenceTimer.isSome = true ∧ stopped = { n.rail with silenceTimer := none })) →
    ∃ m : Node, exec c ⟨n, w⟩ = .next ⟨m, w⟩
      ∧ m.rail.own = some { o with released := true } ∧ m.rail.suspendTimer = stopped.suspendTimer
      ∧ m.rail.silenceTimer = stopped.silenceTimer ∧ m.rail.view = n.rail.view ∧ m.rail.side = n.rail.side
      ∧ ((∃ e ∈ n.rail.view, e.id = o.id) → (.release o.id 0 cause, n.mon.now + 1000) ∈ m.rail.repeats)
      ∧ (n.rail.side ≠ .party ∨ (n.duty.get o.level).over → m.duty = n.duty
          ∧ m.line.queue = n.offered (noticeOf .release 240 [(0, .num o.id), (1, .num 0), (2, .num cause)]))
      ∧ (n.rail.side = .party → n.duty.conv.holder = some o.level → (n.duty.get o.level).state = .running →
          n.duty.owner = some o.level → n.duty.conv.actual ≠ 0 →
          m.duty.get o.level = { n.duty.get o.level with state := .ending, cause := some .ended } ∧ m.duty.conv.setpoint = 0)
      ∧ m.pres = n.pres
      ∧ ((∀ i, n.duty.conv.holder = some i → (n.duty.get i).state = .ending → n.duty.conv.actual ≠ 0) →
          m.grade = n.grade ∧ m.pair = n.pair ∧ m.pos = n.pos ∧ m.peers = n.peers ∧ m.mon = n.mon)

/-! ### Pairing (R145-R163) -/

/-- PROPOSE of the target that names the node, with the generations and the score as the node has them, is answered with BIND, and the
node proposes to it; any other PROPOSE changes nothing (R150). -/
def Obligations.ProposeAnswered : Prop :=
  ∀ (n : Node) (w : List Instr) (h : Heard) (t g k : Nat) (score : Fig) (p : Plan), n.Settled →
    n.hears .propose h (.propose t score g k) → n.pres.plan = some p →
    let takes : Prop := t = n.address ∧ (n.pair.state = .seeking ∨ n.pair.state = .proposing) ∧ n.pair.target = some h.source
      ∧ (n.peer h.source).bind Peer.heldGen = some g ∧ k = n.grade.generation
      ∧ ∃ c, (n.peers.cands.find? fun c => c.1 == h.source) = some c ∧ c.2.same score = true
    (takes → n.grade.state ≠ .selfRest → n.grade.state ≠ .ungraded → n.grade.state ≠ .regrading →
      let b : Node := n.heardFrom h.source
      let m : Node := { b with
        line := { b.line with queue := n.offered (noticeOf .bind 140 [(0, .num h.source)]) },
        pair := { b.pair with
          state := .proposing, proposed := some h.source, proposalTimer := some (n.mon.now + p.proposalPeriod * 1000),
          silent := (if n.pair.state = .proposing then b.pair.silent else false),
          silenceTimer := (if n.pair.state = .proposing then b.pair.silenceTimer else none) } }
      exec (.propose h) ⟨n, w⟩ = .next ⟨m.withPresence n, w⟩)
    ∧ (takes → n.grade.state = .selfRest →
        ∃ m : Node, exec (.propose h) ⟨n, w⟩ = .next ⟨m, w⟩ ∧ m.pair.state = .proposing ∧ m.pair.proposed = some h.source
          ∧ (n.pair.state = .seeking → m.grade.state = .graded ∧ m.mon.watchGrade = none))
    ∧ (¬takes → exec (.propose h) ⟨n, w⟩ = .next ⟨(n.heardFrom h.source).withPresence n, w⟩)

/-- BIND of the proposed-to node naming this one, with the bond test passed, leads to BOUND: the lower address leads and claims the
lowest free position, or ends the bond where there is none; the partner waits for its lead (R151, R153, R168). With the bond test failed
it is answered with UNBIND of cause GRADE and ends the proposal; from the partner it changes nothing, and from any other node it is
answered with UNBIND of cause ANSWER (R151, R154). UNBIND of the partner dissolves the bond with its cause and opens the contactor (R152,
R154, R176); of the proposed-to node it ends the proposal, and otherwise, in JOINED and LEAVING too, it changes nothing (R149, R152).
A cause outside its numbering is kept as carried (the model's choice, log entry 22), and a phase VACATING ends so too (the model's
choice, log entry 34). -/
def Obligations.BindAndUnbindBond : Prop :=
  ∀ (n : Node) (w : List Instr) (h : Heard) (p : Plan), n.Settled → n.pres.plan = some p →
    (n.hears .bind h (.bind n.address) → n.pair.state = .proposing → n.pair.proposed = some h.source →
      n.bondTest h.source = true → n.grade.state = .graded →
      ∃ m : Node, exec (.bind h) ⟨n, w⟩ = .next ⟨m, w⟩
        ∧ (n.address < h.source → n.pres.state = .active → ∀ v, n.pos.view = some v →
            (lowestFree 1 v = none → m.pair.partner = none ∧ m.pair.lastCause = some 4 ∧ m.pair.barred = some h.source)
            ∧ ∀ k, lowestFree 1 v = some k →
                m.pair.state = .bound ∧ m.pair.partner = some h.source ∧ m.pos.phase = .claiming ∧ m.pos.lead = true
                  ∧ m.pos.claims = 1 ∧ m.pos.claimed = some k
                  ∧ (.claim k h.source, n.mon.now + 1000) ∈ m.pos.repeats)
        ∧ (h.source < n.address → m.pair.state = .bound ∧ m.pair.partner = some h.source ∧ m.pair.proposed = none
            ∧ m.pair.proposalTimer = none ∧ m.pos.phase = .bonded ∧ m.pos.lead = false ∧ m.pos.partner = some h.source
            ∧ m.pos.position = none ∧ m.pos.view = n.pos.view ∧ m.pos.contactor = n.pos.contactor)
        ∧ m.pres = n.pres
        ∧ (h.source < n.address ∨ n.hasFree = true ∨ n.duty.join.over → m.duty = n.duty))
    ∧ (n.hears .bind h (.bind n.address) →
        let proposed : Prop := n.pair.state = .proposing ∧ n.pair.proposed = some h.source
        let b : Node := n.heardFrom h.source
        let unbind (cause : Nat) : List Queued := n.offered (noticeOf .unbind 142 [(0, .num h.source), (1, .num cause)])
        (proposed → n.bondTest h.source = false →
          ∃ m : Node, exec (.bind h) ⟨n, w⟩ = .next ⟨m, w⟩
            ∧ m.pair.state.single ∧ m.pair.lastCause = some 2 ∧ m.pair.partner = n.pair.partner
            ∧ (n.pair.target = none → m.pair.proposed = none ∧ m.pair.proposalTimer = none
                ∧ ((∀ q ∈ n.line.queue, q.kind ≠ .presence) → m.line.queue = unbind 2))
            ∧ m.pos = n.pos ∧ m.duty = n.duty ∧ m.pres = n.pres)
        ∧ (¬proposed → n.pair.partner = some h.source → exec (.bind h) ⟨n, w⟩ = .next ⟨b.withPresence n, w⟩)
        ∧ (¬proposed → n.pair.partner ≠ some h.source →
            let m : Node := { b with line := { b.line with queue := unbind 0 } }
            exec (.bind h) ⟨n, w⟩ = .next ⟨m.withPresence n, w⟩))
    ∧ (∀ a, a ≠ n.address → n.hears .bind h (.bind a) → exec (.bind h) ⟨n, w⟩ = .next ⟨(n.heardFrom h.source).withPresence n, w⟩)
    ∧ (∀ a cause, n.hears .unbind h (.unbind a cause) →
        (a = n.address → n.bonded = true → n.pair.partner = some h.source →
          ∃ m : Node, exec (.unbind h) ⟨n, w⟩ = .next ⟨m, w⟩
            ∧ m.pair.partner = none ∧ m.pair.state.single ∧ m.pair.lastCause = some cause
            ∧ (cause ≠ 3 → cause ≠ 4 → cause ≠ 5 → m.pair.barred = n.pair.barred)
            ∧ (cause = 3 ∨ cause = 4 ∨ cause = 5 → m.pair.barred = some h.source)
            ∧ (n.pos.phase.bonds = true → m.pos.phase = .none ∧ m.pos.contactor.drive = false ∧ m.pos.position = none
                ∧ m.pos.view = n.pos.view)
            ∧ m.pres = n.pres)
        ∧ (a = n.address → n.pair.state = .proposing → n.pair.proposed = some h.source →
            (n.pair.target = none →
              ∃ m : Node, exec (.unbind h) ⟨n, w⟩ = .next ⟨m, w⟩
                ∧ m.pair = { n.pair with state := .seeking, proposed := none, proposalTimer := none, silent := false, silenceTimer := none })
            ∧ (∀ t, n.pair.target = some t → ∀ c, (n.peers.cands.find? fun c => c.1 == t) = some c →
                ∀ g, (n.peer t).bind Peer.heldGen = some g →
                let notice := noticeOf .propose 130 [(0, .num t), (1, .fig c.2), (2, .num n.grade.generation), (3, .num g)]
                ∃ m : Node, exec (.unbind h) ⟨n, w⟩ = .next ⟨m, w⟩ ∧ m.line.queue = n.offered notice
                  ∧ m.pair = { n.pair with proposed := some t, proposalTimer := some (n.mon.now + p.proposalPeriod * 1000) }))
        ∧ (a = n.address → ¬(n.bonded = true ∧ n.pair.partner = some h.source) →
            ¬(n.pair.state = .proposing ∧ n.pair.proposed = some h.source) →
            exec (.unbind h) ⟨n, w⟩ = .next ⟨(n.heardFrom h.source).withPresence n, w⟩)
        ∧ (a ≠ n.address → exec (.unbind h) ⟨n, w⟩ = .next ⟨(n.heardFrom h.source).withPresence n, w⟩))

/-- PROPOSAL_TIMER_EXPIRY repeats the proposal to the target or, without one, leads to SEEKING; BAR_TIMER_EXPIRY ends the bar and takes
the first candidate as target, to which a node in SEEKING proposes at once; PARTNER_SILENCE_EXPIRY sets the silence flag (R148, R149,
R157, R159). -/
def Obligations.PairingTimers : Prop :=
  ∀ (n : Node) (w : List Instr), n.Settled → n.live = true →
    (n.pair.state = .proposing → n.pair.proposalTimer.isSome = true →
      (n.pair.target = none → (n.grade.state ≠ .ungraded ∧ n.grade.state ≠ .regrading) →
        ∃ m : Node, exec .proposalTimerExpiry ⟨n, w⟩ = .next ⟨m, w⟩
          ∧ m.pair = { n.pair with state := .seeking, proposed := none, proposalTimer := none, silent := false, silenceTimer := none }
          ∧ m.grade = n.grade ∧ m.pos = n.pos ∧ m.rail = n.rail ∧ m.duty = n.duty)
      ∧ (∀ t, n.pair.target = some t → ∀ p, n.pres.plan = some p → ∀ c, (n.peers.cands.find? fun c => c.1 == t) = some c →
          ∀ g, (n.peer t).bind Peer.heldGen = some g →
          let notice := noticeOf .propose 130 [(0, .num t), (1, .fig c.2), (2, .num n.grade.generation), (3, .num g)]
          exec .proposalTimerExpiry ⟨n, w⟩ = .next ⟨{ n with
            line := { n.line with queue := n.offered notice },
            pair := { n.pair with proposed := some t, proposalTimer := some (n.mon.now + p.proposalPeriod * 1000) } }, w⟩))
    ∧ (n.pair.barTimer.isSome = true →
        ∃ m : Node, exec .barTimerExpiry ⟨n, w⟩ = .next ⟨m, w⟩
          ∧ m.pair.barred = none ∧ m.pair.barTimer = none ∧ m.pair.target = n.peers.cands.head?.map Prod.fst
          ∧ (n.pair.state ≠ .seeking ∨ n.peers.cands = [] → m.pair.state = n.pair.state ∧ m.line = n.line)
          ∧ (n.pair.state = .seeking → ∀ p, n.pres.plan = some p → ∀ c, n.peers.cands.head? = some c →
              ∀ g, (n.peer c.1).bind Peer.heldGen = some g →
              let notice := noticeOf .propose 130 [(0, .num c.1), (1, .fig c.2), (2, .num n.grade.generation), (3, .num g)]
              m.pair = { n.pair with
                  state := .proposing, barred := none, barTimer := none, target := some c.1, proposed := some c.1,
                  proposalTimer := some (n.mon.now + p.proposalPeriod * 1000), silent := false, silenceTimer := none }
                ∧ ((∀ q ∈ n.line.queue, q.kind ≠ .presence) → m.line.queue = n.offered notice)
                ∧ (n.grade.state = .selfRest → m.grade.state = .graded ∧ m.mon.watchGrade = none))
          ∧ m.rail = n.rail ∧ m.duty = n.duty ∧ m.pos = n.pos ∧ m.pres = n.pres)
    ∧ (n.pair.silenceTimer.isSome = true →
        let m : Node := { n with pair := { n.pair with silent := true, silenceTimer := none } }
        exec .partnerSilenceExpiry ⟨n, w⟩ = .next ⟨m.withPresence n, w⟩)

/-! ### Positions (R164-R177) -/

/-- CLAIM of a lead for its partner, both of the node's row: every other record of that lead becomes FREE, and a FREE record of the
position becomes CLAIMED by the couple. Its partner in BONDED takes the position and starts the quiet window, and in CLAIM_WAIT
too where the CLAIM names another position than it has (the model's choice, log entry 36); nothing else of the own record
changes (R166, R168, R169). -/
def Obligations.ClaimRecorded : Prop :=
  ∀ (n : Node) (w : List Instr) (h : Heard) (k y : Nat) (p : Plan) (v : List PosRecord), n.Settled →
    n.hears .claim h (.claim k y) → n.pres.plan = some p → n.pos.view = some v → n.ownRow h.source = true →
    (n.ownRow y = true → h.source < y → 1 ≤ k → k ≤ v.length → (∀ r, recordAt v k = some r → r.couple ≠ some (h.source, y)) →
      ∃ m : Node, ∃ v' : List PosRecord, exec (.claim h) ⟨n, w⟩ = .next ⟨m, w⟩ ∧ m.pos.view = some v' ∧ v'.length = v.length
        ∧ (∀ j, j ≠ k → recordAt v' j = (recordAt v j).map fun r =>
            if r.couple.map Prod.fst = some h.source then { state := .free, couple := none } else r)
        ∧ (∀ r, recordAt v k = some r →
            recordAt v' k = some (if r.state = .free then { state := .claimed, couple := some (h.source, y) } else r))
        ∧ (∀ r, recordAt v k = some r → r.state = .free → y = n.address →
            n.pos.phase = .bonded ∨ (n.pos.phase = .claimWait ∧ n.pos.position ≠ some k) → n.pos.lead = false →
            n.pos.partner = some h.source →
            m.pos.phase = .claimWait ∧ m.pos.position = some k ∧ m.pos.windowTimer = some (n.mon.now + p.quietWindow))
        ∧ ((n.pos.phase ≠ .bonded ∧ n.pos.phase ≠ .claimWait) ∨ n.pos.lead = true ∨ n.pos.partner ≠ some h.source ∨ y ≠ n.address
              ∨ (n.pos.phase = .claimWait ∧ n.pos.position = some k) ∨ (∃ r, recordAt v k = some r ∧ r.state ≠ .free) →
            m.pos = { n.pos with view := some v' })
        ∧ m.pres = n.pres ∧ m.duty = n.duty ∧ m.rail = (n.heardFrom h.source).rail)
    ∧ ((k = 0 ∨ v.length < k ∨ (y ≤ h.source ∧ n.pos.phase ≠ .bonded ∧ n.pos.phase ≠ .claimWait)) →
        ∃ m : Node, exec (.claim h) ⟨n, w⟩ = .next ⟨m, w⟩ ∧ m.pos = n.pos)

/-- ENGAGE of a lead moves its record, step 1 from CLAIMED to ENGAGING and step 3 from ENGAGING to ENGAGED. In ENGAGING step 1 closes the
partner's contactor, step 2 the lead's transfer switch, and step 3 joins the couple (R158, R166, R173). A settled report, step 0
with a SoC, of the partner is kept and in REPORTED leads to the check with the own one, in BONDED it wins the position (R158,
R169, R170, R171, R172). A live report, step 0 with a voltage, ends the own JOIN within the join window, else lowers its units
driven, and its units held with a partial RELEASE once the freed units reach the release fraction (R135, R137, R171; that they
fall as it is handed is the model's reading, log entry 28, that a JOIN whose bond has ended takes no live report, log entry 12, and that
an ENGAGE acts on the own record only in its own position, log entry 18). -/
def Obligations.EngageStepsTaken : Prop :=
  ∀ (n : Node) (w : List Instr) (h : Heard) (k step : Nat) (soc volt : Option Fig) (v : List PosRecord), n.Settled → n.PairLaw →
    n.hears .engage h (.engage k step soc volt) → n.pos.view = some v → n.ownRow h.source = true →
    let at1000 : Nat := n.mon.now + 1000
    let settled : Prop := step = 0 ∧ volt = none
    let late : Prop := settled ∧ soc.isSome = true ∧ n.pos.phase = .bonded ∧ n.pos.lead = false ∧ n.pos.partner = some h.source ∧ 1 ≤ k
    ∃ m : Node, ∃ v' : List PosRecord, exec (.engage h) ⟨n, w⟩ = .next ⟨m, w⟩ ∧ m.pos.view = some v' ∧ v'.length = v.length
      ∧ (∀ j, j ≠ k → recordAt v' j = recordAt v j)
      ∧ (¬late → ∀ r, recordAt v k = some r → recordAt v' k = some
          (if r.couple.map Prod.fst = some h.source ∧ step = 1 ∧ r.state = .claimed then { r with state := .engaging }
            else if r.couple.map Prod.fst = some h.source ∧ step = 3 ∧ r.state = .engaging then { r with state := .engaged } else r))
      ∧ (n.pos.partner ≠ some h.source → m.pos = { n.pos with view := some v' })
      ∧ (n.pos.partner = some h.source → n.pos.position ≠ some k → ¬late →
          step ≠ 1 ∨ n.pos.lead = true ∨ n.pos.phase = .engaging ∨ n.pos.phase = .none → m.pos = { n.pos with view := some v' })
      ∧ (n.pos.partner = some h.source → step = 1 → n.pos.lead = false → n.pos.phase ≠ .engaging → n.pos.phase ≠ .none →
          (.vacate k 0 0, at1000) ∈ m.pos.repeats ∧ m.pos.phase = n.pos.phase ∧ m.pos.contactor = n.pos.contactor)
      ∧ (late → ∀ f, soc = some f →
          (v.length < k → m.pos = { n.pos with view := some v' } ∧ m.pair.state = n.pair.state)
          ∧ (k ≤ v.length → ∀ p, n.pres.plan = some p →
              recordAt v' k = some { state := .claimed, couple := some (h.source, n.address) }
              ∧ m.pos.phase = .settleWait ∧ m.pos.position = some k ∧ m.pos.partnerReport = some f.mag ∧ m.pos.ownReport = none
              ∧ m.pos.firstCheck = true ∧ m.mon.watchPosition = some { duration := p.joinSettle * 1000, sampled := false }
              ∧ (n.pair.state = .bound → m.pair.state = .joining ∧ m.pair.partner = n.pair.partner)))
      ∧ (n.pos.partner = some h.source → n.pos.position = some k → n.pos.phase.joining = true → settled → ∀ f, soc = some f →
          (n.pos.phase ≠ .reported ∨ n.pos.ownReport = none → m.pos.partnerReport = some f.mag ∧ m.pos.phase = n.pos.phase)
          ∧ (∀ p, n.pres.plan = some p → ∀ q, n.profile = some q → ∀ a, n.pos.ownReport = some a → n.pos.phase = .reported →
              let dv : Int := (voltageOf q a : Int) - voltageOf q f.mag
              m.pos.ownReport = none ∧ m.pos.partnerReport = none
              ∧ (dv.natAbs ≤ p.joinWindow → n.pres.state ≠ .active →
                  m.pos.phase = .settleWait ∧ m.mon.watchPosition = some { duration := p.joinSettle * 1000, sampled := false })
              ∧ (dv.natAbs ≤ p.joinWindow → n.pres.state = .active →
                  m.pos.phase = .engaging
                  ∧ (n.pos.lead = true → m.pos.contactor.drive = true ∧ m.pos.engageTimer = some (n.mon.now + 2000))
                  ∧ (n.pos.lead = false → m.pos.contactor = n.pos.contactor ∧ m.pos.engageTimer = some (n.mon.now + 3000)))
              ∧ (p.joinWindow < dv.natAbs → n.pos.firstCheck = true ∨ n.pos.attempts < 2 →
                  m.pos.phase = .transfer ∧ m.pos.attempts = n.pos.attempts + (if n.pos.firstCheck = true then 0 else 1)
                  ∧ (0 < dv → m.rail.request = some (.join (min p.joinMax (1 + dv.natAbs / 100))))
                  ∧ (dv < 0 → m.rail.request = n.rail.request))
              ∧ (p.joinWindow < dv.natAbs → n.pos.firstCheck = false → 2 ≤ n.pos.attempts → n.bonded = true →
                  n.pair.partner = some h.source →
                  m.pair.partner = none ∧ m.pair.state.single ∧ m.pair.lastCause = some 3
                  ∧ (n.faultRoom .equalizeFail → ∃ e ∈ m.serv.faults, e.code = .equalizeFail))))
      ∧ (n.pos.partner = some h.source → n.pos.position = some k → step = 0 → ∀ f, volt = some f →
          ∀ p, n.pres.plan = some p → ∀ u, n.average = some u → ∀ o, n.rail.own = some o → o.join = true → o.initiator = true →
          o.dropped = false →
          let dv : Int := (u : Int) - f.mag
          let inView : Prop := ∃ e ∈ n.rail.view, e.id = o.id
          m.pos.phase = n.pos.phase
          ∧ (dv ≤ p.joinWindow → m.rail.own = some { o with released := true } ∧ (inView → (.release o.id 0 0, at1000) ∈ m.rail.repeats))
          ∧ (p.joinWindow < dv → n.rail.side = .party → o.released = false →
              let d : Nat := min (min p.joinMax (1 + dv.natAbs / 100)) o.units
              let report : Prop := max 1 ((p.releaseFraction * o.original + 99) / 100) ≤ o.units - d
              (report → m.rail.own = some { o with units := d, driven := d } ∧ (inView → (.release o.id d 5, at1000) ∈ m.rail.repeats))
              ∧ (¬report → m.rail.own = some { o with driven := d } ∧ m.rail.repeats = n.rail.repeats)
              ∧ (1 ≤ d → d ≤ 8 →
                  (n.duty.join.state = .ready ∨ n.duty.join.state = .running ∨ n.duty.join.state = .suspended → m.duty.join.setpoint = d)
                  ∧ (n.duty.owner = some .join → n.duty.conv.holder = some .join → n.duty.join.state = .running →
                      n.duty.join.dir = .source → m.duty.conv.setpoint = d))))
      ∧ (n.pos.partner = some h.source → n.pos.position = some k → n.pos.phase = .engaging →
          (∀ p, n.pres.plan = some p → ∀ u, n.average = some u → step = 1 → n.pos.lead = false → n.pos.contactor.drive = false →
            (((u : Int) - n.mon.sample.bus).natAbs ≤ p.joinWindow →
              m.pos.contactor = { n.pos.contactor with drive := true, timer := some (n.mon.now + 100) } ∧ m.pos.phase = .engaging)
            ∧ (p.joinWindow < ((u : Int) - n.mon.sample.bus).natAbs →
                m.pos.contactor = n.pos.contactor ∧ (.vacate k 0 0, at1000) ∈ m.pos.repeats))
          ∧ (step = 2 → n.pos.lead = true → n.pos.engageLine = false → n.pos.switch.drive = false →
              m.pos.engageLine = true ∧ m.pos.switch = { n.pos.switch with drive := true, timer := some (n.mon.now + 100) }
                ∧ m.pos.contactor = n.pos.contactor)
          ∧ (step = 3 → n.pos.lead = false →
              m.pos.phase = .inString ∧ m.pos.engageTimer = none ∧ m.pos.contactor = n.pos.contactor
                ∧ (n.pair.state = .joining → m.pair.state = .joined ∧ m.pair.partner = n.pair.partner)))
      ∧ m.pres = n.pres

/-- VACATE of a member moves its record: an abort returns ENGAGING to CLAIMED, step 1 leads to LEAVING, step 3 of the lead frees it. In the
couple, an abort in ENGAGING opens the contactor, bypasses the lead and begins a round, or at the third attempt ends the bond; a
request of the partner, step 0, lets the lead bypass; step 1 opens the partner's contactor, from JOINING too; step 2 lets the lead
open its own, and step 3 ends the leave (R158, R166, R172, R174, R175). A
VACATE of another position than the own does not act on the own record (the model's choice, log entry 18), and a reason above 6
asks to leave like 3 to 6 (the model's choice, log entry 22). -/
def Obligations.VacateStepsTaken : Prop :=
  ∀ (n : Node) (w : List Instr) (h : Heard) (k step reason : Nat) (v : List PosRecord), n.Settled → n.ContactorLaw → n.PairLaw →
    n.hears .vacate h (.vacate k step reason) → n.pos.view = some v → n.ownRow h.source = true →
    ∃ m : Node, ∃ v' : List PosRecord, exec (.vacate h) ⟨n, w⟩ = .next ⟨m, w⟩ ∧ m.pos.view = some v' ∧ v'.length = v.length
      ∧ (∀ j, j ≠ k → recordAt v' j = recordAt v j)
      ∧ (∀ r, recordAt v k = some r → recordAt v' k = some
          (if step = 3 ∧ r.lead = some h.source then { state := .free, couple := none }
            else if r.member h.source = true ∧ step = 0 ∧ reason ≤ 2 ∧ r.state = .engaging then { r with state := .claimed }
            else if r.member h.source = true ∧ step = 1 ∧ (r.state = .engaging ∨ r.state = .engaged) then { r with state := .leaving }
            else r))
      ∧ (n.pos.partner ≠ some h.source ∨ n.pos.position ≠ some k → m.pos = { n.pos with view := some v' })
      ∧ (n.pos.partner = some h.source → n.pos.position = some k →
          (step = 0 → reason ≤ 2 → n.pos.phase = .engaging →
            m.pos.contactor.drive = false ∧ m.pos.engageTimer = none
              ∧ (n.pos.lead = true → m.pos.switch.drive = false ∧ m.pos.engageLine = false)
              ∧ (n.pos.attempts < 2 → m.pos.phase = .settleWait ∧ m.pos.attempts = n.pos.attempts + 1
                  ∧ m.pos.ownReport = none ∧ m.pos.partnerReport = none ∧ m.pair.state = .joining
                  ∧ ∀ p, n.pres.plan = some p → m.mon.watchPosition = some { duration := p.joinSettle * 1000, sampled := false })
              ∧ (2 ≤ n.pos.attempts → m.pos.phase = .none ∧ m.pair.state.single ∧ m.pair.partner = none ∧ m.pair.lastCause = some 3
                  ∧ (n.faultRoom .equalizeFail → ∃ e ∈ m.serv.faults, e.code = .equalizeFail)))
          ∧ (step = 1 → n.pos.lead = false → n.pos.phase = .inString ∨ n.pos.phase.joining = true →
            m.pos.phase = .vacating ∧ m.pos.contactor.drive = false ∧ m.pos.leaveStep = 2
              ∧ m.pair.state = .leaving ∧ m.pair.partner = n.pair.partner)
          ∧ (step = 1 → n.pos.lead = false → n.pos.phase = .vacating → n.pos.leaveStep < 2 → n.pos.onSwitch = none →
            m.pos.phase = .vacating ∧ m.pos.contactor.drive = false ∧ m.pos.leaveStep = 2 ∧ m.pair.partner = n.pair.partner)
          ∧ (step = 2 → n.pos.lead = true → n.pos.phase = .vacating → n.pos.leaveStep = 2 → n.pos.onSwitch = none →
              m.pos.contactor.drive = false ∧ m.pos.leaveStep = 3 ∧ m.pos.leaveTimer = none)
          ∧ (step = 3 → n.pos.lead = false → n.pos.phase = .vacating → n.pair.state = .leaving → n.pair.partner.isSome = true →
              m.pos.phase = .none ∧ m.pos.contactor.drive = false ∧ m.pair.partner = none ∧ m.pair.state.single)
          ∧ (3 ≤ reason → step = 0 → n.pos.lead = true → n.pos.phase = .inString ∨ n.pos.phase.joining = true →
              m.pos.phase = .vacating ∧ m.pos.switch.drive = false ∧ m.pos.engageLine = false))
      ∧ m.pres = n.pres

/-- QUIET_WINDOW_EXPIRY wins the position: JOINING and the first round with its rest watch. LIVE_REPORT_TIMER_EXPIRY hands a live report,
ENGAGE_TIMEOUT an abort with reason TIMEOUT, LEAVE_TIMER_EXPIRY lets the lead open its contactor (R158, R169, R170, R171, R174,
R175). -/
def Obligations.PositionTimers : Prop :=
  ∀ (n : Node) (w : List Instr), n.Settled → n.live = true →
    (∀ p, n.pres.plan = some p → n.pos.windowTimer.isSome = true → n.pos.phase = .claimWait → n.grade.state = .graded →
      let m : Node := { n with
        pos := { n.pos with
          phase := .settleWait, windowTimer := none, firstCheck := true, ownReport := none, partnerReport := none, repeats := [] },
        mon := { n.mon with watchPosition := some { duration := p.joinSettle * 1000, sampled := false } },
        pair := (if n.pair.state = .bound then { n.pair with state := .joining, silent := false, silenceTimer := none } else n.pair) }
      exec .quietWindowExpiry ⟨n, w⟩ = .next ⟨m.rebuildPresence, w⟩)
    ∧ (∀ k, n.pos.position = some k →
        (n.pos.liveTimer.isSome = true →
          let notice := noticeOf .engage 122
            [(0, .num k), (1, .num 0), (2, .notKnown), (3, optFig (n.average.map fun v => formFig .ocv v))]
          exec .liveReportTimerExpiry ⟨n, w⟩ = .next ⟨{ n with
            line := { n.line with queue := n.offered notice }, pos := { n.pos with liveTimer := some (n.mon.now + 1000) } }, w⟩)
        ∧ (n.pos.engageTimer.isSome = true → n.pos.phase = .engaging →
            let notice := noticeOf .vacate 124 [(0, .num k), (1, .num 0), (2, .num 1)]
            exec .engageTimeout ⟨n, w⟩ = .next ⟨{ n with
              line := { n.line with queue := n.offered notice },
              pos := { n.pos with
                engageTimer := none,
                repeats := (.vacate k 0 1, n.mon.now + 1000) :: n.pos.repeats.filter (fun y => y.1 != .vacate k 0 1) } }, w⟩))
    ∧ (n.pos.leaveTimer.isSome = true → n.pos.phase = .vacating → n.pos.contactor.drive = true → n.pos.onSwitch = none →
        exec .leaveTimerExpiry ⟨n, w⟩ = .next ⟨{ n with pos := { n.pos with
          leaveStep := 3, leaveTimer := none, leaveReason := .timeout, onContactor := some .vacate3,
          contactor := { n.pos.contactor with drive := false, timer := some (n.mon.now + 100) } } }, w⟩)

/-- CONTACTOR_CONFIRM and TRANSFER_SWITCH_CONFIRM end a move under way and take the step that waits for it: ENGAGE steps 1 to 3, VACATE
steps 1 to 3. CONFIRM_TIMEOUT reports CONTACTOR and leaves the drive; it aborts an engagement, and while leaving the next step
follows at once (R158, R173, R174, R175; the reason that VACATE steps 1 and 2 carry is the model's choice, log entry 42). Without a
move under way nothing changes, as at a confirmation that comes after its failure (the model's choice, log entry 49). -/
def Obligations.DriveConfirmations : Prop :=
  ∀ (n : Node) (w : List Instr), n.Settled → n.live = true →
    let at1000 : Nat := n.mon.now + 1000
    let again (x : PosNotice) : List (PosNotice × Nat) := (x, at1000) :: n.pos.repeats.filter (fun y => y.1 != x)
    let engage (k step : Nat) : List Queued := n.offered (noticeOf .engage 122 [(0, .num k), (1, .num step), (2, .notKnown), (3, .notKnown)])
    let vacate (k step : Nat) : List Queued := n.offered (noticeOf .vacate 124 [(0, .num k), (1, .num step), (2, .num n.pos.leaveReason.code)])
    let reported (m : Node) : Prop := n.faultRoom .contactor → m.serv.faults = n.serv.faults ++ [n.newFault .contactor none]
    (n.pos.contactor.timer = none →
      exec .contactorConfirm ⟨n, w⟩ = .next ⟨n, w⟩ ∧ exec (.confirmTimeout .contactor) ⟨n, w⟩ = .next ⟨n, w⟩)
    ∧ (n.pos.switch.timer = none →
        exec .transferSwitchConfirm ⟨n, w⟩ = .next ⟨n, w⟩ ∧ exec (.confirmTimeout .switch) ⟨n, w⟩ = .next ⟨n, w⟩)
    ∧ (n.pos.contactor.timer.isSome = true →
        let confirmed : Positions := { n.pos with
          contactor := { n.pos.contactor with position := n.pos.contactor.drive, timer := none }, onContactor := none }
        (n.pos.onContactor = none → exec .contactorConfirm ⟨n, w⟩ = .next ⟨{ n with pos := confirmed }, w⟩)
        ∧ (∀ k, n.pos.position = some k →
            (n.pos.onContactor = some .engage1 → exec .contactorConfirm ⟨n, w⟩ = .next ⟨{ n with
              line := { n.line with queue := engage k 1 }, pos := { confirmed with repeats := again (.engage k 1 none) } }, w⟩)
            ∧ (n.pos.onContactor = some .engage2 → exec .contactorConfirm ⟨n, w⟩ = .next ⟨{ n with
              line := { n.line with queue := engage k 2 }, pos := { confirmed with repeats := again (.engage k 2 none) } }, w⟩)
            ∧ (n.pos.onContactor = some .vacate2 → exec .contactorConfirm ⟨n, w⟩ = .next ⟨{ n with
              line := { n.line with queue := vacate k 2 },
              pos := { confirmed with repeats := again (.vacate k 2 n.pos.leaveReason.code) } }, w⟩)
            ∧ (n.pos.onContactor = some .vacate3 → exec .contactorConfirm ⟨n, w⟩ = .next ⟨{ n with
              line := { n.line with queue := vacate k 3 },
              pos := { confirmed with repeats := again (.vacate k 3 n.pos.leaveReason.code) } }, w⟩)
            ∧ ∃ m : Node, exec (.confirmTimeout .contactor) ⟨n, w⟩ = .next ⟨m, w⟩ ∧ reported m
                ∧ m.pos.contactor = { n.pos.contactor with timer := none } ∧ m.pos.phase = n.pos.phase
                ∧ m.rail = n.rail ∧ m.pres = n.pres ∧ m.duty = n.duty
                ∧ (n.pos.phase ≠ .vacating ∨ n.pos.onContactor ≠ some .vacate1 → m.pair = n.pair)
                ∧ (n.pos.phase = .engaging → (.vacate k 0 2, at1000) ∈ m.pos.repeats ∧ m.pos.onContactor = none ∧ m.pos.onSwitch = none)
                ∧ (n.pos.phase = .vacating → n.pos.onContactor = some .vacate2 →
                    (.vacate k 2 n.pos.leaveReason.code, at1000) ∈ m.pos.repeats ∧ m.pos.onContactor = none)
                ∧ (n.pos.phase = .vacating → n.pos.onContactor = some .vacate3 →
                    (.vacate k 3 n.pos.leaveReason.code, at1000) ∈ m.pos.repeats ∧ m.pos.onContactor = none)))
    ∧ (n.pos.switch.timer.isSome = true → ∀ k, n.pos.position = some k →
        let confirmed : Positions := { n.pos with
          switch := { n.pos.switch with position := n.pos.switch.drive, timer := none }, onSwitch := none }
        let begun : Pairing :=
          if n.pair.state = .joining ∨ n.pair.state = .joined then { n.pair with state := .leaving } else n.pair
        (n.pos.onSwitch = some .engage3 → exec .transferSwitchConfirm ⟨n, w⟩ = .next ⟨{ n with
          line := { n.line with queue := engage k 3 },
          pos := { confirmed with engageTimer := none, repeats := again (.engage k 3 none) } }, w⟩)
        ∧ (n.pos.onSwitch = none → exec .transferSwitchConfirm ⟨n, w⟩ = .next ⟨{ n with pos := confirmed }, w⟩)
        ∧ (n.pos.onSwitch = some .vacate1 → n.grade.state ≠ .selfRest →
            let m : Node := { n with
              line := { n.line with queue := vacate k 1 }, pair := begun,
              pos := { confirmed with
                leaveStep := 2, leaveTimer := some (n.mon.now + 2000), repeats := again (.vacate k 1 n.pos.leaveReason.code) } }
            exec .transferSwitchConfirm ⟨n, w⟩ = .next ⟨m.withPresence n, w⟩)
        ∧ ∃ m : Node, exec (.confirmTimeout .switch) ⟨n, w⟩ = .next ⟨m, w⟩ ∧ reported m
            ∧ m.pos.switch = { n.pos.switch with timer := none } ∧ m.pos.contactor = n.pos.contactor ∧ m.pos.phase = n.pos.phase
            ∧ m.rail = n.rail ∧ m.pres = n.pres ∧ m.duty = n.duty
            ∧ (n.pos.phase = .engaging → m.pair = n.pair ∧ (.vacate k 0 2, at1000) ∈ m.pos.repeats
                ∧ m.pos.onContactor = none ∧ m.pos.onSwitch = none)
            ∧ (n.pos.phase = .vacating → n.pos.onSwitch = some .vacate1 →
                m.pair = begun ∧ (.vacate k 1 n.pos.leaveReason.code, at1000) ∈ m.pos.repeats ∧ m.pos.onSwitch = none
                  ∧ m.pos.leaveStep = 2 ∧ m.pos.leaveTimer = some (n.mon.now + 2000)))

/-! ### Readout and directives (R181-R183) -/

/-- QUERY naming the node: the part asked is built with the fields of R181's table and handed as a READOUT of priority 60, all four
in order where no part is asked; another node's QUERY changes nothing (R181). A part number above 3 names no part and hands
nothing, a part carried as "not known" asks for all four, and a peer outside 1 to 48 is echoed in field 11 as one of which no
entry is held (the model's choice, log entry 21); the cells of part 1 are those of the working record, and contactor and switch of part
2 are the confirmed positions, and its field 15 is of form 0 without a pair state (the model's choice, log entry 32). -/
def Obligations.QueryHandsReadout : Prop :=
  ∀ (n : Node) (w : List Instr) (h : Heard) (a : Nat) (part peer : Option Nat), n.Settled →
    n.hears .query h (.query a part peer) →
    (a ≠ n.address → exec (.query h) ⟨n, w⟩ = .next ⟨(n.heardFrom h.source).withPresence n, w⟩)
    ∧ (a = n.address → ∀ k : Node, k = n.heardFrom h.source →
        let part0 : Queued := noticeOf .readout 60 k.part0Content
        let part1 : Queued := noticeOf .readout 60 k.part1Content 1
        let part2 : Queued := noticeOf .readout 60 (k.part2Content peer) 2
        let part3 : Queued := noticeOf .readout 60 k.part3Content 3
        let sent : List Queued :=
          match part with
          | none => [part0, part1, part2, part3]
          | some 0 => [part0] | some 1 => [part1] | some 2 => [part2] | some 3 => [part3]
          | some _ => []
        exec (.query h) ⟨n, w⟩ = .next ⟨({ k with line := { k.line with
          queue := if k.queueOpen then sent.foldl (fun l q => offerQueue q l) k.line.queue else k.line.queue } } : Node).withPresence n, w⟩)

/-- HOLD is accepted in ACTIVE and RESUME_NODE in HOLD; each is refused for node state elsewhere and then changes nothing but
the result. A JOINED or LEAVING couple stays through HOLD. The entry into ACTIVE hands a PRESENCE and a GRADE and restarts their
timers, opens the watch of REST_A or starts the regime, lets a waiting request test for room and an eligible node seek (R43, R46, R93,
R95, R97, R126, R142, R146, R161, R182, R183). -/
def Obligations.HoldAndResumeNode : Prop :=
  ∀ (n : Node) (w : List Instr) (h : Heard) (a k : Nat), n.Settled → n.hears .directive h (.directive a k) →
    (a = 0 ∨ a = n.address) →
    (k = 3 → n.pres.state = .active →
      ∃ m : Node, exec (.hold h) ⟨n, w⟩ = .next ⟨m, w⟩ ∧ m.pres.state = .hold ∧ m.pres.holdFlag = true
        ∧ m.pres.plan = n.pres.plan ∧ m.serv.lastResult = 48 ∧ m.rail.view = n.rail.view ∧ m.rail.held = none
        ∧ (∀ o, n.rail.own = some o → o.join = false →
            ∃ d, m.rail.own = some { o with released := true, dropped := d }
              ∧ (o.initiator = false → d = o.dropped)
              ∧ (o.initiator = true → n.grade.state = .capTest → n.rail.testing = true → d = true))
        ∧ (n.grade.state = .capTest → n.rail.testing = true → m.rail.request = none)
        ∧ (n.pair.state = .seeking ∨ n.pair.state = .proposing → m.pair.state = .unpaired)
        ∧ (∀ x, n.bonded = true → n.pair.partner = some x → m.pair.state = .unpaired ∧ m.pair.partner = none)
        ∧ (n.pair.state = .joined ∨ n.pair.state = .leaving →
            m.pos.phase = n.pos.phase ∧ m.pos.contactor = n.pos.contactor ∧ m.pos.switch = n.pos.switch
              ∧ m.pair.state = n.pair.state ∧ m.pair.partner = n.pair.partner))
    ∧ (k = 4 → n.pres.state = .hold →
        ∃ m : Node, exec (.resumeNode h) ⟨n, w⟩ = .next ⟨m, w⟩ ∧ m.pres.state = .active ∧ m.pres.holdFlag = false
          ∧ m.pres.plan = n.pres.plan ∧ m.serv.lastResult = 64 ∧ m.rail.view = n.rail.view
          ∧ ∀ p, n.pres.plan = some p →
            let a : Node := { n with pres := { n.pres with state := .active } }
            let free : Prop := n.pair.state = .unpaired ∨ n.pair.state = .seeking
            let graded : Prop := n.grade.state = .graded ∨ n.grade.state = .selfRest
            let r : Record := n.grade.published
            let grade : Queued := noticeOf .grade 100
              [(0, .num n.grade.generation), (1, .num r.cls.code), (2, optNum r.profile), (3, optNum r.cells), (4, optFig r.cap),
                (5, optFig r.res), (6, optFig r.hlt), (7, optFig r.sdr), (8, optFig r.ocv), (9, optFig r.tmp), (10, .num r.attempts)]
            let next : Option Nat := some (n.address * 16 + n.rail.serial)
            m.pres.presenceTimer = some (n.mon.now + p.presencePeriod)
            ∧ m.grade.repeatTimer = some (n.mon.now + 8 * p.presencePeriod)
            ∧ (n.line.queue = [] → n.pos.phase ≠ .bonded → m.presenceQueued ∈ m.line.queue ∧ grade ∈ m.line.queue)
            ∧ (n.grade.state = .restA → n.mon.watchGrade = none →
                m.mon.watchGrade = some { duration := p.restTime * 60000, sampled := false })
            ∧ (n.grade.state = .ungraded ∨ n.grade.state = .regrading → n.mon.tagState = .valid → free → m.grade.state = .restA)
            ∧ (∀ q, n.rail.request = some q → n.rail.side = .waiting → n.rail.retryTimer = none → n.pos.phase ≠ .bonded →
                a.hasRoom p (n.asks p q.units) →
                (q.isTest = true → m.rail.side = .needing ∧ m.rail.current = next)
                ∧ (q.isTest = false → n.pair.partner.isSome = true → m.rail.side = .agreeing ∧ m.rail.current = next))
            ∧ (n.pair.state = .unpaired → graded → (r.cls = .a ∨ r.cls = .b ∨ r.cls = .c) → r.cap.isSome = true → r.res.isSome = true →
                (∃ v, n.pos.view = some v ∧ ∃ x ∈ v, x.state = .free) → m.pair.state = .seeking ∨ m.pair.state = .proposing))
    ∧ (k = 3 → n.pres.state ≠ .active →
        exec (.hold h) ⟨n, w⟩ = .next ⟨({ n.heardFrom h.source with
          serv := { n.serv with lastResult := 49 } } : Node).rebuildPresence, w⟩)
    ∧ (k = 4 → n.pres.state ≠ .hold →
        exec (.resumeNode h) ⟨n, w⟩ = .next ⟨({ n.heardFrom h.source with
          serv := { n.serv with lastResult := 65 } } : Node).rebuildPresence, w⟩)

/-- REGRADE is accepted in ACTIVE or HOLD, graded or failed, unpaired: attempts 0, REGRADING or at once REST_A with its rest watch, the
watch of a SELFREST cancelled, the published copy kept, GRADE FAIL latched. A refusal gives node state before grading before paired
(R97, R112, R182, R183). -/
def Obligations.RegradeDecided : Prop :=
  ∀ (n : Node) (w : List Instr) (h : Heard) (a : Nat), n.Settled → n.hears .directive h (.directive a 1) →
    (a = 0 ∨ a = n.address) →
    let speaking : Prop := n.pres.state = .active ∨ n.pres.state = .hold
    let graded : Prop := n.grade.state = .graded ∨ n.grade.state = .selfRest ∨ n.grade.state = .failed
    let free : Prop := n.pair.state = .unpaired ∨ n.pair.state = .seeking
    (speaking → graded → free →
      ∃ m : Node, exec (.regrade h) ⟨n, w⟩ = .next ⟨m, w⟩ ∧ m.serv.lastResult = 16 ∧ m.grade.attempts = 0
        ∧ m.grade.state = (if n.pres.state = .active ∧ n.mon.tagState = .valid then .restA else .regrading)
        ∧ m.grade.published = n.grade.published ∧ m.grade.generation = n.grade.generation
        ∧ m.pair.state = .unpaired
        ∧ (n.grade.state = .failed → ∀ e ∈ m.serv.faults, e.code = .gradeFail → e.active = false)
        ∧ (n.pres.state = .active → n.mon.tagState = .valid → ∀ p, n.pres.plan = some p →
            m.mon.watchGrade = some { duration := p.restTime * 60000, sampled := false })
        ∧ (n.grade.state = .selfRest → n.pres.state = .hold ∨ n.mon.tagState ≠ .valid → m.mon.watchGrade = none)
        ∧ m.duty = n.duty ∧ m.pos = n.pos ∧ m.pres = n.pres)
    ∧ (∀ r, ((¬speaking ∧ r = 17) ∨ (speaking ∧ ¬graded ∧ r = 18) ∨ (speaking ∧ graded ∧ ¬free ∧ r = 19)) →
        exec (.regrade h) ⟨n, w⟩ = .next ⟨({ n.heardFrom h.source with
          serv := { n.serv with lastResult := r } } : Node).rebuildPresence, w⟩)

/-- DIRECTIVE_RELEASE of a bond in BOUND or JOINING dissolves it with cause DIRECTIVE, bars the former partner and opens the
contactor; without a bond, while leaving or in another node state it is refused with its reason (R154, R157, R160, R176,
R182). That the Position Manager's phase VACATING ends with the bond too is the model's choice (log entry 34), and that a couple in
VACATING already keeps its leave and counts it as one by directive (log entry 52). -/
def Obligations.DirectiveReleaseDecided : Prop :=
  ∀ (n : Node) (w : List Instr) (h : Heard) (a : Nat), n.Settled → n.hears .directive h (.directive a 2) →
    (a = 0 ∨ a = n.address) →
    let speaking : Prop := n.pres.state = .active ∨ n.pres.state = .hold
    (∀ x, n.pair.partner = some x → ∀ p, n.pres.plan = some p → speaking → n.bonded = true →
      ∃ m : Node, exec (.directiveRelease h) ⟨n, w⟩ = .next ⟨m, w⟩ ∧ m.serv.lastResult = 32
        ∧ m.pair.partner = none ∧ m.pair.state.single ∧ m.pair.lastCause = some 5 ∧ m.pair.barred = some x
        ∧ m.pair.barTimer = some (n.mon.now + p.proposalPeriod * 10000)
        ∧ (n.pos.phase.bonds = true → m.pos.phase = .none ∧ m.pos.position = none ∧ m.pos.contactor.drive = false)
        ∧ m.pres = n.pres)
    ∧ (∀ r, ((¬speaking ∧ r = 33) ∨ (speaking ∧ n.pair.state.single ∧ r = 36)
          ∨ (speaking ∧ n.pair.state = .leaving ∧ r = 37)) →
        exec (.directiveRelease h) ⟨n, w⟩ = .next ⟨({ n.heardFrom h.source with
          serv := { n.serv with lastResult := r } } : Node).rebuildPresence, w⟩)
    ∧ (speaking → n.pair.state = .joined → n.pos.phase = .inString →
        ∃ m : Node, exec (.directiveRelease h) ⟨n, w⟩ = .next ⟨m, w⟩ ∧ m.serv.lastResult = 32
          ∧ m.pos.phase = .vacating ∧ m.pos.leaveReason = .directive ∧ m.pair.byDirective = true
          ∧ m.pair.partner = n.pair.partner ∧ (m.pair.state = .joined ∨ m.pair.state = .leaving))
    ∧ (speaking → n.pair.state = .joined → n.pos.phase = .vacating →
        exec (.directiveRelease h) ⟨n, w⟩ = .next ⟨({ n.heardFrom h.source with
          pair := { (n.heardFrom h.source).pair with byDirective := true },
          serv := { n.serv with lastResult := 32 } } : Node).rebuildPresence, w⟩)

/-- CLEAR_FAULTS removes every latched entry in UNPLANNED, ACTIVE and HOLD where one is latched; otherwise it is refused, and
DIRECTIVE_UNKNOWN_KIND is refused as unknown with the result 7, in every node state that delivers it (the model's choice, log
entry 22). Nothing else changes (R179, R182, R183). -/
def Obligations.ClearFaultsAndUnknownKind : Prop :=
  ∀ (n : Node) (w : List Instr) (h : Heard) (a k : Nat), n.Settled → n.hears .directive h (.directive a k) →
    (a = 0 ∨ a = n.address) →
    let speaking : Prop := n.pres.state = .unplanned ∨ n.pres.state = .active ∨ n.pres.state = .hold
    (k = 5 → speaking → (∃ e ∈ n.serv.faults, e.active = false) →
      exec (.clearFaults h) ⟨n, w⟩ = .next ⟨({ n.heardFrom h.source with
        serv := { n.serv with faults := n.serv.faults.filter FaultEntry.active, lastResult := 80 } } : Node).rebuildPresence, w⟩)
    ∧ (∀ r, k = 5 → ((¬speaking ∧ r = 81) ∨ (speaking ∧ (∀ e ∈ n.serv.faults, e.active = true) ∧ r = 86)) →
        exec (.clearFaults h) ⟨n, w⟩ = .next ⟨({ n.heardFrom h.source with
          serv := { n.serv with lastResult := r } } : Node).rebuildPresence, w⟩)
    ∧ ((k = 0 ∨ 5 < k) →
        exec (.directiveUnknownKind h) ⟨n, w⟩ = .next ⟨({ n.heardFrom h.source with
          serv := { n.serv with lastResult := 7 } } : Node).rebuildPresence, w⟩)

/-! ### Laws of the device (tier 3) -/

/-- Every step keeps the transmit queue's law: at most 8 notices, highest priority first, at most one PRESENCE, GRADE and READOUT of
a part (R26, R27, R28). -/
def Obligations.StepKeepsQueueLaw : Prop :=
  ∀ s t : State, s.node.QueueLaw → step s = .next t → t.node.QueueLaw

/-- Every step keeps the rail view within pool and slots, with one record per id and each draw that of its units: whatever is heard, the
node never counts more on the rail than the plan allows; and a running TEST of its own has no end classification yet (R117, R118,
R119, R120, R122, R136). -/
def Obligations.StepKeepsRailLaw : Prop :=
  ∀ s t : State, step s = .next t → (s.node.RailLaw → t.node.RailLaw) ∧ (s.node.TestLaw → t.node.TestLaw)

/-- Every step keeps the converter's law: its setpoint is 0 unless the level that owns it is its holder and RUNNING; and PROTECT keeps
its direction OFF (R75, R77, R78, R87). -/
def Obligations.StepKeepsSetpointLaw : Prop :=
  ∀ s t : State, step s = .next t →
    (s.node.SetpointLaw → t.node.SetpointLaw) ∧ (s.node.ProtectLaw → t.node.ProtectLaw)

/-- Every step keeps the contactor's law: it is driven closed only while engaging, in the string or while leaving, with the pair state
that goes with the phase (R158, R164, R173, R175); and the pairing law: a partner from BOUND to LEAVING, and a node that seeks,
proposes, is bound or joining is graded (R47, R112, R145, R146, R162). -/
def Obligations.StepKeepsContactorLaw : Prop :=
  ∀ s t : State, step s = .next t →
    (s.node.ContactorLaw → t.node.ContactorLaw) ∧ (s.node.PairLaw → t.node.PairLaw)

/-- Every step keeps the peer table by rising address without station 0 and the node itself, the fault list at 8 entries of
different codes, the address of a node that is not stopped in 1..48, and the assembly buffer without a complete plan (R35, R39,
R48, R178). -/
def Obligations.StepKeepsTables : Prop :=
  ∀ s t : State, step s = .next t → (s.node.PeerLaw → t.node.PeerLaw) ∧ (s.node.FaultLaw → t.node.FaultLaw)
    ∧ (s.node.AddressLaw → t.node.AddressLaw) ∧ (s.node.AssemblyLaw → t.node.AssemblyLaw)

/-- Nothing but POWER_ON_RESET changes the station address, replaces a stored plan or leaves STRAPFAULT and CLASHED; a stopped node that
is silent stays silent (R28, R35, R36, R42, R45). -/
def Obligations.OnlyPowerOnResetUndoes : Prop :=
  ∀ (s t : State) (c : Instr) (rest : List Instr), s.pending = c :: rest → step s = .next t →
    (∀ straps tag, c ≠ .powerOnReset straps tag) →
    t.node.pres.address = s.node.pres.address
      ∧ (∀ p, s.node.pres.plan = some p → t.node.pres.plan = some p)
      ∧ (s.node.stopped → t.node.pres.state = s.node.pres.state)
      ∧ (s.node.SilenceLaw → t.node.SilenceLaw)

/-! ### Codes and figures -/

/-- What the Codec writes it reads back: the fields of a payload, with every value a field can carry at every code, are those parsed
from its bytes (R30, R31, R32, R34). -/
def Obligations.PayloadReadsBack : Prop :=
  ∀ fs : List (Nat × Value),
    (∀ f ∈ fs, f.1 ≤ 15 ∧ match f.2 with
      | .notKnown => True
      | .num k => k < 65536
      | .signed i => -128 ≤ i ∧ i ≤ 127
      | .fig g => 1 ≤ g.digits ∧ g.digits ≤ 7 ∧ g.point ≤ g.digits ∧ g.mag < 10 ^ g.digits
      | .list l => l.length ≤ 15 ∧ ∀ a ∈ l, a ≤ 48) →
    parse (encodeFields fs) = some fs

/-- A frame as a node sends it passes every check and is heard with its kind and source; with one payload bit inverted it is a receive
error, and neither frame has another verdict (R17, R18, R19, R23, R24). -/
def Obligations.FrameCheckGuards : Prop :=
  ∀ (q : Queued) (a : Nat), 1 ≤ a → a ≤ 48 → q.payload.length ≤ 40 →
    verdictOf (q.frame a) = .heard q.kind a
      ∧ ∀ (i j : Nat) (b : Byte), q.payload[i]? = some b → j < 8 →
          verdictOf { q.frame a with payload := q.payload.set i (b ^^^ (1#8 <<< j)) } = .error

/-- Rounding is to the nearest whole number of the exact value, a half to the one of greater magnitude; and at the last kept digit of
a shape the exact value times 10^p is rounded so, once, to the signed magnitude in that shape (R5). -/
def Obligations.RoundsHalfAwayFromZero : Prop :=
  (∀ (num : Int) (den : Nat), 0 < den →
      2 * (roundHalfUp num den * den - num).natAbs ≤ den
        ∧ (2 * (roundHalfUp num den * den - num).natAbs = den → num.natAbs < (roundHalfUp num den * den).natAbs)
        ∧ roundHalfUp (-num) den = -roundHalfUp num den)
    ∧ ∀ (k : FigKind) (f : Fig), k ≠ .soc →
        let r := roundHalfUp (f.int * (10 ^ k.point : Nat)) (10 ^ f.point)
        r.natAbs < 10 ^ k.digits → (0 ≤ r ∨ k.signed = true) →
        (rescale k f).int = r ∧ (rescale k f).point = k.point ∧ (rescale k f).digits = k.digits

/-- A criterion compares the record's figure with the limit by exact values, whatever their marks, and is false where the figure is
absent. A chain sets its verdict by its first criterion and combines each later one by its operation; an empty chain is false
(R13, R14, R109). -/
def Obligations.ChainsCombineInOrder : Prop :=
  (∀ r : Record, chainResult r [] = false)
    ∧ (∀ (r : Record) (c : Criterion), r.fig c.kind = none → c.value r = false)
    ∧ (∀ (r : Record) (c : Criterion) (cs : List Criterion), chainResult r (c :: cs) = verdictFrom r (c.value r) cs)
    ∧ ∀ (r : Record) (c : Criterion) (f : Fig), r.fig c.kind = some f →
        let figure : Int := f.int * (10 ^ c.limit.point : Nat)
        let limit : Int := c.limit.int * (10 ^ f.point : Nat)
        (c.value r = true ↔ if c.atLeast = true then limit ≤ figure else figure ≤ limit)
end

