-- ==== Sys2Proof/Laws/Contents.lean ====
section
/-! SUPPORT. What the node hands and stores, said once by the tables of the manual: the content of its PRESENCE (R47) and
of its READOUT parts (R181), and the plan that a complete set of parts makes (R40, R41). -/

namespace Sys2Proof.Machine

/-! ### PRESENCE and READOUT -/

/-- The queued PRESENCE carries the fields of R47. -/
theorem Node.presence_eq (n : Node) : n.presence = n.presenceContent := by
  have hp : n.pos.stated = if n.statesPosition then n.pos.position else none := by
    unfold Positions.stated
    split <;> simp_all [Node.statesPosition, Phase.joining]
  unfold Node.presence presenceFields Node.presenceContent
  rw [hp]
  rcases ho : n.rail.own with - | o
  · simp [Node.statement, ho, statementFields, Node.soc, Service.active, bit]
  · rcases hq : n.pres.plan with - | p
    · simp [Node.statement, ho, hq, statementFields, Node.soc, Service.active, bit]
    · cases hi : o.initiator <;> cases hf : o.flagOwn <;> cases hg : o.flagOther <;>
        simp [Node.statement, ho, hq, statementFields, Node.soc, Service.active, bit, OwnRecord.role, OwnRecord.statement, drawOf, hi, hf, hg]

/-- A level context is numbered as R181 says. -/
theorem Level.number_eq (l : Level) : l.number = l.context := by
  unfold Level.number Level.context
  cases l.state <;> cases l.dir <;> rfl

/-- READOUT part 0 carries the fields of R181. -/
theorem Node.readout0_eq (n : Node) : n.readout0 = n.part0Content := rfl

/-- READOUT part 1 carries the fields of R181. -/
theorem Node.readout1_eq (n : Node) : n.readout1 = n.part1Content := by
  rcases ho : n.rail.own with - | o
  · simp [Node.readout1, Node.part1Content, Level.number_eq, numField, ho]
  · cases hi : o.initiator <;> cases hf : o.flagOwn <;> cases hg : o.flagOther <;>
      simp [Node.readout1, Node.part1Content, Level.number_eq, numField, ho, OwnRecord.role, bit, hi, hf, hg]

/-- READOUT part 2 carries the fields of R181. -/
theorem Node.readout2_eq (n : Node) (asked : Option Nat) : n.readout2 asked = n.part2Content asked := by
  rcases asked with - | a <;> rcases hp : n.pair.partner with - | x <;>
    cases hc : n.pos.contactor.position <;> cases hw : n.pos.switch.position <;> cases hs : n.pair.silent <;>
    simp [Node.readout2, Node.part2Content, Node.peerFields, numField, bit, hp, hc, hw, hs, Option.map_bind]

/-- The eight first-seen times stand in the order of the entries. -/
theorem timeFields_eq (k code : Nat) (ts : List Nat) :
    timeFields k code ts = (List.range k).map fun i => (code + i, optNum ts[i]?) := by
  induction k generalizing code ts with
  | zero => rfl
  | succ k ih =>
    cases ts <;> simp [timeFields, ih, List.range_succ_eq_map, optNum, Nat.add_comm, Nat.add_left_comm, Function.comp_def]

/-- READOUT part 3 carries the fields of R181. -/
theorem Node.readout3_eq (n : Node) : n.readout3 = n.part3Content := by
  simp [Node.readout3, Node.part3Content, timeFields_eq, numField, -List.map_append]

/-! ### The plan check (R40, R41) -/

theorem repeated_eq_false (l : List Nat) : repeated l = false ↔ l.Nodup := by
  induction l with
  | nil => simp [repeated]
  | cons x xs ih => simp [repeated, ih]

/-- No section but the weight codes gives an item twice. -/
theorem givenTwice_eq_false (ps : List PlanPart) :
    givenTwice ps = false ↔ ∀ s, s ≤ 14 → s ≠ 3 → ((itemsOf ps s).map Prod.fst).Nodup := by
  simp only [givenTwice, List.any_eq_false, List.mem_range]
  constructor
  · intro h s hs h3
    rw [← repeated_eq_false]
    simpa [h3] using h s (by omega)
  · intro h s hs
    by_cases h3 : s = 3
    · simp [h3]
    · simp [(repeated_eq_false _).2 (h s (by omega) h3)]

theorem itemIn_eq_some {items : List (Nat × Value)} {code lo hi v : Nat} :
    itemIn items code lo hi = some v ↔ numberIs items code lo hi v := by
  unfold itemIn numberIs
  rcases numAt items code with - | t
  · simp
  · simp only [Option.some.injEq]
    split <;> simp <;> omega

theorem itemOneOf_eq_some {items : List (Nat × Value)} {code v : Nat} {values : List Nat} :
    itemOneOf items code values = some v ↔ numAt items code = some v ∧ v ∈ values := by
  unfold itemOneOf
  rcases numAt items code with - | t
  · simp
  · simp only [Option.some.injEq]
    split <;> simp_all <;> rintro rfl <;> assumption

theorem timerItem_eq_some {items : List (Nat × Value)} {code lo hi v : Nat} :
    timerItem items code lo hi = some v ↔ timerIs items code lo hi v := by
  simp [timerItem, timerIs, eq_comm]

theorem allSome_eq_some {α : Type} {l : List (Option α)} {r : List α} : allSome l = some r ↔ l = r.map some := by
  induction l generalizing r with
  | nil => cases r <;> simp [allSome]
  | cons x xs ih =>
    rcases x with - | x
    · cases r <;> simp [allSome]
    · cases r <;> simp [allSome, ih, and_comm]

theorem risingFigs_iff (l : List Fig) : risingFigs l = true ↔ l.Pairwise fun f g => f.mag < g.mag := by
  induction l with
  | nil => simp [risingFigs]
  | cons x xs ih =>
    rcases xs with - | ⟨y, ys⟩
    · simp [risingFigs]
    · simp only [risingFigs, Bool.and_eq_true, decide_eq_true_eq, ih, List.pairwise_cons, List.mem_cons, forall_eq_or_imp]
      constructor
      · rintro ⟨hxy, hy, h⟩
        exact ⟨⟨hxy, fun z hz => hxy.trans (hy z hz)⟩, hy, h⟩
      · rintro ⟨⟨hxy, -⟩, hy, h⟩
        exact ⟨hxy, hy, h⟩

theorem figItem_eq_some {items : List (Nat × Value)} {code : Nat} {f : Fig} : figItem items code = some f ↔ figureIs items code f := by
  unfold figItem figureIs
  split <;> simp_all

theorem map_figItem {items : List (Nat × Value)} {codes : List Nat} {l : List Fig} :
    codes.map (figItem items) = l.map some ↔ codes.map (fun c => standing c items) = l.map fun f => some (.fig f) := by
  induction codes generalizing l with
  | nil => cases l <;> simp
  | cons c cs ih => cases l <;> simp [ih, figItem_eq_some]

theorem pointsOf_eq_some {items : List (Nat × Value)} {l : List Fig} :
    pointsOf items = some l ↔ (List.range 11).map (fun k => standing (5 + k) items) = l.map (fun g => some (.fig g))
      ∧ l.Pairwise fun g g' => g.mag < g'.mag := by
  have hr : (List.range 11).map (fun k => standing (5 + k) items)
      = [5, 6, 7, 8, 9, 10, 11, 12, 13, 14, 15].map fun c => standing c items := rfl
  rw [hr, ← map_figItem, ← allSome_eq_some, ← risingFigs_iff]
  unfold pointsOf
  rcases allSome _ with - | r
  · simp
  · simp only [Option.some.injEq]
    split <;> simp_all <;> rintro rfl <;> assumption

/-- `profileOf` makes a profile exactly where the sections are sound, and that one. -/
theorem profileOf_eq_some {limits points : List (Nat × Value)} {f : Profile} :
    profileOf limits points = some f ↔ profileSound limits points f := by
  unfold profileSound
  rw [← pointsOf_eq_some, ← itemIn_eq_some]
  simp only [← figItem_eq_some]
  unfold profileOf
  constructor
  · intro h
    split at h
    · split at h
      · split at h
        · cases h; simp_all
        · cases h
      · cases h
    · cases h
  · rintro ⟨h1, h2, h3, h4, h5, h6, h7, h8, h9, h10⟩
    simp [h1, h2, h3, h4, h5, h6, h7, h8, h9, h10]

theorem profilePresent_iff (ps : List PlanPart) (i : Nat) :
    profilePresent ps i = true ↔ ∃ x ∈ ps, x.sect = 4 + i ∨ x.sect = 8 + i := by
  simp [profilePresent]

theorem eq_four_of_length {α : Type} {l : List α} (h : l.length = 4) : ∃ a b c d, l = [a, b, c, d] := by
  match l, h with
  | [a, b, c, d], _ => exact ⟨a, b, c, d, rfl⟩

/-- `profilesOf` makes the four profiles exactly where each present one is sound, and those. -/
theorem profilesOf_eq_some {ps : List PlanPart} {fs : List (Option Profile)} :
    profilesOf ps = some fs ↔ profilesSound ps fs := by
  let one (i : Nat) : Option (Option Profile) :=
    if profilePresent ps i then (profileOf (itemsOf ps (4 + i)) (itemsOf ps (8 + i))).map some else some none
  have hone (i : Nat) (x : Option Profile) : one i = some x ↔
      (((∀ y ∈ ps, y.sect ≠ 4 + i ∧ y.sect ≠ 8 + i) → x = none)
        ∧ ((∃ y ∈ ps, y.sect = 4 + i ∨ y.sect = 8 + i) →
            ∃ f, x = some f ∧ profileSound (itemsOf ps (4 + i)) (itemsOf ps (8 + i)) f)) := by
    simp only [one, ← profileOf_eq_some, ← profilePresent_iff]
    have hn : (∀ y ∈ ps, y.sect ≠ 4 + i ∧ y.sect ≠ 8 + i) ↔ profilePresent ps i = false := by
      rw [← Bool.not_eq_true, profilePresent_iff]; push Not; rfl
    rw [hn]
    cases profilePresent ps i
    · simp [eq_comm]
    · simp [eq_comm, and_comm]
  have hl : profilesOf ps = some fs ↔ allSome ([0, 1, 2, 3].map one) = some fs ∧ fs.any Option.isSome = true := by
    show (match allSome ([0, 1, 2, 3].map one) with
      | some l => if l.any Option.isSome then some l else none
      | none => none) = some fs ↔ _
    rcases allSome _ with - | l
    · simp
    · simp only [Option.some.injEq]
      split
      · rename_i ha
        simp only [Option.some.injEq]
        exact ⟨by rintro rfl; exact ⟨rfl, ha⟩, fun h => h.1⟩
      · rename_i ha
        exact ⟨by simp, by rintro ⟨rfl, h⟩; exact absurd h ha⟩
  rw [hl, allSome_eq_some]
  unfold profilesSound
  constructor
  · rintro ⟨h, ha⟩
    have hlen : fs.length = 4 := by simpa using (congrArg List.length h).symm
    obtain ⟨a, b, c, d, rfl⟩ := eq_four_of_length hlen
    simp only [List.map_cons, List.map_nil, List.cons.injEq, and_true] at h
    obtain ⟨h0, h1, h2, h3⟩ := h
    refine ⟨rfl, ?_, fun i hi => ?_⟩
    · obtain ⟨x, hx, hs⟩ := List.any_eq_true.1 ha
      obtain ⟨f, rfl⟩ := Option.isSome_iff_exists.1 hs
      exact ⟨f, hx⟩
    · rcases i with - | - | - | - | i
      · simpa only [List.getElem?_cons_zero, Option.some.injEq] using (hone 0 a).1 h0
      · simpa only [List.getElem?_cons_zero, List.getElem?_cons_succ, Option.some.injEq] using (hone 1 b).1 h1
      · simpa only [List.getElem?_cons_zero, List.getElem?_cons_succ, Option.some.injEq] using (hone 2 c).1 h2
      · simpa only [List.getElem?_cons_zero, List.getElem?_cons_succ, Option.some.injEq] using (hone 3 d).1 h3
      · omega
  · rintro ⟨hlen, ⟨f, hf⟩, h⟩
    obtain ⟨a, b, c, d, rfl⟩ := eq_four_of_length hlen
    have h0 := (hone 0 a).2 (by simpa only [List.getElem?_cons_zero, Option.some.injEq] using h 0 (by omega))
    have h1 := (hone 1 b).2 (by simpa only [List.getElem?_cons_zero, List.getElem?_cons_succ, Option.some.injEq] using h 1 (by omega))
    have h2 := (hone 2 c).2 (by simpa only [List.getElem?_cons_zero, List.getElem?_cons_succ, Option.some.injEq] using h 2 (by omega))
    have h3 := (hone 3 d).2 (by simpa only [List.getElem?_cons_zero, List.getElem?_cons_succ, Option.some.injEq] using h 3 (by omega))
    refine ⟨?_, List.any_eq_true.2 ⟨_, hf, rfl⟩⟩
    rw [List.map_cons, List.map_cons, List.map_cons, List.map_cons, List.map_nil, h0, h1, h2, h3]
    rfl

/-! #### Weight codes -/

theorem weightsFrom_eq (a : Nat) (l : List Nat) : weightsFrom a l = (l.zipIdx a).map fun c => (c.2, c.1) := by
  induction l generalizing a with
  | nil => rfl
  | cons w ws ih => simp [weightsFrom, ih]

theorem weightsFrom_first {a : Nat} {l : List Nat} {c : Nat × Nat} (h : c ∈ weightsFrom a l) : a ≤ c.1 := by
  induction l generalizing a with
  | nil => cases h
  | cons w ws ih =>
    rcases List.mem_cons.1 h with rfl | h
    · exact Nat.le_refl _
    · exact Nat.le_of_succ_le (ih h)

/-- A part of the weight codes gives a first node and a list of at least one code. -/
abbrev PlanPart.weighs (x : PlanPart) : Prop :=
  (∃ a, numberIs x.items 5 1 48 a) ∧ ∃ l, listAt x.items 6 = some l ∧ l ≠ []

theorem partWeights_eq_some {x : PlanPart} {ws : List (Nat × Nat)} :
    partWeights x = some ws ↔ x.weighs ∧ ws = x.codes := by
  unfold partWeights PlanPart.weighs PlanPart.codes
  simp only [← itemIn_eq_some]
  constructor
  · intro h
    split at h
    · rename_i a l ha hl
      split at h
      · cases h
        refine ⟨⟨⟨a, ha⟩, l, hl, by rintro rfl; simp at *⟩, ?_⟩
        simp [hl, (itemIn_eq_some.1 ha).1, weightsFrom_eq]
      · cases h
    · cases h
  · rintro ⟨⟨⟨a, ha⟩, l, hl, hne⟩, rfl⟩
    have : 1 ≤ l.length := List.length_pos_iff.2 hne
    simp [ha, hl, this, (itemIn_eq_some.1 ha).1, weightsFrom_eq]

theorem allWeights_eq_some {ps : List PlanPart} {ws : List (Nat × Nat)} :
    allWeights ps = some ws ↔ (∀ x ∈ ps, x.weighs) ∧ ws = ps.flatMap PlanPart.codes := by
  induction ps generalizing ws with
  | nil => simp [allWeights, eq_comm]
  | cons p ps ih =>
    unfold allWeights
    constructor
    · intro h
      split at h
      · rename_i a b ha hb
        cases h
        have h1 := partWeights_eq_some.1 ha
        have h2 := ih.1 hb
        exact ⟨by simpa using ⟨h1.1, h2.1⟩, by simp [h1.2, h2.2]⟩
      · cases h
    · rintro ⟨h, rfl⟩
      have h1 := partWeights_eq_some.2 ⟨h p (by simp), rfl⟩
      have h2 := ih.2 ⟨fun x hx => h x (by simp [hx]), rfl⟩
      simp [h1, h2]

/-- Codes for the nodes 1..N, each at most 7: no address twice and N of them, or each node once. -/
theorem weightsFit_iff {n : Nat} {ws : List (Nat × Nat)} (hpos : ∀ c ∈ ws, 1 ≤ c.1) :
    weightsFit n ws = true ↔ (∀ c ∈ ws, c.1 ≤ n ∧ c.2 ≤ 7) ∧ ∀ a, 1 ≤ a → a ≤ n → (ws.filter fun c => c.1 == a).length = 1 := by
  have hcount (a : Nat) : (ws.filter fun c => c.1 == a).length = (ws.map Prod.fst).count a := by
    rw [← List.countP_eq_length_filter, List.count, List.countP_map]; rfl
  have hfit : weightsFit n ws = true ↔ (∀ c ∈ ws, c.1 ≤ n ∧ c.2 ≤ 7) ∧ (ws.map Prod.fst).Nodup ∧ (ws.map Prod.fst).length = n := by
    rw [← repeated_eq_false]
    simp [weightsFit, and_assoc]
  rw [hfit]
  simp only [hcount]
  refine and_congr_right fun hle => ?_
  have hsub : (ws.map Prod.fst) ⊆ List.range' 1 n := fun a ha => by
    obtain ⟨c, hc, rfl⟩ := List.mem_map.1 ha
    have := hpos c hc
    have := (hle c hc).1
    rw [List.mem_range'_1]; omega
  constructor
  · rintro ⟨hn, hlen⟩ a h1 h2
    have hp : (ws.map Prod.fst).Perm (List.range' 1 n) := (hn.subperm hsub).perm_of_length_le (by simp [hlen])
    exact List.count_eq_one_of_mem hn (hp.mem_iff.2 (by rw [List.mem_range'_1]; omega))
  · intro h
    have hp : (ws.map Prod.fst).Perm (List.range' 1 n) := by
      rw [List.perm_iff_count]
      intro a
      by_cases ha : a ∈ List.range' 1 n
      · rw [List.count_eq_one_of_mem List.nodup_range' ha]
        rw [List.mem_range'_1] at ha
        exact h a (by omega) (by omega)
      · rw [List.count_eq_zero_of_not_mem ha, List.count_eq_zero_of_not_mem fun hm => ha (hsub hm)]
    exact ⟨hp.nodup_iff.2 List.nodup_range', by simpa using hp.length_eq⟩

/-! #### Chains -/

theorem criterionKind_eq_some {k : Nat} {kind : FigKind} :
    criterionKind k = some kind ↔ 1 ≤ k ∧ [FigKind.cap, .res, .hlt, .sdr, .ocv, .tmp][k - 1]? = some kind := by
  match k with
  | 0 => simp [criterionKind]
  | 1 => simp [criterionKind]
  | 2 => simp [criterionKind]
  | 3 => simp [criterionKind]
  | 4 => simp [criterionKind]
  | 5 => simp [criterionKind]
  | 6 => simp [criterionKind]
  | k + 7 => simp [criterionKind]

theorem chainOpOf_eq_some {k : Nat} {op : ChainOp} :
    chainOpOf k = some op ↔ [ChainOp.load, .and, .or, .andNot, .orNot][k]? = some op := by
  match k with
  | 0 => simp [chainOpOf]
  | 1 => simp [chainOpOf]
  | 2 => simp [chainOpOf]
  | 3 => simp [chainOpOf]
  | 4 => simp [chainOpOf]
  | k + 5 => simp [chainOpOf]

theorem criterionOf_eq_some {k r o : Nat} {limit : Option Fig} {x : Criterion} :
    criterionOf k r o limit = some x ↔ criterionKind k = some x.kind ∧ r = (if x.atLeast = true then 0 else 1)
      ∧ chainOpOf o = some x.op ∧ ∃ f, limit = some f ∧ x.limit = rescale x.kind f := by
  unfold criterionOf
  constructor
  · intro h
    split at h
    · rename_i kind op f hk ho
      split at h
      · cases h
        refine ⟨hk, ?_, ho, f, rfl, rfl⟩
        rcases r with - | r
        · rfl
        · simp; omega
      · cases h
    · cases h
  · rintro ⟨hk, rfl, ho, f, rfl, hl⟩
    obtain ⟨kind, atLeast, op, lim⟩ := x
    simp only at hk ho hl
    subst hl
    cases atLeast <;> simp [hk, ho]

theorem criteria_eq_some {items : List (Nat × Value)} {c : Nat} {ks rs os : List Nat} {l : List Criterion} :
    criteria items c ks rs os = some l ↔ ks.length = l.length ∧ rs.length = l.length ∧ os.length = l.length
      ∧ ∀ i x, l[i]? = some x → ∃ k r o, ks[i]? = some k ∧ rs[i]? = some r ∧ os[i]? = some o
          ∧ criterionOf k r o (figItem items (c + i)) = some x := by
  induction ks generalizing c rs os l with
  | nil =>
    rcases rs with - | ⟨r, rs⟩ <;> rcases os with - | ⟨o, os⟩ <;> rcases l with - | ⟨x, l⟩ <;> simp [criteria]
  | cons k ks ih =>
    rcases rs with - | ⟨r, rs⟩
    · rcases l with - | ⟨x, l⟩ <;> simp [criteria]
    rcases os with - | ⟨o, os⟩
    · rcases l with - | ⟨x, l⟩ <;> simp [criteria]
    rcases l with - | ⟨x, l⟩
    · simp only [criteria, List.length_cons, List.length_nil, Nat.add_eq_zero_iff, one_ne_zero, and_false, false_and, iff_false]
      split <;> simp
    have hstep : criteria items c (k :: ks) (r :: rs) (o :: os) = some (x :: l) ↔
        criterionOf k r o (figItem items c) = some x ∧ criteria items (c + 1) ks rs os = some l := by
      clear ih
      simp only [criteria]
      split <;> simp_all
    rw [hstep, ih]
    constructor
    · rintro ⟨h0, h1, h2, h3, h⟩
      refine ⟨by simp [h1], by simp [h2], by simp [h3], fun i y hy => ?_⟩
      rcases i with - | i
      · cases hy
        exact ⟨k, r, o, rfl, rfl, rfl, h0⟩
      · simpa [Nat.add_assoc, Nat.add_comm 1] using h i y (by simpa using hy)
    · rintro ⟨h1, h2, h3, h⟩
      refine ⟨?_, by simpa using h1, by simpa using h2, by simpa using h3, fun i y hy => ?_⟩
      · obtain ⟨k', r', o', hk, hr, ho, hx⟩ := h 0 x rfl
        cases hk; cases hr; cases ho
        exact hx
      · simpa [Nat.add_assoc, Nat.add_comm 1] using h (i + 1) y (by simpa using hy)

/-- `chainOf` makes a chain exactly where its section is sound, and that one. -/
theorem chainOf_eq_some {items : List (Nat × Value)} {l : List Criterion} : chainOf items = some l ↔ chainSound items l := by
  have hc : chainOf items = some l ↔ ((listAt items 5).getD []).length ≤ 6
      ∧ criteria items 8 ((listAt items 5).getD []) ((listAt items 6).getD []) ((listAt items 7).getD []) = some l := by
    simp only [chainOf]
    split <;> simp_all
  rw [hc, criteria_eq_some]
  simp only [chainSound, criterionOf_eq_some, criterionKind_eq_some, chainOpOf_eq_some, figItem_eq_some]
  constructor
  · rintro ⟨h6, h1, h2, h3, h⟩
    refine ⟨by omega, h1, h2, h3, fun i x hx => ?_⟩
    obtain ⟨k, r, o, hk, hr, ho, ⟨hk1, hk2⟩, rfl, hop, hf⟩ := h i x hx
    exact ⟨⟨k, hk, hk1, hk2⟩, hr, ⟨o, ho, hop⟩, hf⟩
  · rintro ⟨h6, h1, h2, h3, h⟩
    refine ⟨by omega, h1, h2, h3, fun i x hx => ?_⟩
    obtain ⟨⟨k, hk, hk1, hk2⟩, hr, ⟨o, ho, hop⟩, hf⟩ := h i x hx
    exact ⟨k, _, o, hk, hr, ho, ⟨hk1, hk2⟩, rfl, hop, hf⟩

/-! #### The check -/

/-- `planOf` makes the plan of its sections exactly where every item of the sections 0 to 2 is sound and the weight codes fit. -/
theorem planOf_eq_some {identity : Nat} {rack rail timers : List (Nat × Value)} {ws : List (Nat × Nat)} {fs : List (Option Profile)}
    {a b c : List Criterion} {p : Plan} :
    planOf identity rack rail timers ws fs a b c = some p ↔
      p.identity = identity ∧ p.weights = ws ∧ p.profiles = fs ∧ p.chainA = a ∧ p.chainB = b ∧ p.chainC = c
      ∧ itemIn rack 5 1 48 = some p.roster ∧ itemOneOf rack 6 [2, 4, 6, 8, 10, 12, 14, 16] = some p.rowLength
      ∧ itemIn rack 7 8 96 = some p.capacity ∧ itemIn rack 8 0 4 = some p.share ∧ itemIn rack 9 2 16 = some p.slots
      ∧ itemOneOf rack 10 [0, 1, 2, 4] = some p.offerCount ∧ itemIn rack 11 20 60 = some p.testDepth
      ∧ itemIn rack 12 1 8 = some p.testUnits ∧ itemIn rack 13 2 10 = some p.pulseCurrent
      ∧ itemIn rack 14 0 1 = some p.classDistance
      ∧ itemIn rail 5 20 500 = some p.joinWindow ∧ itemIn rail 6 1 8 = some p.joinMax
      ∧ itemOneOf rail 7 [0, 25, 50, 75] = some p.releaseFraction ∧ itemIn rail 8 10 40 = some p.serveLow
      ∧ itemIn rail 9 60 90 = some p.serveHigh ∧ itemIn rail 10 0 15 = some p.wQ ∧ itemIn rail 11 0 15 = some p.wR
      ∧ itemIn rail 12 0 30000 = some p.maxScore
      ∧ timerItem timers 6 3 10 = some p.lifetimeCount ∧ timerItem timers 7 20 500 = some p.offerWindow
      ∧ timerItem timers 8 1 10 = some p.proposalPeriod ∧ timerItem timers 9 200 2000 = some p.quietWindow
      ∧ timerItem timers 10 1 30 = some p.suspendHold ∧ timerItem timers 11 10 60 = some p.restTime
      ∧ timerItem timers 12 24 168 = some p.selfRest ∧ timerItem timers 13 10 120 = some p.joinSettle
      ∧ p.presencePeriod = (timerItem timers 5 200 2000).getD 500
      ∧ p.roster * p.share + 2 ≤ p.capacity ∧ weightsFit p.roster ws = true := by
  constructor
  · intro h
    unfold planOf at h
    obtain ⟨_, h5, h⟩ := Option.bind_eq_some_iff.1 h
    obtain ⟨_, h6, h⟩ := Option.bind_eq_some_iff.1 h
    obtain ⟨_, h7, h⟩ := Option.bind_eq_some_iff.1 h
    obtain ⟨_, h8, h⟩ := Option.bind_eq_some_iff.1 h
    obtain ⟨_, h9, h⟩ := Option.bind_eq_some_iff.1 h
    obtain ⟨_, h10, h⟩ := Option.bind_eq_some_iff.1 h
    obtain ⟨_, h11, h⟩ := Option.bind_eq_some_iff.1 h
    obtain ⟨_, h12, h⟩ := Option.bind_eq_some_iff.1 h
    obtain ⟨_, h13, h⟩ := Option.bind_eq_some_iff.1 h
    obtain ⟨_, h14, h⟩ := Option.bind_eq_some_iff.1 h
    obtain ⟨_, k5, h⟩ := Option.bind_eq_some_iff.1 h
    obtain ⟨_, k6, h⟩ := Option.bind_eq_some_iff.1 h
    obtain ⟨_, k7, h⟩ := Option.bind_eq_some_iff.1 h
    obtain ⟨_, k8, h⟩ := Option.bind_eq_some_iff.1 h
    obtain ⟨_, k9, h⟩ := Option.bind_eq_some_iff.1 h
    obtain ⟨_, k10, h⟩ := Option.bind_eq_some_iff.1 h
    obtain ⟨_, k11, h⟩ := Option.bind_eq_some_iff.1 h
    obtain ⟨_, k12, h⟩ := Option.bind_eq_some_iff.1 h
    obtain ⟨_, t6, h⟩ := Option.bind_eq_some_iff.1 h
    obtain ⟨_, t7, h⟩ := Option.bind_eq_some_iff.1 h
    obtain ⟨_, t8, h⟩ := Option.bind_eq_some_iff.1 h
    obtain ⟨_, t9, h⟩ := Option.bind_eq_some_iff.1 h
    obtain ⟨_, t10, h⟩ := Option.bind_eq_some_iff.1 h
    obtain ⟨_, t11, h⟩ := Option.bind_eq_some_iff.1 h
    obtain ⟨_, t12, h⟩ := Option.bind_eq_some_iff.1 h
    obtain ⟨_, t13, h⟩ := Option.bind_eq_some_iff.1 h
    split at h
    · rename_i hc
      cases h
      exact ⟨rfl, rfl, rfl, rfl, rfl, rfl, h5, h6, h7, h8, h9, h10, h11, h12, h13, h14, k5, k6, k7, k8, k9, k10, k11, k12,
        t6, t7, t8, t9, t10, t11, t12, t13, rfl, hc.1, hc.2⟩
    · cases h
  · rintro ⟨rfl, rfl, rfl, rfl, rfl, rfl, h5, h6, h7, h8, h9, h10, h11, h12, h13, h14, k5, k6, k7, k8, k9, k10, k11, k12,
      t6, t7, t8, t9, t10, t11, t12, t13, hp, hr, hw⟩
    simp only [planOf, Option.bind_eq_bind, h5, h6, h7, h8, h9, h10, h11, h12, h13, h14, k5, k6, k7, k8, k9, k10, k11, k12,
      t6, t7, t8, t9, t10, t11, t12, t13, Option.bind_some, hr, hw, and_self, if_true, ← hp]

theorem even_to_sixteen (v : Nat) : v ∈ [2, 4, 6, 8, 10, 12, 14, 16] ↔ (2 ≤ v ∧ v ≤ 16) ∧ v % 2 = 0 := by
  simp only [List.mem_cons, List.not_mem_nil, or_false]; omega

theorem offer_counts (v : Nat) : v ∈ [0, 1, 2, 4] ↔ (0 ≤ v ∧ v ≤ 4) ∧ v ≠ 3 := by
  simp only [List.mem_cons, List.not_mem_nil, or_false]; omega

theorem release_fractions (v : Nat) : v ∈ [0, 25, 50, 75] ↔ (0 ≤ v ∧ v ≤ 75) ∧ v % 25 = 0 := by
  simp only [List.mem_cons, List.not_mem_nil, or_false]; omega

theorem presencePeriod_iff (timers : List (Nat × Value)) (v : Nat) :
    v = (timerItem timers 5 200 2000).getD 500 ↔
      timerIs timers 5 200 2000 v ∨ (numAt timers 5 = none ∧ v = 500) := by
  unfold timerItem timerIs
  rcases numAt timers 5 with - | t <;> simp

/-- `checkPlan` makes the plan that R40 and R41 say, and makes one exactly where they say that there is one. -/
theorem checkPlan_eq_some {identity : Nat} {ps : List PlanPart} {p : Plan} :
    checkPlan identity ps = some p ↔ PlanSound identity ps p := by
  have hsect : (ps.any fun x => decide (14 < x.sect)) = false ↔ ∀ x ∈ ps, x.sect ≤ 14 := by simp
  have hcodes (ws : List (Nat × Nat)) : allWeights (sectionParts ps 3) = some ws ↔
      (∀ x ∈ ps, x.sect = 3 → x.weighs) ∧ ws = (ps.filter fun x => x.sect == 3).flatMap PlanPart.codes := by
    rw [allWeights_eq_some]
    simp [sectionParts]
  have hpos (ws : List (Nat × Nat)) (h : allWeights (sectionParts ps 3) = some ws) : ∀ c ∈ ws, 1 ≤ c.1 := by
    obtain ⟨hw, rfl⟩ := allWeights_eq_some.1 h
    intro c hc
    obtain ⟨x, hx, hc⟩ := List.mem_flatMap.1 hc
    obtain ⟨⟨a, ha⟩, l, hl, -⟩ := hw x hx
    simp only [PlanPart.codes, ha.1, hl, Option.getD_some, ← weightsFrom_eq] at hc
    exact ha.2.1.trans (weightsFrom_first hc)
  have hcheck : checkPlan identity ps = some p ↔
      (ps.any fun x => decide (14 < x.sect)) = false ∧ givenTwice ps = false
      ∧ ∃ ws fs a b c, allWeights (sectionParts ps 3) = some ws ∧ profilesOf ps = some fs ∧ chainOf (itemsOf ps 12) = some a
        ∧ chainOf (itemsOf ps 13) = some b ∧ chainOf (itemsOf ps 14) = some c
        ∧ planOf identity (itemsOf ps 0) (itemsOf ps 1) (itemsOf ps 2) ws fs a b c = some p := by
    unfold checkPlan
    cases (ps.any fun x => decide (14 < x.sect)) <;> cases givenTwice ps <;> simp
    rcases allWeights (sectionParts ps 3) with - | ws <;> rcases profilesOf ps with - | fs <;> simp
    rcases chainOf (itemsOf ps 12) with - | a <;> rcases chainOf (itemsOf ps 13) with - | b <;>
      rcases chainOf (itemsOf ps 14) with - | c <;> simp
  rw [hcheck, hsect, givenTwice_eq_false]
  constructor
  · rintro ⟨hs, ho, ws, fs, a, b, c, hw, hf, ha, hb, hc, h⟩
    obtain ⟨h1, rfl, rfl, rfl, rfl, rfl, h5, h6, h7, h8, h9, h10, h11, h12, h13, h14, k5, k6, k7, k8, k9, k10, k11, k12,
      t6, t7, t8, t9, t10, t11, t12, t13, hp, hr, hfit⟩ := planOf_eq_some.1 h
    have hws := (hcodes _).1 hw
    have hfit := (weightsFit_iff (hpos _ hw)).1 hfit
    simp only [itemIn_eq_some, itemOneOf_eq_some] at h5 h6 h7 h8 h9 h10 h11 h12 h13 h14 k5 k6 k7 k8 k9 k10 k11 k12
    simp only [timerItem_eq_some] at t6 t7 t8 t9 t10 t11 t12 t13
    exact {
      identity_eq := h1, sections := hs, itemsOnce := ho, roster := h5
      rowLength := ⟨⟨h6.1, ((even_to_sixteen _).1 h6.2).1⟩, ((even_to_sixteen _).1 h6.2).2⟩
      capacity := h7, share := h8, slots := h9
      offerCount := ⟨⟨h10.1, ((offer_counts _).1 h10.2).1⟩, ((offer_counts _).1 h10.2).2⟩
      testDepth := h11, testUnits := h12, pulseCurrent := h13, classDistance := h14, joinWindow := k5, joinMax := k6
      releaseFraction := ⟨⟨k7.1, ((release_fractions _).1 k7.2).1⟩, ((release_fractions _).1 k7.2).2⟩
      serveLow := k8, serveHigh := k9, wQ := k10, wR := k11, maxScore := k12, room := hr
      presencePeriod := (presencePeriod_iff _ _).1 hp
      lifetimeCount := t6, offerWindow := t7, proposalPeriod := t8, quietWindow := t9, suspendHold := t10, restTime := t11
      selfRest := t12, joinSettle := t13
      weights := ⟨hws.1, hws.2, hfit.1, hfit.2⟩, profiles := profilesOf_eq_some.1 hf
      chainA := chainOf_eq_some.1 ha, chainB := chainOf_eq_some.1 hb, chainC := chainOf_eq_some.1 hc }
  · intro h
    have hw := (hcodes _).2 ⟨h.weights.1, h.weights.2.1⟩
    refine ⟨h.sections, h.itemsOnce, _, _, _, _, _, hw, profilesOf_eq_some.2 h.profiles, chainOf_eq_some.2 h.chainA,
      chainOf_eq_some.2 h.chainB, chainOf_eq_some.2 h.chainC, planOf_eq_some.2 ?_⟩
    simp only [itemIn_eq_some, itemOneOf_eq_some, timerItem_eq_some]
    exact ⟨h.identity_eq, trivial, trivial, trivial, trivial, trivial, h.roster,
      ⟨h.rowLength.1.1, (even_to_sixteen _).2 ⟨h.rowLength.1.2, h.rowLength.2⟩⟩, h.capacity, h.share, h.slots,
      ⟨h.offerCount.1.1, (offer_counts _).2 ⟨h.offerCount.1.2, h.offerCount.2⟩⟩, h.testDepth, h.testUnits, h.pulseCurrent,
      h.classDistance, h.joinWindow, h.joinMax,
      ⟨h.releaseFraction.1.1, (release_fractions _).2 ⟨h.releaseFraction.1.2, h.releaseFraction.2⟩⟩, h.serveLow, h.serveHigh, h.wQ,
      h.wR, h.maxScore, h.lifetimeCount, h.offerWindow, h.proposalPeriod, h.quietWindow, h.suspendHold, h.restTime, h.selfRest,
      h.joinSettle, (presencePeriod_iff _ _).2 h.presencePeriod, h.room,
      (weightsFit_iff (hpos _ hw)).2 h.weights.2.2⟩

end Sys2Proof.Machine
end

