-- ==== Sys2Proof/Laws/State.lean ====
section
/-! SUPPORT. The small lemmas of the state record: what each block update, each level update and the end of a step leave in
each block. All are true by unfolding once; no later proof unfolds a record update. -/

namespace Sys2Proof.Machine

/-! ### Line: the update of one block -/

@[simp] theorem Node.onLine_line (n : Node) (f : Line → Line) : (n.onLine f).line = f n.line := rfl
@[simp] theorem Node.onLine_pres (n : Node) (f : Line → Line) : (n.onLine f).pres = n.pres := rfl
@[simp] theorem Node.onLine_peers (n : Node) (f : Line → Line) : (n.onLine f).peers = n.peers := rfl
@[simp] theorem Node.onLine_mon (n : Node) (f : Line → Line) : (n.onLine f).mon = n.mon := rfl
@[simp] theorem Node.onLine_duty (n : Node) (f : Line → Line) : (n.onLine f).duty = n.duty := rfl
@[simp] theorem Node.onLine_grade (n : Node) (f : Line → Line) : (n.onLine f).grade = n.grade := rfl
@[simp] theorem Node.onLine_rail (n : Node) (f : Line → Line) : (n.onLine f).rail = n.rail := rfl
@[simp] theorem Node.onLine_pair (n : Node) (f : Line → Line) : (n.onLine f).pair = n.pair := rfl
@[simp] theorem Node.onLine_pos (n : Node) (f : Line → Line) : (n.onLine f).pos = n.pos := rfl
@[simp] theorem Node.onLine_serv (n : Node) (f : Line → Line) : (n.onLine f).serv = n.serv := rfl

/-! ### Pres: the update of one block -/

@[simp] theorem Node.onPres_line (n : Node) (f : Presence → Presence) : (n.onPres f).line = n.line := rfl
@[simp] theorem Node.onPres_pres (n : Node) (f : Presence → Presence) : (n.onPres f).pres = f n.pres := rfl
@[simp] theorem Node.onPres_peers (n : Node) (f : Presence → Presence) : (n.onPres f).peers = n.peers := rfl
@[simp] theorem Node.onPres_mon (n : Node) (f : Presence → Presence) : (n.onPres f).mon = n.mon := rfl
@[simp] theorem Node.onPres_duty (n : Node) (f : Presence → Presence) : (n.onPres f).duty = n.duty := rfl
@[simp] theorem Node.onPres_grade (n : Node) (f : Presence → Presence) : (n.onPres f).grade = n.grade := rfl
@[simp] theorem Node.onPres_rail (n : Node) (f : Presence → Presence) : (n.onPres f).rail = n.rail := rfl
@[simp] theorem Node.onPres_pair (n : Node) (f : Presence → Presence) : (n.onPres f).pair = n.pair := rfl
@[simp] theorem Node.onPres_pos (n : Node) (f : Presence → Presence) : (n.onPres f).pos = n.pos := rfl
@[simp] theorem Node.onPres_serv (n : Node) (f : Presence → Presence) : (n.onPres f).serv = n.serv := rfl

/-! ### Peers: the update of one block -/

@[simp] theorem Node.onPeers_line (n : Node) (f : Peers → Peers) : (n.onPeers f).line = n.line := rfl
@[simp] theorem Node.onPeers_pres (n : Node) (f : Peers → Peers) : (n.onPeers f).pres = n.pres := rfl
@[simp] theorem Node.onPeers_peers (n : Node) (f : Peers → Peers) : (n.onPeers f).peers = f n.peers := rfl
@[simp] theorem Node.onPeers_mon (n : Node) (f : Peers → Peers) : (n.onPeers f).mon = n.mon := rfl
@[simp] theorem Node.onPeers_duty (n : Node) (f : Peers → Peers) : (n.onPeers f).duty = n.duty := rfl
@[simp] theorem Node.onPeers_grade (n : Node) (f : Peers → Peers) : (n.onPeers f).grade = n.grade := rfl
@[simp] theorem Node.onPeers_rail (n : Node) (f : Peers → Peers) : (n.onPeers f).rail = n.rail := rfl
@[simp] theorem Node.onPeers_pair (n : Node) (f : Peers → Peers) : (n.onPeers f).pair = n.pair := rfl
@[simp] theorem Node.onPeers_pos (n : Node) (f : Peers → Peers) : (n.onPeers f).pos = n.pos := rfl
@[simp] theorem Node.onPeers_serv (n : Node) (f : Peers → Peers) : (n.onPeers f).serv = n.serv := rfl

/-! ### Mon: the update of one block -/

@[simp] theorem Node.onMon_line (n : Node) (f : Monitor → Monitor) : (n.onMon f).line = n.line := rfl
@[simp] theorem Node.onMon_pres (n : Node) (f : Monitor → Monitor) : (n.onMon f).pres = n.pres := rfl
@[simp] theorem Node.onMon_peers (n : Node) (f : Monitor → Monitor) : (n.onMon f).peers = n.peers := rfl
@[simp] theorem Node.onMon_mon (n : Node) (f : Monitor → Monitor) : (n.onMon f).mon = f n.mon := rfl
@[simp] theorem Node.onMon_duty (n : Node) (f : Monitor → Monitor) : (n.onMon f).duty = n.duty := rfl
@[simp] theorem Node.onMon_grade (n : Node) (f : Monitor → Monitor) : (n.onMon f).grade = n.grade := rfl
@[simp] theorem Node.onMon_rail (n : Node) (f : Monitor → Monitor) : (n.onMon f).rail = n.rail := rfl
@[simp] theorem Node.onMon_pair (n : Node) (f : Monitor → Monitor) : (n.onMon f).pair = n.pair := rfl
@[simp] theorem Node.onMon_pos (n : Node) (f : Monitor → Monitor) : (n.onMon f).pos = n.pos := rfl
@[simp] theorem Node.onMon_serv (n : Node) (f : Monitor → Monitor) : (n.onMon f).serv = n.serv := rfl

/-! ### Duty: the update of one block -/

@[simp] theorem Node.onDuty_line (n : Node) (f : Duty → Duty) : (n.onDuty f).line = n.line := rfl
@[simp] theorem Node.onDuty_pres (n : Node) (f : Duty → Duty) : (n.onDuty f).pres = n.pres := rfl
@[simp] theorem Node.onDuty_peers (n : Node) (f : Duty → Duty) : (n.onDuty f).peers = n.peers := rfl
@[simp] theorem Node.onDuty_mon (n : Node) (f : Duty → Duty) : (n.onDuty f).mon = n.mon := rfl
@[simp] theorem Node.onDuty_duty (n : Node) (f : Duty → Duty) : (n.onDuty f).duty = f n.duty := rfl
@[simp] theorem Node.onDuty_grade (n : Node) (f : Duty → Duty) : (n.onDuty f).grade = n.grade := rfl
@[simp] theorem Node.onDuty_rail (n : Node) (f : Duty → Duty) : (n.onDuty f).rail = n.rail := rfl
@[simp] theorem Node.onDuty_pair (n : Node) (f : Duty → Duty) : (n.onDuty f).pair = n.pair := rfl
@[simp] theorem Node.onDuty_pos (n : Node) (f : Duty → Duty) : (n.onDuty f).pos = n.pos := rfl
@[simp] theorem Node.onDuty_serv (n : Node) (f : Duty → Duty) : (n.onDuty f).serv = n.serv := rfl

/-! ### Grade: the update of one block -/

@[simp] theorem Node.onGrade_line (n : Node) (f : Grader → Grader) : (n.onGrade f).line = n.line := rfl
@[simp] theorem Node.onGrade_pres (n : Node) (f : Grader → Grader) : (n.onGrade f).pres = n.pres := rfl
@[simp] theorem Node.onGrade_peers (n : Node) (f : Grader → Grader) : (n.onGrade f).peers = n.peers := rfl
@[simp] theorem Node.onGrade_mon (n : Node) (f : Grader → Grader) : (n.onGrade f).mon = n.mon := rfl
@[simp] theorem Node.onGrade_duty (n : Node) (f : Grader → Grader) : (n.onGrade f).duty = n.duty := rfl
@[simp] theorem Node.onGrade_grade (n : Node) (f : Grader → Grader) : (n.onGrade f).grade = f n.grade := rfl
@[simp] theorem Node.onGrade_rail (n : Node) (f : Grader → Grader) : (n.onGrade f).rail = n.rail := rfl
@[simp] theorem Node.onGrade_pair (n : Node) (f : Grader → Grader) : (n.onGrade f).pair = n.pair := rfl
@[simp] theorem Node.onGrade_pos (n : Node) (f : Grader → Grader) : (n.onGrade f).pos = n.pos := rfl
@[simp] theorem Node.onGrade_serv (n : Node) (f : Grader → Grader) : (n.onGrade f).serv = n.serv := rfl

/-! ### Rail: the update of one block -/

@[simp] theorem Node.onRail_line (n : Node) (f : Rail → Rail) : (n.onRail f).line = n.line := rfl
@[simp] theorem Node.onRail_pres (n : Node) (f : Rail → Rail) : (n.onRail f).pres = n.pres := rfl
@[simp] theorem Node.onRail_peers (n : Node) (f : Rail → Rail) : (n.onRail f).peers = n.peers := rfl
@[simp] theorem Node.onRail_mon (n : Node) (f : Rail → Rail) : (n.onRail f).mon = n.mon := rfl
@[simp] theorem Node.onRail_duty (n : Node) (f : Rail → Rail) : (n.onRail f).duty = n.duty := rfl
@[simp] theorem Node.onRail_grade (n : Node) (f : Rail → Rail) : (n.onRail f).grade = n.grade := rfl
@[simp] theorem Node.onRail_rail (n : Node) (f : Rail → Rail) : (n.onRail f).rail = f n.rail := rfl
@[simp] theorem Node.onRail_pair (n : Node) (f : Rail → Rail) : (n.onRail f).pair = n.pair := rfl
@[simp] theorem Node.onRail_pos (n : Node) (f : Rail → Rail) : (n.onRail f).pos = n.pos := rfl
@[simp] theorem Node.onRail_serv (n : Node) (f : Rail → Rail) : (n.onRail f).serv = n.serv := rfl

/-! ### Pair: the update of one block -/

@[simp] theorem Node.onPair_line (n : Node) (f : Pairing → Pairing) : (n.onPair f).line = n.line := rfl
@[simp] theorem Node.onPair_pres (n : Node) (f : Pairing → Pairing) : (n.onPair f).pres = n.pres := rfl
@[simp] theorem Node.onPair_peers (n : Node) (f : Pairing → Pairing) : (n.onPair f).peers = n.peers := rfl
@[simp] theorem Node.onPair_mon (n : Node) (f : Pairing → Pairing) : (n.onPair f).mon = n.mon := rfl
@[simp] theorem Node.onPair_duty (n : Node) (f : Pairing → Pairing) : (n.onPair f).duty = n.duty := rfl
@[simp] theorem Node.onPair_grade (n : Node) (f : Pairing → Pairing) : (n.onPair f).grade = n.grade := rfl
@[simp] theorem Node.onPair_rail (n : Node) (f : Pairing → Pairing) : (n.onPair f).rail = n.rail := rfl
@[simp] theorem Node.onPair_pair (n : Node) (f : Pairing → Pairing) : (n.onPair f).pair = f n.pair := rfl
@[simp] theorem Node.onPair_pos (n : Node) (f : Pairing → Pairing) : (n.onPair f).pos = n.pos := rfl
@[simp] theorem Node.onPair_serv (n : Node) (f : Pairing → Pairing) : (n.onPair f).serv = n.serv := rfl

/-! ### Pos: the update of one block -/

@[simp] theorem Node.onPos_line (n : Node) (f : Positions → Positions) : (n.onPos f).line = n.line := rfl
@[simp] theorem Node.onPos_pres (n : Node) (f : Positions → Positions) : (n.onPos f).pres = n.pres := rfl
@[simp] theorem Node.onPos_peers (n : Node) (f : Positions → Positions) : (n.onPos f).peers = n.peers := rfl
@[simp] theorem Node.onPos_mon (n : Node) (f : Positions → Positions) : (n.onPos f).mon = n.mon := rfl
@[simp] theorem Node.onPos_duty (n : Node) (f : Positions → Positions) : (n.onPos f).duty = n.duty := rfl
@[simp] theorem Node.onPos_grade (n : Node) (f : Positions → Positions) : (n.onPos f).grade = n.grade := rfl
@[simp] theorem Node.onPos_rail (n : Node) (f : Positions → Positions) : (n.onPos f).rail = n.rail := rfl
@[simp] theorem Node.onPos_pair (n : Node) (f : Positions → Positions) : (n.onPos f).pair = n.pair := rfl
@[simp] theorem Node.onPos_pos (n : Node) (f : Positions → Positions) : (n.onPos f).pos = f n.pos := rfl
@[simp] theorem Node.onPos_serv (n : Node) (f : Positions → Positions) : (n.onPos f).serv = n.serv := rfl

/-! ### Serv: the update of one block -/

@[simp] theorem Node.onServ_line (n : Node) (f : Service → Service) : (n.onServ f).line = n.line := rfl
@[simp] theorem Node.onServ_pres (n : Node) (f : Service → Service) : (n.onServ f).pres = n.pres := rfl
@[simp] theorem Node.onServ_peers (n : Node) (f : Service → Service) : (n.onServ f).peers = n.peers := rfl
@[simp] theorem Node.onServ_mon (n : Node) (f : Service → Service) : (n.onServ f).mon = n.mon := rfl
@[simp] theorem Node.onServ_duty (n : Node) (f : Service → Service) : (n.onServ f).duty = n.duty := rfl
@[simp] theorem Node.onServ_grade (n : Node) (f : Service → Service) : (n.onServ f).grade = n.grade := rfl
@[simp] theorem Node.onServ_rail (n : Node) (f : Service → Service) : (n.onServ f).rail = n.rail := rfl
@[simp] theorem Node.onServ_pair (n : Node) (f : Service → Service) : (n.onServ f).pair = n.pair := rfl
@[simp] theorem Node.onServ_pos (n : Node) (f : Service → Service) : (n.onServ f).pos = n.pos := rfl
@[simp] theorem Node.onServ_serv (n : Node) (f : Service → Service) : (n.onServ f).serv = f n.serv := rfl

/-! ### Level contexts -/

@[simp] theorem Duty.get_put (d : Duty) (i : LevelId) (l : Level) : (d.put i l).get i = l := by cases i <;> rfl

@[simp] theorem Duty.get_put_other (d : Duty) {i j : LevelId} (l : Level) (h : j ≠ i) : (d.put i l).get j = d.get j := by
  cases i <;> cases j <;> first | rfl | exact absurd rfl h

@[simp] theorem Duty.put_conv (d : Duty) (i : LevelId) (l : Level) : (d.put i l).conv = d.conv := by cases i <;> rfl
@[simp] theorem Duty.put_reports (d : Duty) (i : LevelId) (l : Level) : (d.put i l).reports = d.reports := by cases i <;> rfl
@[simp] theorem Duty.put_pulseEnd (d : Duty) (i : LevelId) (l : Level) : (d.put i l).pulseEnd = d.pulseEnd := by cases i <;> rfl
@[simp] theorem Duty.put_kept (d : Duty) (i j : LevelId) (l : Level) : (d.put i l).kept j = d.kept j := by
  cases i <;> cases j <;> rfl
@[simp] theorem Duty.get_upd (d : Duty) (i : LevelId) (f : Level → Level) : (d.upd i f).get i = f (d.get i) := d.get_put i _
@[simp] theorem Duty.get_upd_other (d : Duty) {i j : LevelId} (f : Level → Level) (h : j ≠ i) : (d.upd i f).get j = d.get j :=
  d.get_put_other _ h
@[simp] theorem Duty.upd_conv (d : Duty) (i : LevelId) (f : Level → Level) : (d.upd i f).conv = d.conv := d.put_conv i _
@[simp] theorem Duty.upd_reports (d : Duty) (i : LevelId) (f : Level → Level) : (d.upd i f).reports = d.reports := d.put_reports i _
@[simp] theorem Duty.get_keep (d : Duty) (i j : LevelId) (r : Option LevelRequest) : (d.keep i r).get j = d.get j := by
  cases i <;> cases j <;> rfl
@[simp] theorem Duty.keep_conv (d : Duty) (i : LevelId) (r : Option LevelRequest) : (d.keep i r).conv = d.conv := by cases i <;> rfl
@[simp] theorem Duty.get_setpoint (d : Duty) (x : Int) (i : LevelId) : (d.setpoint x).get i = d.get i := by cases i <;> rfl
@[simp] theorem Duty.setpoint_conv (d : Duty) (x : Int) : (d.setpoint x).conv = { d.conv with setpoint := x } := rfl

/-! ### The machine's step -/

/-- A command with a meaning of the form `act` answers the event's result at the end of its step, and keeps the queue. -/
theorem State.act_next (s : State) (f : Node → Node) : s.act f = .next { s with node := (f s.node).conclude s.node } := rfl

end Sys2Proof.Machine
end

