-- ==== Sys2Proof/Laws/Duty.lean ====
section
/-! SUPPORT. What the shared operations of the Duty Level Controller can do: the owner, ending a context, the hand-over
at ramp-down complete and the converter's step. -/

namespace Sys2Proof.Machine

/-- The owner asks for the converter (R78). -/
theorem Duty.owner_asks {d : Duty} {i : LevelId} (h : d.owner = some i) : (d.get i).state.asks = true := by
  simp only [Duty.owner] at h
  split at h
  · obtain rfl := Option.some.inj h; assumption
  · split at h
    · obtain rfl := Option.some.inj h; assumption
    · split at h
      · obtain rfl := Option.some.inj h; assumption
      · split at h
        · obtain rfl := Option.some.inj h; assumption
        · split at h
          · obtain rfl := Option.some.inj h; assumption
          · cases h

/-- A level that asks gives the converter an owner (R78). -/
theorem Duty.owner_isSome {d : Duty} {i : LevelId} (h : (d.get i).state.asks = true) : d.owner.isSome = true := by
  simp only [Duty.owner]
  cases i <;> simp only [Duty.get] at h <;> simp only [h] <;> repeat' split
  all_goals simp_all

/-- The owner follows the states of the levels alone (R78). -/
theorem Duty.owner_congr {d e : Duty} (h : ∀ i, (d.get i).state.asks = (e.get i).state.asks) : d.owner = e.owner := by
  have h1 := h .protect; have h2 := h .join; have h3 := h .serve; have h4 := h .test; have h5 := h .pulse
  simp only [Duty.get] at h1 h2 h3 h4 h5
  simp only [Duty.owner, h1, h2, h3, h4, h5]

/-- Ending a context makes it EMPTY and leaves the others and the converter (R83). -/
theorem Duty.finish_spec (d : Duty) (i : LevelId) (c : EndCause) :
    ((d.finish i c).get i) = .empty ∧ (∀ j, j ≠ i → (d.finish i c).get j = d.get j) ∧ (d.finish i c).conv = d.conv := by
  refine ⟨by cases i <;> rfl, fun j h => ?_, by cases i <;> rfl⟩
  cases i <;> cases j <;> first | rfl | exact absurd rfl h

/-- A level that leaves is ENDING as the holder, with the setpoint at 0, and EMPTY otherwise (R81, R88). -/
theorem Duty.leave_spec (d : Duty) (i : LevelId) (c : EndCause) :
    (d.conv.holder = some i →
        (d.leave i c).get i = { d.get i with state := .ending, cause := some c } ∧ (d.leave i c).conv = { d.conv with setpoint := 0 })
      ∧ (d.conv.holder ≠ some i → (d.leave i c).get i = .empty ∧ (d.leave i c).conv = d.conv)
      ∧ ∀ j, j ≠ i → (d.leave i c).get j = d.get j := by
  refine ⟨fun h => ?_, fun h => ?_, fun j h => ?_⟩
  · simp [Duty.leave, h]
  · rw [Duty.leave, if_neg h]
    exact ⟨(d.finish_spec i c).1, (d.finish_spec i c).2.2⟩
  · simp only [Duty.leave]
    split
    · simp [h]
    · exact (d.finish_spec i c).2.1 j h

/-- After the hand-over the owner is the holder (R78). -/
theorem Duty.handOver_holder (d : Duty) : d.handOver.conv.holder = d.owner := by
  simp only [Duty.handOver]
  by_cases h : d.owner = d.conv.holder
  · simp only [h, if_true]
    cases hh : d.conv.holder with
    | none => exact hh
    | some i => dsimp only; split <;> simp [hh]
  · simp only [h, if_false]
    cases ho : d.owner with
    | none => rfl
    | some i => dsimp only; split <;> simp

/-- A READY holder runs; no other context changes (R78). -/
theorem Duty.runHolder_get {d e : Duty} (he : ∀ j, e.get j = d.get j) (hh : e.conv.holder = d.owner) (i : LevelId) :
    Duty.get (match e.conv.holder with
        | some k =>
          if (e.get k).state = LevelState.ready then
            (e.upd k Level.start).setpoint (e.get k).signed
          else e
        | none => e) i =
      (if d.owner = some i ∧ (d.get i).state = .ready then (d.get i).start else d.get i) := by
  rw [hh]
  cases d.owner with
  | none => simp [he]
  | some k =>
    by_cases hr : (d.get k).state = .ready
    · by_cases hk : i = k
      · subst hk; simp [he, hr]
      · simp [he, hr, hk, Ne.symm hk]
    · by_cases hk : i = k
      · subst hk; simp [he, hr]
      · simp [he, hr, Ne.symm hk]

/-- The hand-over lets a READY owner run, and changes no other context (R78). -/
theorem Duty.handOver_get (d : Duty) (i : LevelId) :
    d.handOver.get i = (if d.owner = some i ∧ (d.get i).state = .ready then (d.get i).start else d.get i) := by
  simp only [Duty.handOver]
  by_cases h : d.owner = d.conv.holder
  · simp only [if_pos h]
    exact Duty.runHolder_get (fun _ => rfl) h.symm i
  · simp only [if_neg h]
    exact Duty.runHolder_get (d := d) (e := { d with conv := { d.conv with holder := d.owner, path := _ } })
      (fun j => by cases j <;> rfl) rfl i

/-- While the actual value is not 0 the setpoint goes to 0 and the ramp-down complete is still to come (R78). -/
theorem Node.dropSetpoint_of_moving {n : Node} (h : n.duty.conv.actual ≠ 0) : n.dropSetpoint = n.onDuty fun d => d.setpoint 0 := by
  rw [Node.dropSetpoint, Node.rampIfIdle, if_neg]
  exact fun hx => h (by simpa [Node.onDuty, Duty.setpoint] using hx.2)

/-- At actual value 0 the setpoint goes to 0 and the ramp-down complete is taken at once (R78). -/
theorem Node.dropSetpoint_of_idle {n : Node} (h : n.duty.conv.actual = 0) :
    n.dropSetpoint = (n.onDuty fun d => d.setpoint 0).rampDown := by
  rw [Node.dropSetpoint, Node.rampIfIdle, if_pos]
  exact ⟨rfl, h⟩

/-- Under the same owner a change of the levels leaves the converter (R78). -/
theorem Node.settle_of_owner {n : Node} {old : Option LevelId} (h : n.duty.owner = old) : n.settle old = n := if_pos h
theorem Node.settle_of_ne {n : Node} {old : Option LevelId} (h : n.duty.owner ≠ old) : n.settle old = n.dropSetpoint := if_neg h

/-- The converter's step leaves its setpoint, holder and path (R77). -/
@[simp] theorem Converter.step_setpoint (c : Converter) : c.step.setpoint = c.setpoint := by
  simp only [Converter.step]; repeat' split <;> try rfl
@[simp] theorem Converter.step_holder (c : Converter) : c.step.holder = c.holder := by
  simp only [Converter.step]; repeat' split <;> try rfl
@[simp] theorem Converter.step_path (c : Converter) : c.step.path = c.path := by
  simp only [Converter.step]; repeat' split <;> try rfl

end Sys2Proof.Machine
end

