-- ==== Sys2Proof/Laws/Queue.lean ====
section
/-! SUPPORT. What the operations over the transmit queue can do (R26, R27): its length, its members and its order. -/

namespace Sys2Proof.Machine

/-! ### Placing a notice -/

theorem mem_placeAfter {q x : Queued} {l : List Queued} : x ∈ placeAfter q l ↔ x = q ∨ x ∈ l := by
  induction l with
  | nil => simp [placeAfter]
  | cons y ys ih =>
    simp only [placeAfter]
    split
    · simp only [List.mem_cons, ih]
      exact ⟨fun h => h.elim (fun h => .inr (.inl h)) fun h => h.elim .inl fun h => .inr (.inr h),
        fun h => h.elim (fun h => .inr (.inl h)) fun h => h.elim .inl fun h => .inr (.inr h)⟩
    · simp

theorem mem_placeAhead {q x : Queued} {l : List Queued} : x ∈ placeAhead q l ↔ x = q ∨ x ∈ l := by
  induction l with
  | nil => simp [placeAhead]
  | cons y ys ih =>
    simp only [placeAhead]
    split
    · simp only [List.mem_cons, ih]
      exact ⟨fun h => h.elim (fun h => .inr (.inl h)) fun h => h.elim .inl fun h => .inr (.inr h),
        fun h => h.elim (fun h => .inr (.inl h)) fun h => h.elim .inl fun h => .inr (.inr h)⟩
    · simp

@[simp] theorem length_placeAfter (q : Queued) (l : List Queued) : (placeAfter q l).length = l.length + 1 := by
  induction l with
  | nil => rfl
  | cons y ys ih => simp only [placeAfter]; split <;> simp [ih]

@[simp] theorem length_placeAhead (q : Queued) (l : List Queued) : (placeAhead q l).length = l.length + 1 := by
  induction l with
  | nil => rfl
  | cons y ys ih => simp only [placeAhead]; split <;> simp [ih]

/-- Placing after the equals keeps the queue by falling priority. -/
theorem placeAfter_sorted {q : Queued} {l : List Queued} (h : l.Pairwise fun x y => y.priority ≤ x.priority) :
    (placeAfter q l).Pairwise fun x y => y.priority ≤ x.priority := by
  induction l with
  | nil => simp [placeAfter]
  | cons y ys ih =>
    rw [List.pairwise_cons] at h
    simp only [placeAfter]
    split
    · rename_i hq
      refine List.pairwise_cons.2 ⟨fun x hx => ?_, ih h.2⟩
      obtain rfl | hx := mem_placeAfter.1 hx
      · exact hq
      · exact h.1 x hx
    · rename_i hq
      refine List.pairwise_cons.2 ⟨fun x hx => ?_, List.pairwise_cons.2 h⟩
      obtain rfl | hx := List.mem_cons.1 hx
      · omega
      · have := h.1 x hx; omega

/-- Placing ahead of the equals keeps the queue by falling priority. -/
theorem placeAhead_sorted {q : Queued} {l : List Queued} (h : l.Pairwise fun x y => y.priority ≤ x.priority) :
    (placeAhead q l).Pairwise fun x y => y.priority ≤ x.priority := by
  induction l with
  | nil => simp [placeAhead]
  | cons y ys ih =>
    rw [List.pairwise_cons] at h
    simp only [placeAhead]
    split
    · rename_i hq
      refine List.pairwise_cons.2 ⟨fun x hx => ?_, ih h.2⟩
      obtain rfl | hx := mem_placeAhead.1 hx
      · omega
      · exact h.1 x hx
    · rename_i hq
      refine List.pairwise_cons.2 ⟨fun x hx => ?_, List.pairwise_cons.2 h⟩
      obtain rfl | hx := List.mem_cons.1 hx
      · omega
      · have := h.1 x hx; omega

/-! ### Replacing a notice in its place -/

@[simp] theorem length_replaceIn (q : Queued) (l : List Queued) : (replaceIn q l).length = l.length := by
  induction l with
  | nil => rfl
  | cons y ys ih => simp only [replaceIn]; split <;> simp [ih]

theorem mem_replaceIn {q x : Queued} {l : List Queued} (h : x ∈ replaceIn q l) : x = q ∨ x ∈ l := by
  induction l with
  | nil => exact absurd h List.not_mem_nil
  | cons y ys ih =>
    simp only [replaceIn] at h
    split at h
    · obtain rfl | h := List.mem_cons.1 h
      · exact .inl rfl
      · exact .inr (.tail _ h)
    · obtain rfl | h := List.mem_cons.1 h
      · exact .inr (.head _)
      · exact (ih h).elim .inl fun h => .inr (.tail _ h)

/-! ### Offering and returning -/

/-- A queue of at most 8 notices stays so when a notice is offered to it (R26). -/
theorem length_offerQueue {q : Queued} {l : List Queued} (h : l.length ≤ 8) : (offerQueue q l).length ≤ 8 := by
  simp only [offerQueue, offerFull]
  split
  · simpa using h
  · split
    · rename_i h8; simp; omega
    · cases hl : l.getLast? with
      | none => exact h
      | some t =>
        dsimp only
        split
        · simp; omega
        · exact h

/-- A queue of at most 8 notices stays so when a frame returns to it (R27). -/
theorem length_returnQueue {q : Queued} {l : List Queued} (h : l.length ≤ 8) : (returnQueue q l).length ≤ 8 := by
  simp only [returnQueue, offerFull]
  split
  · exact h
  · split
    · rename_i h8; simp; omega
    · cases hl : l.getLast? with
      | none => exact h
      | some t =>
        dsimp only
        split
        · simp; omega
        · exact h

/-- An offered queue holds nothing but the new notice and what it held. -/
theorem mem_offerQueue {q x : Queued} {l : List Queued} (h : x ∈ offerQueue q l) : x = q ∨ x ∈ l := by
  simp only [offerQueue, offerFull] at h
  split at h
  · exact mem_replaceIn h
  · split at h
    · exact mem_placeAfter.1 h
    · split at h
      · split at h
        · exact (mem_placeAfter.1 h).imp_right fun h => List.dropLast_subset l h
        · exact .inr h
      · exact .inr h

end Sys2Proof.Machine
end

