-- ==== Sys2Proof/Laws/Ops.lean ====
section
/-! SUPPORT. What the operations that every block shares can do: each lemma says once which part of the node an operation
changes, as an equation that the proofs about commands cite instead of unfolding it. -/

namespace Sys2Proof.Machine

/-! ### Handing a notice (R26, R34) -/

/-- A notice handed is offered to the queue, or lost where the queue takes none. -/
theorem Node.handPart_queue (n : Node) (k : Kind) (rank part : Nat) (fields : List (Nat × Value)) :
    (n.handPart k rank part fields).line.queue =
      if n.queueOpen then offerQueue ⟨k, k.priority rank, part, encodeFields fields⟩ n.line.queue else n.line.queue := by
  simp only [Node.handPart]; split <;> rfl

/-- A notice handed changes the transmit queue alone. -/
theorem Node.handPart_eq (n : Node) (k : Kind) (rank part : Nat) (fields : List (Nat × Value)) :
    n.handPart k rank part fields = { n with line := { n.line with queue := (n.handPart k rank part fields).line.queue } } := by
  simp only [Node.handPart, Node.onLine]; split <;> rfl

/-- A notice without rank and part handed changes the transmit queue alone. -/
theorem Node.hand_eq (n : Node) (k : Kind) (fields : List (Nat × Value)) :
    n.hand k fields = { n with line := { n.line with queue := (n.hand k fields).line.queue } } := by
  simp only [Node.hand, Node.handPart, Node.onLine]; split <;> rfl

@[simp] theorem Node.hand_pres (n : Node) (k : Kind) (fs : List (Nat × Value)) : (n.hand k fs).pres = n.pres := by rw [Node.hand_eq]
@[simp] theorem Node.hand_peers (n : Node) (k : Kind) (fs : List (Nat × Value)) : (n.hand k fs).peers = n.peers := by rw [Node.hand_eq]
@[simp] theorem Node.hand_mon (n : Node) (k : Kind) (fs : List (Nat × Value)) : (n.hand k fs).mon = n.mon := by rw [Node.hand_eq]
@[simp] theorem Node.hand_duty (n : Node) (k : Kind) (fs : List (Nat × Value)) : (n.hand k fs).duty = n.duty := by rw [Node.hand_eq]
@[simp] theorem Node.hand_grade (n : Node) (k : Kind) (fs : List (Nat × Value)) : (n.hand k fs).grade = n.grade := by rw [Node.hand_eq]
@[simp] theorem Node.hand_rail (n : Node) (k : Kind) (fs : List (Nat × Value)) : (n.hand k fs).rail = n.rail := by rw [Node.hand_eq]
@[simp] theorem Node.hand_pair (n : Node) (k : Kind) (fs : List (Nat × Value)) : (n.hand k fs).pair = n.pair := by rw [Node.hand_eq]
@[simp] theorem Node.hand_pos (n : Node) (k : Kind) (fs : List (Nat × Value)) : (n.hand k fs).pos = n.pos := by rw [Node.hand_eq]
@[simp] theorem Node.hand_serv (n : Node) (k : Kind) (fs : List (Nat × Value)) : (n.hand k fs).serv = n.serv := by rw [Node.hand_eq]

/-- A rebuilt PRESENCE changes the transmit queue alone. -/
theorem Node.rebuildPresence_eq (n : Node) :
    n.rebuildPresence = { n with line := { n.line with queue := n.rebuildPresence.line.queue } } := rfl

/-! ### Faults (R178, R180) -/

/-- A reported fault changes the fault list and the transmit queue alone. -/
theorem Node.reportFault_eq (n : Node) (code : FaultCode) (detail : Option BreachKind) :
    n.reportFault code detail = { n with
      serv := { n.serv with faults := (takeReport code detail n.seconds n.serv.faults).1 },
      line := { n.line with queue := (n.reportFault code detail).line.queue } } := by
  simp only [Node.reportFault]
  split
  · simp only [Node.handFault]; rw [Node.hand_eq]; rfl
  · rfl

/-- A latched fault changes the fault list alone. -/
theorem Node.latchFault_eq (n : Node) (code : FaultCode) :
    n.latchFault code = { n with serv := { n.serv with
      faults := n.serv.faults.map fun e => if e.code = code then { e with active := false } else e } } := rfl

/-! ### Rail Allocator: notices and rooms -/

/-- A notice of the Rail Allocator sent once changes the transmit queue alone. -/
theorem Node.sendRail_eq (n : Node) (x : RailNotice) :
    n.sendRail x = { n with line := { n.line with queue := (n.sendRail x).line.queue } } := by
  cases x <;> exact n.hand_eq _ _

/-- A restarted interval keeps the notices under repeat and their order. -/
@[simp] theorem restartRepeat_fst {α : Type} [DecidableEq α] (x : α) (t : Nat) (l : List (α × Nat)) :
    (restartRepeat x t l).map Prod.fst = l.map Prod.fst := by
  induction l with
  | nil => rfl
  | cons y ys ih =>
    simp only [restartRepeat, List.map_cons] at ih ⊢
    rw [ih]
    by_cases h : y.1 = x <;> simp [h]

/-- A restarted interval ends at the new moment for its notice and as before for every other. -/
theorem mem_restartRepeat {α : Type} [DecidableEq α] (x : α) (t : Nat) (l : List (α × Nat)) (z : α × Nat) :
    z ∈ restartRepeat x t l ↔ (z.1 = x ∧ z.2 = t ∧ ∃ y ∈ l, y.1 = x) ∨ (z.1 ≠ x ∧ z ∈ l) := by
  simp only [restartRepeat, List.mem_map]
  constructor
  · rintro ⟨y, hy, h⟩
    by_cases hx : y.1 = x
    · simp only [if_pos hx] at h; subst h; exact .inl ⟨rfl, rfl, y, hy, hx⟩
    · simp only [if_neg hx] at h; subst h; exact .inr ⟨hx, hy⟩
  · rintro (⟨h1, h2, y, hy, hx⟩ | ⟨hx, hz⟩)
    · exact ⟨y, hy, by simp only [if_pos hx]; exact Prod.ext h1.symm h2.symm⟩
    · exact ⟨z, hz, by simp only [if_neg hx]⟩

/-- A notice of the Rail Allocator handed changes the transmit queue and the notices under repeat alone. -/
theorem Node.handRail_eq (n : Node) (x : RailNotice) :
    n.handRail x = { n with
      line := { n.line with queue := (n.sendRail x).line.queue },
      rail := { n.rail with
        repeats := (if inView (railNoticeExchange x) n.rail.view then [(x, n.mon.now + 1000)] else [])
          ++ n.rail.repeats.filter (fun y => !railSupersedes x y.1) } } := by
  simp only [Node.handRail, Node.onRail, Node.repeatAt]; rw [Node.sendRail_eq]

/-- The test for room changes the transmit queue and the Rail Allocator's own side alone. -/
theorem Node.roomTest_eq (n : Node) :
    n.roomTest = { n with line := { n.line with queue := n.roomTest.line.queue }, rail := n.roomTest.rail } := by
  simp only [Node.roomTest]
  split
  · split
    · split
      · simp only [Node.handNeed, Node.onRail]; rw [Node.handPart_eq]
      · simp only [Node.handJoin]
        split
        · simp only [Node.handAgree, Node.onRail]; rw [Node.handPart_eq]
        · rfl
    · rfl
  · rfl

/-! ### Pairing Engine and Position Manager -/

/-- A notice of the Position Manager sent once changes the transmit queue alone. -/
theorem Node.sendPos_eq (n : Node) (x : PosNotice) :
    n.sendPos x = { n with line := { n.line with queue := (n.sendPos x).line.queue } } := by
  cases x <;> exact n.hand_eq _ _

/-- A notice of the Position Manager handed changes the transmit queue and the notices under repeat alone. -/
theorem Node.handPos_eq (n : Node) (x : PosNotice) :
    n.handPos x = { n with
      line := { n.line with queue := (n.sendPos x).line.queue },
      pos := { n.pos with
        repeats := (x, n.mon.now + 1000) :: n.pos.repeats.filter (fun y => y.1 != x) } } := by
  simp only [Node.handPos, Node.onPos, Node.repeatAt]; rw [Node.sendPos_eq]

/-- A notice no longer repeated changes the notices under repeat alone. -/
theorem Node.stopPos_eq (n : Node) (x : PosNotice) :
    n.stopPos x = { n with pos := { n.pos with repeats := n.pos.repeats.filter fun y => y.1 != x } } := rfl

/-- An asking to leave no longer repeated changes the notices under repeat alone. -/
theorem Node.stopAsking_eq (n : Node) (p : Nat) :
    n.stopAsking p = { n with pos := { n.pos with repeats := n.pos.repeats.filter fun y => !asksLeave p y.1 } } := rfl

/-- The end of the long rest changes the Grade Engine's state and its watch alone. -/
theorem Node.abortSelfRest_eq (n : Node) :
    n.abortSelfRest = { n with
      grade := { n.grade with state := n.abortSelfRest.grade.state }, mon := { n.mon with watchGrade := n.abortSelfRest.mon.watchGrade } } := by
  simp only [Node.abortSelfRest]; split <;> rfl

/-- The start of the regime changes the Grade Engine and its watch alone. -/
theorem Node.startRegime_eq (n : Node) :
    n.startRegime = { n with
      grade := { n.grade with state := n.startRegime.grade.state, working := n.startRegime.grade.working },
      mon := { n.mon with watchGrade := n.startRegime.mon.watchGrade } } := by
  simp only [Node.startRegime, Node.enterRestA, Node.openRest]
  split
  · split <;> rfl
  · rfl

/-- A report of the pair state changes the Grade Engine and its watch alone. -/
theorem Node.pairReported_eq (n : Node) :
    n.pairReported = { n with
      grade := { n.grade with state := n.pairReported.grade.state, working := n.pairReported.grade.working },
      mon := { n.mon with watchGrade := n.pairReported.mon.watchGrade } } := by
  simp only [Node.pairReported]
  split
  · exact n.startRegime_eq
  · rw [Node.startRegime_eq, Node.abortSelfRest_eq]

/-- A change of the pair state changes pair state, silence, and the Grade Engine with its watch alone. -/
theorem Node.setPair_eq (n : Node) (s : PairState) :
    n.setPair s = { n with
      pair := (n.setPair s).pair,
      grade := { n.grade with state := (n.setPair s).grade.state, working := (n.setPair s).grade.working },
      mon := { n.mon with watchGrade := (n.setPair s).mon.watchGrade } } := by
  simp only [Node.setPair]
  split
  · rfl
  · rw [Node.pairReported_eq]; rfl

/-- After a change of the pair state the node is in it. -/
@[simp] theorem Node.setPair_state (n : Node) (s : PairState) : (n.setPair s).pair.state = s := by
  simp only [Node.setPair]
  split
  · rename_i h; exact h
  · rw [Node.pairReported_eq]
    simp only [Node.onPair]
    split <;> rfl

/-- A change of phase changes the Position Manager's phase and the notices under repeat alone. -/
theorem Node.setPhase_eq (n : Node) (p : Phase) :
    n.setPhase p = { n with pos := { n.pos with
      phase := p, repeats := if n.pos.phase = p then n.pos.repeats else [] } } := rfl

/-- A drive of the contactor changes it and the step that waits for it alone. -/
theorem Node.driveContactor_eq (n : Node) (dst : Bool) (step : Option PosStep) :
    n.driveContactor dst step = { n with pos := { n.pos with
      contactor := n.pos.contactor.move dst (n.after 100), onContactor := step } } := rfl

@[simp] theorem Actuator.move_drive (a : Actuator) (dst : Bool) (d : Timer) : (a.move dst d).drive = dst := by
  simp only [Actuator.move]; split
  · rename_i h; exact h
  · rfl

@[simp] theorem Actuator.move_position (a : Actuator) (dst : Bool) (d : Timer) : (a.move dst d).position = a.position := by
  simp only [Actuator.move]; split <;> rfl

end Sys2Proof.Machine
end

