-- ==== Sys2Proof/Laws/Rail.lean ====
section
/-! SUPPORT. What the operations over the rail view can do (R118-R122): its members, its ids, and the sum of its draws; and what
the end of the own exchange does to the rail block (R135). -/

namespace Sys2Proof.Machine

theorem mem_insertExchange {e x : Exchange} {v : List Exchange} : x ∈ insertExchange e v ↔ x = e ∨ x ∈ v := by
  induction v with
  | nil => simp [insertExchange]
  | cons y ys ih =>
    simp only [insertExchange]
    split
    · simp only [List.mem_cons, ih]
      exact ⟨fun h => h.elim (fun h => .inr (.inl h)) fun h => h.elim .inl fun h => .inr (.inr h),
        fun h => h.elim (fun h => .inr (.inl h)) fun h => h.elim .inl fun h => .inr (.inr h)⟩
    · simp

@[simp] theorem length_insertExchange (e : Exchange) (v : List Exchange) : (insertExchange e v).length = v.length + 1 := by
  induction v with
  | nil => rfl
  | cons y ys ih => simp only [insertExchange]; split <;> simp [ih]

/-- A record placed adds its draw to what the view draws. -/
@[simp] theorem drawn_insertExchange (e : Exchange) (v : List Exchange) : drawn (insertExchange e v) = e.draw + drawn v := by
  induction v with
  | nil => rfl
  | cons y ys ih =>
    simp only [insertExchange]
    split
    · simp only [drawn, List.map_cons, List.sum_cons] at ih ⊢; omega
    · simp [drawn]

theorem inView_iff {id : Nat} {v : List Exchange} : inView id v = true ↔ ∃ e ∈ v, e.id = id := by
  simp [inView, List.any_eq_true]

/-- A record of a new id placed keeps the ids different. -/
theorem nodup_insertExchange {e : Exchange} {v : List Exchange} (h : (v.map Exchange.id).Nodup) (hn : inView e.id v = false) :
    ((insertExchange e v).map Exchange.id).Nodup := by
  induction v with
  | nil => simp [insertExchange]
  | cons y ys ih =>
    have hn' : y.id ≠ e.id ∧ inView e.id ys = false := by
      simpa [inView] using hn
    rw [List.map_cons, List.nodup_cons] at h
    simp only [insertExchange]
    split
    · rw [List.map_cons, List.nodup_cons]
      refine ⟨fun hm => ?_, ih h.2 hn'.2⟩
      obtain ⟨x, hx, hid⟩ := List.mem_map.1 hm
      obtain rfl | hx := mem_insertExchange.1 hx
      · exact hn'.1 hid.symm
      · exact h.1 (hid ▸ List.mem_map_of_mem hx)
    · rw [List.map_cons, List.nodup_cons, List.map_cons, List.nodup_cons]
      refine ⟨fun hm => ?_, h⟩
      obtain hm | hm := List.mem_cons.1 hm
      · exact hn'.1 hm.symm
      · obtain ⟨x, hx, hid⟩ := List.mem_map.1 hm
        exact absurd (inView_iff.2 ⟨x, hx, hid⟩) (by simp [hn'.2])

/-- Leaving records out never raises what the view draws. -/
theorem drawn_filter_le (f : Exchange → Bool) (v : List Exchange) : drawn (v.filter f) ≤ drawn v := by
  induction v with
  | nil => exact Nat.le_refl _
  | cons y ys ih =>
    simp only [drawn, List.map_cons, List.sum_cons, List.filter_cons] at ih ⊢
    split
    · simp only [List.map_cons, List.sum_cons]; omega
    · omega

/-- The draw of fewer units is never greater (R117). -/
theorem drawOf_mono (d : Nat) {j k : Nat} (h : j ≤ k) : drawOf d j ≤ drawOf d k := by
  simp only [drawOf]; omega

/-! ### The own exchange (R135) -/

/-- What the levels' operations leave of the rail block: all but the notices under repeat (R138, R140). -/
abbrev Rail.sameBut (r r' : Rail) : Prop := r' = { r with repeats := r'.repeats }

/-- Handing a rail notice adds it to the notices under repeat (R138). -/
theorem Node.handRail_rail (n : Node) (x : RailNotice) : n.rail.sameBut (n.handRail x).rail := by
  have h : (n.sendRail x).rail = n.rail := by
    cases x <;> simp only [Node.sendRail, Node.hand, Node.handPart] <;> split <;> rfl
  simp only [Rail.sameBut, Node.handRail, Node.onRail_rail, h]

/-- A suspension on the node's own account hands at most a SUSPEND (R86, R136). -/
theorem Node.suspendHere_rail (n : Node) (i : LevelId) : n.rail.sameBut (n.suspendHere i).rail := by
  simp only [Node.suspendHere]
  split
  · simp only [Node.localSuspension]
    split
    · split
      · exact Node.handRail_rail _ _
      · rfl
    · rfl
  · rfl

/-- Taking a level request leaves the rail block but for the notices under repeat (R79). -/
theorem Node.accept_rail (n : Node) (i : LevelId) (r : LevelRequest) : n.rail.sameBut (n.accept i r).rail := by
  simp only [Node.accept]
  repeat' split
  all_goals
    first
    | rfl
    | exact Node.suspendHere_rail (n.onDuty _) _
    | exact Node.suspendHere_rail ((n.onDuty _).onDuty _) _

/-- The settling of the owner and a ramp-down leave the rail block but for the notices under repeat (R78). -/
theorem Node.settle_rail (n : Node) (old : Option LevelId) : n.rail.sameBut (n.settle old).rail := by
  have hk (m : Node) (i : LevelId) : m.rail.sameBut (m.takeKept i).rail := by
    simp only [Node.takeKept]
    split
    · exact Node.accept_rail _ _ _
    · rfl
  have hr (m : Node) : m.rail.sameBut m.rampDown.rail := by
    simp only [Node.rampDown, Node.onDuty_rail]
    split
    · split
      · exact hk (m.onDuty _) _
      · rfl
    · rfl
  simp only [Node.settle, Node.dropSetpoint, Node.rampIfIdle]
  split
  · rfl
  · split
    · exact hr (n.onDuty _)
    · rfl

/-- The end of a level leaves the rail block but for the notices under repeat (R85). -/
theorem Node.endLevel_rail (n : Node) (i : LevelId) : n.rail.sameBut (n.endLevel i).rail := by
  simp only [Node.endLevel]
  split
  · exact Node.settle_rail (n.onDuty _) _
  · exact Node.settle_rail (n.onDuty _) _
  · exact Node.settle_rail (n.onDuty _) _
  · rfl
  · rfl

/-- What an own exchange that has left the view leaves: the request goes where the exchange was agreed for it, and a request held
beside it puts the side to WAITING (R135, log entry 12). -/
theorem Node.dropOwn_spec {n : Node} {o : OwnRecord} (h : n.rail.own = some o) (ordinary : Bool) :
    (n.dropOwn ordinary).rail.own = none ∧ (n.dropOwn ordinary).rail.view = n.rail.view
      ∧ (n.dropOwn ordinary).rail.request = (if o.spends n.rail.side then none else n.rail.request)
      ∧ (n.dropOwn ordinary).rail.side = (if !o.spends n.rail.side && n.rail.request.isSome then .waiting else .idle)
      ∧ (n.dropOwn ordinary).rail.testOrdinary =
          (if o.servesTest && n.rail.side == .party then some ordinary else n.rail.testOrdinary) := by
  have hr : n.rail.sameBut (if n.rail.side = .party then n.endLevel o.level else n).rail := by
    split
    · exact n.endLevel_rail _
    · rfl
  simp only [Node.dropOwn, h, Node.onRail_rail]
  rw [hr]
  exact ⟨rfl, rfl, rfl, rfl, rfl⟩

end Sys2Proof.Machine
end

