-- ==== Sys2Proof/Laws/Tables.lean ====
section
/-! SUPPORT. What the operations over the Peer Table and the fault list can do (R48, R178). -/

namespace Sys2Proof.Machine

/-! ### The Peer Table -/

theorem mem_insertPeer {e x : Peer} {l : List Peer} (h : x ∈ insertPeer e l) : x = e ∨ x ∈ l := by
  induction l with
  | nil => exact .inl (by simpa [insertPeer] using h)
  | cons y ys ih =>
    simp only [insertPeer] at h
    split at h
    · obtain rfl | h := List.mem_cons.1 h
      · exact .inr (.head _)
      · exact (ih h).imp_right (.tail _)
    · split at h
      · exact (List.mem_cons.1 h).imp_right (.tail _)
      · exact List.mem_cons.1 h

/-- Storing an entry keeps the table by rising address, one entry each. -/
theorem insertPeer_sorted {e : Peer} {l : List Peer} (h : l.Pairwise fun x y => x.address < y.address) :
    (insertPeer e l).Pairwise fun x y => x.address < y.address := by
  induction l with
  | nil => simp [insertPeer]
  | cons y ys ih =>
    rw [List.pairwise_cons] at h
    simp only [insertPeer]
    split
    · rename_i hy
      refine List.pairwise_cons.2 ⟨fun x hx => ?_, ih h.2⟩
      obtain rfl | hx := mem_insertPeer hx
      · exact hy
      · exact h.1 x hx
    · split
      · rename_i hy
        exact List.pairwise_cons.2 ⟨fun x hx => hy ▸ h.1 x hx, h.2⟩
      · rename_i h1 h2
        refine List.pairwise_cons.2 ⟨fun x hx => ?_, List.pairwise_cons.2 h⟩
        obtain rfl | hx := List.mem_cons.1 hx
        · omega
        · have := h.1 x hx; omega

/-- A stored entry is the one found under its address. -/
theorem find_insertPeer (e : Peer) (l : List Peer) :
    (insertPeer e l).find? (fun x => x.address == e.address) = some e := by
  induction l with
  | nil => simp [insertPeer]
  | cons y ys ih =>
    simp only [insertPeer]
    split
    · rename_i hy
      rw [List.find?_cons_of_neg (by simp; omega), ih]
    · split <;> simp

/-! ### The fault list -/

theorem putFault_codes {e : FaultEntry} {l : List FaultEntry} :
    (putFault e l).map FaultEntry.code = l.map FaultEntry.code := by
  simp only [putFault, List.map_map]
  refine List.map_congr_left fun x _ => ?_
  by_cases h : x.code = e.code <;> simp [h]

/-- Dropping the first latched entry leaves one entry less, each still among those held. -/
theorem dropLatched_spec {l r : List FaultEntry} (h : dropLatched l = some r) : r.length + 1 = l.length ∧ r.Sublist l := by
  induction l generalizing r with
  | nil => exact absurd h (by simp [dropLatched])
  | cons x xs ih =>
    simp only [dropLatched] at h
    split at h
    · obtain ⟨t, ht, rfl⟩ := Option.map_eq_some_iff.1 h
      exact ⟨by simp [(ih ht).1], (ih ht).2.cons_cons x⟩
    · obtain rfl := Option.some.inj h
      exact ⟨rfl, List.sublist_cons_self x xs⟩

/-- A report keeps the list at 8 entries (R178). -/
theorem takeReport_length {code : FaultCode} {d : Option BreachKind} {seen : Nat} {l : List FaultEntry} (h : l.length ≤ 8) :
    (takeReport code d seen l).1.length ≤ 8 := by
  simp only [takeReport]
  split
  · split
    · simpa [putFault] using h
    · exact h
  · split
    · simp; omega
    · split
      · rename_i hd; have := (dropLatched_spec hd).1; simp; omega
      · exact h

end Sys2Proof.Machine
end

