-- ==== Sys2Proof/WellFormed.lean ====
section
/-! DEFINITION. Which commands can be sent: the operands that the line, the pins and the sense inputs can
carry. An ill-formed command is no event of the node; its meaning then has no effect or is that of a discarded
frame, and no claim about the hardware rests on it. -/

namespace Sys2Proof

/-- A station address on the line: 0 for the bank station, 1..48 for a node (R18, R23). -/
def wfAddress (a : Nat) : Bool := a ≤ 48

/-- A frame heard carries at most 40 payload bytes from a station address 0..48 (R18, R23). -/
def Heard.wf (h : Heard) : Bool := wfAddress h.source && h.payload.length ≤ 40

/-- A sense reading that is not over-range lies in the quantity's range (R61). -/
def SenseReading.wf (lo hi : Int) : SenseReading → Bool
  | .value v => decide (lo ≤ v) && decide (v ≤ hi)
  | .overLow => true
  | .overHigh => true

/-- A sample set within the ranges of R61. -/
def RawSample.wf (r : RawSample) : Bool :=
  r.voltage.wf 0 100000 && r.current.wf (-40000) 40000 && r.temp1.wf (-400) 1250
    && r.temp2.wf (-400) 1250 && r.bus.wf 0 100000

/-- A raw frame holds no more payload bytes than its length field says (R18). -/
def RawFrame.wf (f : RawFrame) : Bool := f.payload.length ≤ f.length.toNat

/-- An exchange id lies in 16..783 (R118). -/
def wfExchangeId (id : Nat) : Bool := 16 ≤ id && id ≤ 783

/-- A repeat of the Rail Allocator names an exchange id, at most 7 units remaining and a cause of 0..5 (R120). -/
def RailNotice.wf : RailNotice → Bool
  | .release id units cause => wfExchangeId id && units ≤ 7 && cause ≤ 5
  | .suspend id => wfExchangeId id
  | .resume id => wfExchangeId id

/-- A repeat of the Position Manager names a position 1..8, a partner 1..48, a step 0..3, a SoC up to 100.00 % and a
reason 0..6 (R3, R166). -/
def PosNotice.wf : PosNotice → Bool
  | .claim p y => 1 ≤ p && p ≤ 8 && 1 ≤ y && wfAddress y
  | .engage p k soc => 1 ≤ p && p ≤ 8 && k ≤ 3 && soc.all (· ≤ 10000)
  | .vacate p k r => 1 ≤ p && p ≤ 8 && k ≤ 3 && r ≤ 6

/-- The commands whose operands the outside world can bring about. -/
def Instr.wf : Instr → Bool
  | .powerOnReset _ _ => true
  | .lineFree => true
  | .frameStart => true
  | .arbitrationLost => true
  | .frameAbandoned => true
  | .frameCompleteClean => true
  | .receiveError f => f.wf
  | .silentDiscard f => f.wf
  | .plan h => h.wf
  | .listenWindowExpiry => true
  | .presenceTimerExpiry => true
  | .lineRejoin => true
  | .presence h => h.wf
  | .grade h => h.wf
  | .readout h => h.wf
  | .fault h => h.wf
  | .entryExpires a => 1 ≤ a && wfAddress a
  | .sampleSet r => r.wf
  | .limitClearExpiry => true
  | .moduleChange => true
  | .restWatchComplete _ => true
  | .periodicRestReading => true
  | .rampDownComplete => true
  | .levelStop => true
  | .gradeRepeatExpiry => true
  | .need h => h.wf
  | .offer h => h.wf
  | .agree h => h.wf
  | .release h => h.wf
  | .suspend h => h.wf
  | .resume h => h.wf
  | .needTimeout => true
  | .offerWindowExpiry => true
  | .retryTimerExpiry => true
  | .agreeTimeout => true
  | .offerHoldExpiry => true
  | .startTimerExpiry => true
  | .suspendHoldExpiry => true
  | .partySilenceExpiry => true
  | .railRepeatExpiry x => x.wf
  | .uncertaintyExpiry => true
  | .propose h => h.wf
  | .bind h => h.wf
  | .unbind h => h.wf
  | .proposalTimerExpiry => true
  | .barTimerExpiry => true
  | .partnerSilenceExpiry => true
  | .claim h => h.wf
  | .engage h => h.wf
  | .vacate h => h.wf
  | .quietWindowExpiry => true
  | .positionRepeatExpiry x => x.wf
  | .liveReportTimerExpiry => true
  | .contactorConfirm => true
  | .transferSwitchConfirm => true
  | .confirmTimeout _ => true
  | .engageTimeout => true
  | .leaveTimerExpiry => true
  | .query h => h.wf
  | .regrade h => h.wf
  | .directiveRelease h => h.wf
  | .hold h => h.wf
  | .resumeNode h => h.wf
  | .clearFaults h => h.wf
  | .directiveUnknownKind h => h.wf

end Sys2Proof
end

