-- ==== Sys2Proof/Tests/Slice0.lean ====
section
/-! SUPPORT. Tests: the refusals of the well-formedness check, examples of the manual, and for each statement with hypotheses one
theorem that a concrete state and operands meet the hypotheses of its clauses together. -/

namespace Sys2Proof.Tests

open Sys2Proof Sys2Proof.Machine

/-! ### Well-formedness: one ill-formed term for each check -/

def frameAt (source : Nat) (payload : List Byte) : Heard := { source := source, payload := payload }

theorem test_wf_refuses_source_49 : (Instr.presence (frameAt 49 [])).wf = false := by decide
theorem test_wf_refuses_41_bytes : (Instr.plan (frameAt 0 (List.replicate 41 0#8))).wf = false := by decide
theorem test_wf_refuses_entry_of_station_0 : (Instr.entryExpires 0).wf = false := by decide
theorem test_wf_refuses_voltage_above_range :
    (Instr.sampleSet { voltage := .value 100001, current := .overLow, temp1 := .value 0, temp2 := .value 0, bus := .value 0,
                       tag := ⟨true, 0#2⟩ }).wf = false := by decide
theorem test_wf_refuses_more_bytes_than_length :
    (Instr.receiveError { priority := 0, source := 0, kind := 0, length := 1#6, payload := [1#8, 2#8], check := 0, endMark := true }).wf
      = false := by decide
theorem test_wf_refuses_exchange_id_15 : (Instr.railRepeatExpiry (.suspend 15)).wf = false := by decide
theorem test_wf_refuses_release_cause_6 : (Instr.railRepeatExpiry (.release 16 0 6)).wf = false := by decide
theorem test_wf_refuses_8_units_remaining : (Instr.railRepeatExpiry (.release 16 8 0)).wf = false := by decide
theorem test_wf_refuses_position_9 : (Instr.positionRepeatExpiry (.claim 9 12)).wf = false := by decide
theorem test_wf_refuses_claim_for_partner_49 : (Instr.positionRepeatExpiry (.claim 8 49)).wf = false := by decide
theorem test_wf_refuses_report_above_100 : (Instr.positionRepeatExpiry (.engage 1 0 (some 10001))).wf = false := by decide
theorem test_wf_refuses_step_4 : (Instr.positionRepeatExpiry (.vacate 1 4 0)).wf = false := by decide

/-! ### States -/

def profile : Profile :=
  { cells := 12, nam := formFig .nam 5400, cellMin := formFig .cel 30000, cellMax := formFig .cel 42000
    warn := formFig .tmp 450, hard := formFig .tmp 600
    points := [30000, 34500, 36000, 36800, 37200, 37600, 38000, 38600, 39400, 40600, 41800].map fun v => formFig .cel v }

def plan : Plan :=
  { identity := 4101, roster := 16, rowLength := 8, capacity := 48, share := 1, slots := 4, offerCount := 2, testDepth := 40
    testUnits := 3, pulseCurrent := 4, classDistance := 1, joinWindow := 100, joinMax := 4, releaseFraction := 50, serveLow := 20
    serveHigh := 80, wQ := 10, wR := 5, maxScore := 3000, presencePeriod := 500, lifetimeCount := 5, offerWindow := 100
    proposalPeriod := 2, quietWindow := 500, suspendHold := 10, restTime := 30, selfRest := 48, joinSettle := 30
    weights := (List.range 16).map fun a => (a + 1, 1), profiles := [some profile, none, none, none]
    chainA := [{ kind := .cap, atLeast := true, op := .load, limit := formFig .cap 5300 }], chainB := [], chainC := [] }

/-- Node 9, ACTIVE under the plan with a carrier, its line free. -/
def node : Node :=
  { Node.powerOn 9#6 ⟨true, 0#2⟩ with
    line := { Line.initial with state := .free }
    pres := { Presence.initial 9#6 with
      state := .active, listenTimer := none, presenceTimer := some 500, plan := some plan }
    mon := { Monitor.initial ⟨true, 0#2⟩ with tagState := .valid, volts := [44400], cell := some 37000 }
    pos := { Positions.initial with view := some (emptyView plan) } }

def withState (s : NodeState) : Node := { node with pres := { node.pres with state := s } }
def withRail (f : Rail → Rail) : Node := { node with rail := f { node.rail with certain := true } }
def withPair (f : Pairing → Pairing) : Node := { node with pair := f node.pair }
def withPos (f : Positions → Positions) : Node := { node with pos := f node.pos }
def withMon (f : Monitor → Monitor) : Node := { node with mon := f node.mon }
def notice (source : Nat) (fields : List (Nat × Value)) : Heard := frameAt source (encodeFields fields)
def waiting (k : Kind) (priority : Nat) : Queued := { kind := k, priority := priority, part := 0, payload := [] }
def sending (q : Queued) (queue : List Queued) : Node :=
  { node with line := { node.line with state := .sending, sending := some q, queue := queue } }

/-- Initiator 9 with node 12 on 3 units, its capacity test. -/
def testRecord : OwnRecord :=
  { id := 147, initiator := true, other := 12, join := false, dir := .source, units := 3, driven := 3, original := 3
    flagOwn := false, flagOther := false, headroom := 0, released := false, dropped := false }
def exchange : Exchange := { id := 147, initiator := 9, counterpart := 12, units := 3, draw := 3, suspended := false }
def request : Request := .test .source 3 1000 30000 (formFig .hdr 2160)
def party : Node := withRail fun r => { r with own := some testRecord, side := .party, view := [exchange], request := some request }

def level (n : Node) (i : LevelId) (f : Level → Level) : Node := { n with duty := n.duty.upd i f }
def holding (n : Node) (i : LevelId) (setpoint actual : Int) : Node :=
  { n with duty := { n.duty with conv := { setpoint := setpoint, actual := actual, path := .rail, holder := some i } } }
def running (l : Level) : Level := { l with state := .running, dir := .source, setpoint := 3 }

/-- The record of a peer that may be this node's partner. -/
def peer12 : Peer :=
  { Peer.fresh 12 0 with
    nodeState := some .active, gradeState := some .graded, announced := some 3, heldGen := some 3, pairState := some .seeking
    cls := .a, profile := some 0, cap := some (formFig .cap 5410), res := some (formFig .res 430) }
def gradedRecord : Record :=
  { Record.cleared with
    cls := .a, profile := some 0, cells := some 12, cap := some (formFig .cap 5400), res := some (formFig .res 430) }
def gradedNode : Node :=
  { node with
    grade := { node.grade with state := .graded, generation := 5, published := gradedRecord, working := gradedRecord }
    peers := { entries := [peer12], cands := [(12, formFig .sco 20)], stopped := none }
    pair := { node.pair with state := .seeking, target := some 12 } }
def bound (s : PairState) (f : Positions → Positions) : Node :=
  { gradedNode with
    pair := { gradedNode.pair with state := s, partner := some 12 }
    pos := f { gradedNode.pos with phase := .bonded, lead := true, partner := some 12, position := some 2 } }

/-! ### Cases of the manual -/

/-- R31 by hand: the figure 54.00 Ah, mag 5400, n = 5, p = 2, is a pad-free 05 40 0A with shape byte 52. -/
theorem test_packs_figure : encodeFields [(4, .fig (formFig .cap 5400))] = [0x34#8, 0x52#8, 0x05#8, 0x40#8, 0x0A#8] := by decide
/-- Chapter 1: a chain limit of 1200.0 given for HLT becomes 999.9 with the mark. -/
theorem test_hlt_limit_clamps :
    rescale .hlt { neg := false, digits := 5, point := 1, mag := 12000, mark := false } = FigKind.hlt.make false 9999 true := by decide
/-- R5: a half rounds away from zero. -/
theorem test_rounds_half_away : roundHalfUp 5 2 = 3 ∧ roundHalfUp (-5) 2 = -3 := by decide
/-- R127: weight code 4 is W = 64, so a first request has rank 8, and the rank stays at 31. -/
theorem test_rank_of_weight : rankOf 0 4 = 8 ∧ rankOf 3 4 = 31 := by decide
/-- R3 by hand: a state of charge above 100.00 stays at the ceiling of its kind, with the mark. -/
theorem test_soc_ceiling :
    rescale .soc { neg := false, digits := 6, point := 2, mag := 150000, mark := false } = FigKind.soc.make false 10000 true := by decide
/-- Log entry 15: five fields of form 0 are an omitted statement, four of them a broken one. -/
theorem test_not_known_statement :
    let stated (a : Value) := (decode .presence 12 (encodeFields ([(0, .num 3), (2, .num 6), (3, .num 3), (5, .num 1), (8, .num 0), (9, a)]
      ++ [(10, .notKnown), (11, .notKnown), (12, .notKnown), (13, .notKnown), (14, .num 0), (15, .num 0)]))).bind fun x =>
        match x with | .presence p => some p.stated | _ => none
    stated .notKnown = some .omitted ∧ stated (.num 3) = some .broken := by decide
/-- R85: a SUSPEND for a level SUSPENDED already sets its mark and leaves the converter, its ramp-down complete still due. -/
theorem test_suspend_again_marks_only :
    let n := holding (level party .test fun l => { running l with state := .suspended, heldHere := true }) .pulse 0 0
    (n.suspendThere .test).duty.test.heldThere = true ∧ (n.suspendThere .test).duty.conv = n.duty.conv := by decide
/-- R90: line rejoin without an exchange level at work leaves an ENDING PULSE as it stands. -/
theorem test_rejoin_keeps_pulse :
    let n := holding (level node .pulse fun l => { l with state := .ending, cause := some .time }) .pulse 0 0
    n.rejoin.duty.pulse.state = .ending ∧ n.rejoin.duty.conv = n.duty.conv := by decide
/-- R135: the suspend hold timer of a party that has released with STOP before hands a RELEASE of cause HOLDEXPIRY besides. -/
theorem test_each_release_has_its_cause :
    let n : Node := { party with rail := { (party.releaseOwn causeStop).rail with suspendTimer := some 5 } }
    n.suspendHoldExpiry.rail.repeats.map Prod.fst = [.release 147 0 1, .release 147 0 0] := by decide
/-- R135, R142: HOLD after a level stop, at the same moment of the sample clock, hands a RELEASE of cause STOP of its own, and one only,
though it withdraws the test too. -/
theorem test_hold_releases_again :
    let n : Node := { party with grade := { party.grade with state := .capTest } }
    let releases (m : Node) : Nat := (m.line.queue.filter fun q => q.kind == .release).length
    releases n.enterHold = 1 ∧ releases (n.releaseOwn causeStop) = 1 ∧ releases (n.releaseOwn causeStop).enterHold = 2
      ∧ n.enterHold.rail.request = none := by decide
/-- R135: a test stated while the exchange of a withdrawn one is still in view is held, and goes on when that exchange leaves it. -/
theorem test_later_test_outlives_exchange :
    let n : Node := party.withdrawTest.beginRequest request
    n.rail.side = .party ∧ n.rail.repeats.map Prod.fst = [.release 147 0 0] ∧ (n.freeRail [] true).rail.side = .needing
      ∧ (n.freeRail [] true).rail.testing = true ∧ (party.freeRail [] true).rail.side = .idle := by decide
/-- R136: the completion of a test that has been withdrawn is not passed on. -/
theorem test_withdrawn_completion_stays :
    let n (m : Node) : Node := { m with grade := { m.grade with state := .capTest } }
    let done : Completion := { level := .test, cause := .cell, charge := 0, elapsed := 0, exchange := some 147, pulse := none }
    ((n party).takeCompletion done).grade.state = .restB
      ∧ ((n (party.withdrawTest.beginRequest request)).takeCompletion done).grade.state = .capTest := by decide
/-- R83: a level that has become RUNNING is tested at the first sample set after it runs. -/
theorem test_stop_waits_for_sample :
    let n := holding (level party .test fun l => { (running l).start with target := some 1000, charge := 1000 }) .test 3 3
    n.levelStop.duty.test.state = .running
      ∧ ({ n with duty := n.duty.sample 3000 } : Node).levelStop.duty.test.state = .ending := by decide
/-- R170: a member whose own report is heard from an earlier copy, and its partner's too, makes the check as it enters REPORTED. -/
theorem test_reported_with_both_reports_checks :
    let n := (bound .joining fun q => { q with
      phase := .settleWait, ownReport := some 5000, partnerReport := some 9000, firstCheck := true })
    let r : RestReading := { millivolts := 44400, ocv := formFig .ocv 44400, soc := some 5000, rest := 0, moment := 0 }
    (n.settledReport r).pos.phase = .transfer ∧ (n.settledReport r).pos.ownReport = none := by decide
/-- The empty queue idles, and no word spells a command. -/
theorem test_idle : step State.reset = .next State.reset ∧ decodeTableWord 16 0 = none := ⟨rfl, rfl⟩

/-! ### Witnesses: the machine and the line -/

theorem witness_PowerOnResetClearsNode :
    (1 ≤ (48#6).toNat ∧ (48#6).toNat ≤ 48) ∧ ¬(1 ≤ (0#6).toNat ∧ (0#6).toNat ≤ 48) ∧ ¬(1 ≤ (49#6).toNat ∧ (49#6).toNat ≤ 48) := by
  decide

theorem witness_FramesLeaveAndReturn :
    let need := waiting .need 160
    let presence := waiting .presence 80
    let lower := sending need (List.replicate 8 (waiting .offer 150))
    let higher := sending presence (List.replicate 8 (waiting .offer 150))
    node.Settled ∧ Line.initial.state = .settling
      ∧ (node.line.state = .free ∧ node.pres.state = .active) ∧ (withState .listen).pres.state = .listen
      ∧ (∃ x ∈ (sending presence [need, presence]).line.queue, presence.replaces x = true)
      ∧ ((∀ x ∈ (sending need [presence]).line.queue, need.replaces x = false) ∧ (sending need [presence]).line.queue.length < 8)
      ∧ ((∀ x ∈ lower.line.queue, need.replaces x = false) ∧ 8 ≤ lower.line.queue.length
          ∧ lower.line.queue.getLast?.map Queued.priority = some 150 ∧ 150 < need.priority)
      ∧ ((∀ x ∈ higher.line.queue, presence.replaces x = false) ∧ presence.priority ≤ 150) := by decide

theorem witness_FrameAbandonedCountsToQuiet :
    let q := waiting .need 160
    let n (k : Nat) : Node := { node with line := { node.line with state := .sending, sending := some q, abandons := k } }
    (n 6).Settled ∧ (n 7).Settled ∧ (n 7).line.state = .sending ∧ (n 7).line.sending = some q ∧ (n 6).line.abandons < 7
      ∧ (n 7).line.abandons = 7 ∧ (n 7).pres.state = .active ∧ (n 7).faultRoom .lineQuiet := by decide

theorem witness_FrameCompleteCleanIsHeard :
    let q : Queued := { kind := .need, priority := 160, part := 0, payload := encodeFields (needFields 147 1 3 (formFig .hdr 2160)) }
    let n : Node := { withRail (fun r => { r with side := .needing, current := some 147, request := some request }) with
      line := { node.line with state := .sending, sending := some q, cleanDue := true } }
    n.Settled ∧ n.AddressLaw ∧ n.PairLaw ∧ n.line.state = .sending ∧ n.line.sending = some q ∧ n.live = true
      ∧ n.pres.plan = some plan
      ∧ decode .need n.address q.payload = some (.need 147 1 3 (formFig .hdr 2160))
      ∧ n.rail.side = .needing ∧ n.rail.current = some 147
      ∧ (sending (waiting .readout 60) []).line.sending = some (waiting .readout 60) := by decide

/-- The node `n` with its own frame of this kind in transmission. -/
def sendsOwn (n : Node) (k : Kind) (fields : List (Nat × Value)) : Node :=
  { n with line := { n.line with
      state := .sending, sending := some { kind := k, priority := 100, part := 0, payload := encodeFields fields } } }
/-- What the Codec reads from the node's own frame in transmission. -/
def ownNotice (n : Node) (k : Kind) : Option Notice := n.line.sending.bind fun q => decode k n.address q.payload

def ownTerms : AgreeTerms :=
  { id := 147, counterpart := 12, kind := 0, dir := 1, units := 3, draw := 3, expected := some (formFig .hdr 2160) }
def agreeing (s : OwnSide) (v : List Exchange) : Node :=
  sendsOwn (withRail fun r => { r with side := s, current := some 147, request := some request, view := v }) .agree
    (agreeFields 147 12 0 1 3 3 (some (formFig .hdr 2160)))
/-- Node 12 stands in another exchange. -/
def taken : Exchange := { id := 178, initiator := 11, counterpart := 12, units := 3, draw := 3, suspended := false }

theorem witness_FrameCompleteCleanIsHeard_agree :
    let n := agreeing .agreeing []
    n.Settled ∧ n.AddressLaw ∧ n.PairLaw ∧ n.live = true ∧ n.line.state = .sending
      ∧ ownNotice n .agree = some (.agree 147 12 0 1 3 3 (some (formFig .hdr 2160)))
      ∧ (n.rail.side = .agreeing ∧ n.rail.current = some ownTerms.id) ∧ (agreeing .waiting []).rail.side ≠ .agreeing
      ∧ (agreeing .waiting [taken]).rail.side ≠ .agreeing
      ∧ ¬ownTerms.unsound n.rail.view 9 ∧ ¬ownTerms.unsound (agreeing .agreeing [taken]).rail.view 9 := by decide
theorem witness_FrameCompleteCleanIsHeard_fits : ownTerms.fits plan (agreeing .agreeing []).rail.view 9 :=
  ⟨by decide, by decide, by decide, by decide, fun _ h => (List.not_mem_nil (show _ ∈ [] from h)).elim,
    fun _ h => (List.not_mem_nil (show _ ∈ [] from h)).elim⟩
theorem witness_FrameCompleteCleanIsHeard_void : ¬ownTerms.fits plan (agreeing .agreeing [taken]).rail.view 9 :=
  fun h => (h.2.2.2.2.2 taken (.head _) (by decide)).2 rfl

/-- A void AGREE with the request held: room for its units, a full view, and a JOIN under a plan that gives the node weight code 0. -/
theorem witness_FrameCompleteCleanIsHeard_void_request :
    let full := agreeing .agreeing (List.replicate 4 taken)
    let n := agreeing .agreeing [taken]
    let join := { n with rail := { n.rail with request := some (.join 4) }, pair := { n.pair with partner := some 14 } }
    let light : Plan := { plan with weights := [(9, 0)] }
    n.rail.request = some request ∧ n.rail.retryTimer = none ∧ n.hasRoom plan 3 ∧ ¬full.hasRoom plan 3
      ∧ join.rail.request = some (.join 4) ∧ join.hasRoom light (min 4 light.share) ∧ light.weight 9 = 0
      ∧ join.pair.partner.isSome = true := by decide
theorem witness_FrameCompleteCleanIsHeard_full :
    ¬ownTerms.fits plan (agreeing .agreeing (List.replicate 4 taken)).rail.view 9 := fun h => absurd h.2.1 (by decide)

theorem witness_FrameCompleteCleanIsHeard_release :
    let n (units cause : Nat) := sendsOwn { party with
      rail := { party.rail with own := some { testRecord with join := true } }
      pos := { party.pos with phase := .transfer, attempts := 1 } } .release (releaseFields 147 units cause)
    (n 0 0).Settled ∧ (n 0 0).PairLaw ∧ ownNotice (n 0 0) .release = some (.release 147 0 0) ∧ ownNotice (n 2 1) .release = some (.release 147 2 1)
      ∧ (∃ e ∈ (n 0 0).rail.view, e.id = 147 ∧ (e.initiator = (n 0 0).address ∨ e.counterpart = (n 0 0).address))
      ∧ ((n 0 0).rail.view.map Exchange.id).Nodup ∧ testRecord.other ≠ (n 0 0).address ∧ (n 0 0).pos.phase = .transfer
      ∧ (n 0 0).pos.attempts < 2 ∧ testRecord.dropped = false := by decide
/-- The final RELEASE of the request's own TEST, and of one whose request was withdrawn, with a later test held. -/
theorem witness_FrameCompleteCleanIsHeard_release_request :
    let n (d : Bool) := sendsOwn { party with rail := { party.rail with own := some { testRecord with dropped := d } } }
      .release (releaseFields 147 0 0)
    (n false).Settled ∧ (n false).notEnding ∧ ownNotice (n true) .release = some (.release 147 0 0)
      ∧ (testRecord.initiator = true ∧ testRecord.dropped = false ∧ (n false).rail.side = .party)
      ∧ (n true).rail.own.map OwnRecord.dropped = some true ∧ (n true).rail.testing = true := by decide

theorem witness_FrameCompleteCleanIsHeard_resume :
    let n (k : Kind) (f : Level → Level) := sendsOwn (holding (level party .test f) .test 3 3) k (oneField 147)
    (n .suspend running).Settled ∧ ownNotice (n .suspend running) .suspend = some (.suspend 147)
      ∧ (n .suspend running).rail.own = some testRecord
      ∧ (let held := n .resume fun l => { running l with state := .suspended, heldThere := true, resumeOut := true }
         ownNotice held .resume = some (.resume 147) ∧ held.notEnding ∧ held.rail.side = .party
           ∧ (held.duty.get testRecord.level).state = .suspended ∧ (held.duty.get testRecord.level).heldThere = true)
      ∧ (let free := n .resume fun l => { running l with state := .suspended, resumeOut := true }
         (free.duty.get testRecord.level).heldHere = false ∧ (free.duty.get testRecord.level).heldThere = false) := by decide

theorem witness_FrameCompleteCleanIsHeard_bind :
    let n (a : BitVec 6) (s : PairState) (x : Nat) := sendsOwn { gradedNode with
      pres := { gradedNode.pres with address := a.toNat }
      pair := { gradedNode.pair with state := s, proposed := some 12, partner := none } } .bind (oneField x)
    (n 9#6 .proposing 12).Settled ∧ (n 13#6 .proposing 12).AddressLaw ∧ (n 9#6 .proposing 12).PairLaw ∧ ownNotice (n 9#6 .proposing 12) .bind = some (.bind 12) ∧ (n 9#6 .proposing 12).bondTest 12 = true
      ∧ (n 9#6 .proposing 12).grade.state = .graded ∧ (n 9#6 .proposing 12).pres.state = .active
      ∧ (n 9#6 .proposing 12).pos.view.bind (lowestFree 1) = some 1 ∧ 9 < 12 ∧ 12 < (n 13#6 .proposing 12).address
      ∧ { n 9#6 .proposing 12 with peers := Peers.initial }.bondTest 12 = false
      ∧ ((n 9#6 .seeking 12).pair.state ≠ .proposing ∧ (n 9#6 .seeking 12).pair.partner = none
          ∧ (n 9#6 .seeking 12).line.cleanDue = false)
      ∧ (bound .bound id).pair.partner = some 12 := by decide

theorem witness_FrameCompleteCleanIsHeard_claim :
    let n (phase : Phase) (claims : Nat) (x : PosRecord) := sendsOwn (bound .bound fun q => { q with
      phase := phase, claims := claims, claimed := some 2, position := none
      view := some (setRecord (emptyView plan) 2 x) }) .claim (twoFields 2 12)
    let other : PosRecord := { state := .claimed, couple := some (11, 14) }
    (n .claiming 1 PosRecord.free).Settled ∧ (n .claiming 3 other).PairLaw ∧ ownNotice (n .claiming 1 PosRecord.free) .claim = some (.claim 2 12)
      ∧ (n .claiming 1 PosRecord.free).pos.view.bind (recordAt · 2) = some PosRecord.free
      ∧ (n .claiming 1 other).pos.view.bind (recordAt · 2) = some other
      ∧ (n .claiming 1 other).ownRow 9 = true ∧ (n .claiming 1 other).ownRow 12 = true ∧ 9 < 12
      ∧ ((n .claiming 1 other).pos.claimed = some 2 ∧ (n .claiming 1 other).pos.partner = some 12)
      ∧ (n .bonded 1 { state := .claimed, couple := some (9, 12) }).pos.view.bind (recordAt · 2)
          = some { state := .claimed, couple := some (9, 12) }
      ∧ (n .bonded 1 PosRecord.free).pos.position = none ∧ other.couple ≠ some (9, 12) ∧ (n .claiming 1 other).pres.state = .active
      ∧ (n .claiming 3 other).pair.state = .bound ∧ (n .claiming 3 other).pair.partner.isSome = true := by decide

theorem witness_FrameCompleteCleanIsHeard_report :
    let n (p : Option Nat) (first : Bool) (s : NodeState) := sendsOwn { (bound .joining fun q => { q with
      phase := .reported, partnerReport := p, firstCheck := first, attempts := 1 }) with
        pres := { node.pres with state := s } } .engage (engageFields 2 0 (some (formFig .soc 5000)) none)
    (n (some 5000) true .active).Settled ∧ (n (some 5000) true .active).PairLaw
      ∧ ownNotice (n (some 5000) true .active) .engage = some (.engage 2 0 (some (formFig .soc 5000)) none)
      ∧ (n (some 5000) true .active).pos.phase.joining = true ∧ (n none true .active).pos.partnerReport = none
      ∧ (n (some 5000) true .active).ownRow 9 = true ∧ (n (some 5000) true .active).profile = some profile
      ∧ ((voltageOf profile 5000 : Int) - voltageOf profile 5000).natAbs ≤ plan.joinWindow ∧ (n (some 5000) true .hold).pres.state ≠ .active
      ∧ plan.joinWindow < ((voltageOf profile 5000 : Int) - voltageOf profile 9000).natAbs
      ∧ 0 < (voltageOf profile 5000 : Int) - voltageOf profile 1000 ∧ (n (some 9000) false .active).pos.attempts < 2 := by decide

theorem witness_FrameCompleteCleanIsHeard_steps :
    let n (f : Positions → Positions) (k : Kind) (fields : List (Nat × Value)) := sendsOwn (bound .joining f) k fields
    let joined := n (fun q => { q with phase := .engaging }) .engage (engageFields 2 3 none none)
    let aborts := n (fun q => { q with phase := .engaging }) .vacate (vacateFields 2 0 1)
    let asks := n (fun q => { q with phase := .vacating }) .vacate (vacateFields 2 0 3)
    let ends := sendsOwn (bound .leaving fun q => { q with phase := .vacating }) .vacate (vacateFields 2 3 3)
    joined.Settled ∧ joined.PairLaw ∧ ends.PairLaw ∧ ownNotice joined .engage = some (.engage 2 3 none none) ∧ joined.pos.lead = true ∧ joined.pos.phase = .engaging
      ∧ joined.pair.state = .joining ∧ ownNotice aborts .vacate = some (.vacate 2 0 1) ∧ aborts.pos.attempts < 2
      ∧ aborts.pos.partner ≠ some aborts.address ∧ ownNotice asks .vacate = some (.vacate 2 0 3)
      ∧ ownNotice ends .vacate = some (.vacate 2 3 3) ∧ ends.pos.phase = .vacating ∧ ends.pair.state = .leaving
      ∧ ends.pair.partner.isSome = true := by decide

/-- Own ENGAGE steps 1 to 3 and VACATE steps 0, 1 and 3, each at a record that they move. -/
theorem witness_FrameCompleteCleanIsHeard_moves :
    let n (r : PosState) (k : Kind) (fields : List (Nat × Value)) := sendsOwn (bound .joining fun q => { q with
      phase := .engaging, view := some (setRecord (emptyView plan) 2 { state := r, couple := some (9, 12) }) }) k fields
    let engage (r : PosState) (step : Nat) := n r .engage (engageFields 2 step none none)
    let vacate (r : PosState) (step : Nat) := n r .vacate (vacateFields 2 step 0)
    (engage .claimed 1).Settled ∧ (engage .claimed 1).ownRow 9 = true ∧ (engage .claimed 1).pos.partner ≠ some 9
      ∧ ownNotice (engage .claimed 1) .engage = some (.engage 2 1 none none)
      ∧ ownNotice (engage .engaging 2) .engage = some (.engage 2 2 none none)
      ∧ (engage .claimed 1).pos.view.bind (recordAt · 2) = some { state := .claimed, couple := some (9, 12) }
      ∧ ownNotice (engage .engaging 3) .engage = some (.engage 2 3 none none)
      ∧ ownNotice (vacate .engaging 0) .vacate = some (.vacate 2 0 0) ∧ ownNotice (vacate .engaged 1) .vacate = some (.vacate 2 1 0)
      ∧ ownNotice (vacate .leaving 3) .vacate = some (.vacate 2 3 0) := by decide

theorem witness_ReceiveErrorAndSilentDiscard :
    let f := (waiting .need 160).frame 12
    node.Settled ∧ node.receives = true ∧ node.live = true ∧ (withState .clashed).live = false ∧ (withState .clashed).receives = true
      ∧ verdictOf { f with endMark := false } = .error
      ∧ verdictOf { f with source := 14#6, check := checkOf (protectedBits 160 14 8 0 []) } = .silent := by decide +kernel
/-- A NEED of 12 without its fields, discarded under R33, and a BIND of 12 for 9, delivered. -/
theorem witness_ReceiveErrorAndSilentDiscard_discarded :
    let bind : Queued := { waiting .bind 140 with payload := encodeFields (oneField 9) }
    verdictOf ((waiting .need 160).frame 12) = .heard .need 12 ∧ decode .need 12 ((waiting .need 160).frame 12).payload = none
      ∧ verdictOf (bind.frame 12) = .heard .bind 12 ∧ (decode .bind 12 (bind.frame 12).payload).isSome = true
      ∧ 12 ≠ node.address := by decide +kernel

theorem witness_AddressClashStopsNode :
    let h := notice 9 [(0, .num 147)]
    node.Settled ∧ node.ProtectLaw ∧ node.receives = true ∧ node.live = true ∧ h.source = node.address
      ∧ node.faultRoom .addressClash := by decide
theorem witness_AddressClashStopsNode_discarded : verdictOf ((waiting .directive 255).frame 9) = .heard .directive 9 := by decide +kernel

/-! ### Witnesses: the plan and the node states -/

/-- One part of a plan: identity, index, part count, section and its items. -/
def partHeard (identity index count sect : Nat) (items : List (Nat × Value)) : Heard :=
  notice 0 ([(1, .num identity), (2, .num index), (3, .num count), (4, .num sect)] ++ items)
def partOf (identity index count sect : Nat) (items : List (Nat × Value)) : PlanPart :=
  { identity := identity, index := index, count := count, sect := sect, items := items }
def numbered (values : List Nat) : List (Nat × Value) := values.zipIdx.map fun x => (5 + x.2, .num x.1)
def rackItems : List (Nat × Value) := numbered [10, 8, 48, 1, 4, 2, 40, 3, 4, 1]
def railItems : List (Nat × Value) := numbered [100, 4, 50, 20, 80, 10, 5, 3000]
def timerItems : List (Nat × Value) := numbered [500, 5, 100, 2, 500, 10, 30, 48, 30]
def weightItems : List (Nat × Value) := [(5, .num 1), (6, .list [1, 1, 1, 1, 1, 1, 1, 1, 1, 1])]
def limitItems : List (Nat × Value) :=
  [(5, .num 12), (6, .fig profile.nam), (7, .fig profile.cellMin), (8, .fig profile.cellMax), (9, .fig profile.warn), (10, .fig profile.hard)]
def pointItems : List (Nat × Value) := profile.points.zipIdx.map fun x => (5 + x.2, .fig x.1)
/-- A node that holds all the parts of a plan but the last. -/
def assembling : Node :=
  { node with pres := { node.pres with
      state := .unplanned, plan := none
      assembly := some { identity := 7, count := 6, parts :=
        [(0, partOf 7 0 6 0 rackItems), (1, partOf 7 1 6 1 railItems), (2, partOf 7 2 6 2 timerItems), (3, partOf 7 3 6 3 weightItems),
          (4, partOf 7 4 6 4 limitItems)] } } }

theorem witness_PlanPartsMakePlan_first :
    let n : Node := { node with pres := { node.pres with plan := none } }
    n.hears .plan (partHeard 7 2 6 2 timerItems) (.plan (partOf 7 2 6 2 timerItems)) ∧ n.pres.assembly = none
      ∧ n.hears .plan (partHeard 7 6 6 2 []) (.plan (partOf 7 6 6 2 []))
      ∧ n.hears .plan (partHeard 7 47 48 2 []) (.plan (partOf 7 47 48 2 [])) := by decide
/-- Bad parts, of count 0, of count 49 and of an index that is the count. -/
theorem witness_PlanPartsMakePlan_bad :
    assembling.hears .plan (partHeard 7 0 0 2 []) (.plan (partOf 7 0 0 2 []))
      ∧ assembling.hears .plan (partHeard 7 0 49 2 []) (.plan (partOf 7 0 49 2 []))
      ∧ assembling.hears .plan (partHeard 7 6 6 2 []) (.plan (partOf 7 6 6 2 [])) := by decide
theorem witness_PlanPartsMakePlan_last :
    assembling.hears .plan (partHeard 7 5 6 8 pointItems) (.plan (partOf 7 5 6 8 pointItems)) ∧ assembling.pres.plan = none
      ∧ assembling.pres.state = .unplanned ∧ assembling.faultRoom .planInvalid := by decide
theorem witness_PlanPartsMakePlan_law : assembling.AssemblyLaw := fun b h => by cases h; rfl
theorem witness_PlanPartsMakePlan_next :
    let parts := (assembling.pres.assembly.map Assembly.parts).getD []
    (parts.map Prod.fst).Pairwise (fun i j => i < j) ∧ (parts.filter (fun y => decide (y.1 < 5))).length + 1 = 6
      ∧ assembling.hears .plan (partHeard 7 2 6 2 timerItems) (.plan (partOf 7 2 6 2 timerItems))
      ∧ (parts.filter (fun y => decide (y.1 < 2))).length + 1 + (parts.filter (fun y => decide (2 < y.1))).length ≠ 6 := by decide
/-- All the parts, the points section last. -/
def sixParts (points : List (Nat × Value)) : List PlanPart :=
  [partOf 7 0 6 0 rackItems, partOf 7 1 6 1 railItems, partOf 7 2 6 2 timerItems, partOf 7 3 6 3 weightItems, partOf 7 4 6 4 limitItems,
    partOf 7 5 6 8 points]
theorem witness_PlanPartsMakePlan_complete :
    let taken (points : List (Nat × Value)) := (takePart assembling.pres.assembly (partOf 7 5 6 8 points)).map fun a =>
      (a.identity, a.complete, a.parts.map Prod.snd)
    taken pointItems = some (7, true, sixParts pointItems) ∧ taken [] = some (7, true, sixParts []) := by decide
theorem witness_PlanPartsMakePlan_sound : ∃ p, PlanSound 7 (sixParts pointItems) p ∧ p.roster = 10 :=
  have h : (checkPlan 7 (sixParts pointItems)).map Plan.roster = some 10 := by decide
  (Option.map_eq_some_iff.1 h).imp fun _ hp => ⟨checkPlan_eq_some.1 hp.1, hp.2⟩
theorem witness_PlanPartsMakePlan_unsound (p : Plan) : ¬PlanSound 7 (sixParts []) p :=
  have h : checkPlan 7 (sixParts []) = none := by decide
  fun hp => nomatch h.symm.trans (checkPlan_eq_some.2 hp)

theorem witness_PlanPartsMakePlan_elsewhere :
    let other (a : BitVec 6) (s : NodeState) : Node := { assembling with pres := { assembling.pres with state := s, address := a.toNat } }
    (other 9#6 .unplanned).Settled ∧ (other 9#6 .unplanned).address ≤ 10 ∧ (other 9#6 .listen).pres.state = .listen
      ∧ (other 9#6 .quiet).pres.state = .quiet ∧ 10 < (other 11#6 .unplanned).address
      ∧ (other 11#6 .listen).hears .plan (partHeard 7 5 6 8 pointItems) (.plan (partOf 7 5 6 8 pointItems))
      ∧ (∀ e ∈ (other 11#6 .unplanned).serv.faults, e.code ≠ .strap) ∧ (other 11#6 .unplanned).serv.faults.length < 7 := by decide

theorem witness_PlanConflictKeepsPlan :
    node.Settled ∧ node.hears .plan (partHeard 4101 0 1 15 []) (.plan (partOf 4101 0 1 15 []))
      ∧ node.hears .plan (partHeard 4102 0 1 15 []) (.plan (partOf 4102 0 1 15 [])) ∧ node.pres.plan = some plan
      ∧ node.faultRoom .planConflict := by decide

theorem witness_ListenWindowExpiryMoves :
    let n (p : Option Plan) : Node := { node with pres := { node.pres with state := .listen, listenTimer := some 1500, plan := p } }
    (n none).Settled ∧ (n none).pres.state = .listen ∧ (n none).pres.listenTimer.isSome = true ∧ (n (some plan)).Settled := by decide

theorem witness_TimedNoticesAreHanded :
    let n : Node := { party with
      grade := { node.grade with repeatTimer := some 4000 }
      rail := { party.rail with repeats := [(.release 147 0 0, 400), (.suspend 147, 500), (.resume 147, 600)] }
      pos := { node.pos with repeats := [(.claim 1 12, 400), (.engage 1 0 (some 5000), 500), (.vacate 1 1 6, 600)] } }
    n.Settled ∧ n.pres.presenceTimer.isSome = true ∧ n.pres.state = .active ∧ n.pres.plan = some plan
      ∧ n.grade.repeatTimer.isSome = true
      ∧ (.release 147 0 0, 400) ∈ n.rail.repeats ∧ (.suspend 147, 500) ∈ n.rail.repeats ∧ (.resume 147, 600) ∈ n.rail.repeats
      ∧ (.claim 1 12, 400) ∈ n.pos.repeats ∧ (.engage 1 0 (some 5000), 500) ∈ n.pos.repeats
      ∧ (.vacate 1 1 6, 600) ∈ n.pos.repeats := by decide

theorem witness_LineRejoinStartsAfresh :
    let quiet (n : Node) : Node := { n with pres := { n.pres with state := .quiet, quietTimer := some 2000 } }
    let n := quiet (bound .joining fun q => { q with phase := .settleWait })
    n.Settled ∧ n.pres.state = .quiet ∧ n.pres.quietTimer.isSome = true ∧ n.pair.partner = some 12 ∧ n.bonded = true
      ∧ (quiet (bound .joined fun q => { q with phase := .inString })).pair.state = .joined
      ∧ (quiet (holding (level node .pulse fun l => { l with state := .ending }) .pulse 0 0)).duty.exchanging = false := by decide

/-! ### Witnesses: the peer table -/

theorem witness_PresenceUpdatesEntry :
    let h (ns : Nat) := notice 12 (presenceFields ns (some 4101) 6 3 none 1 none none false none 0 0)
    let x (ns : Nat) : PresenceNotice :=
      { nodeState := ns, planId := some 4101, gradeState := 6, generation := 3, soc := none, pairState := 1, partner := none
        position := none, silent := 0, stated := .omitted, faults := 0, result := 0 }
    node.PairLaw ∧ node.hears .presence (h 3) (.presence (x 3)) ∧ node.hears .presence (h 4) (.presence (x 4))
      ∧ nodeStateOf 3 = some .hold ∧ nodeStateOf 4 = none ∧ gradeStateOf 6 = some .graded ∧ pairStateOf 1 = some .seeking := by decide

/-- A PRESENCE of 12 in ACTIVE with this pair state, partner, position and statement. -/
def heardPresence (pairState : Nat) (partner position : Option Nat) (st : Option Statement) : Heard :=
  notice 12 (presenceFields 2 (some 4101) 6 3 none pairState partner position false st 0 0)
def presenceOf (pairState : Nat) (partner position : Option Nat) (st : Stated) : PresenceNotice :=
  { nodeState := 2, planId := some 4101, gradeState := 6, generation := 3, soc := none, pairState := pairState, partner := partner
    position := position, silent := 0, stated := st, faults := 0, result := 0 }
def statement (units draw : Nat) : Statement := { id := 195, role := 0, other := 14, units := units, draw := draw }

theorem witness_PresenceUpdatesEntry_statements :
    let x (s : Statement) := presenceOf 1 none none (.whole s)
    party.Settled ∧ party.PeerLaw ∧ party.PairLaw ∧ party.rail.own = some testRecord ∧ party.pres.plan = some plan
      ∧ party.hears .presence (heardPresence 1 none none none) (.presence (presenceOf 1 none none .omitted))
      ∧ party.hears .presence (notice 12 [(0, .num 2), (2, .num 6), (3, .num 3), (5, .num 1), (8, .num 0), (9, .num 3), (14, .num 0), (15, .num 0)])
          (.presence { presenceOf 1 none none .broken with planId := none })
      ∧ party.hears .presence (heardPresence 1 none none (some (statement 8 8))) (.presence (x (statement 8 8)))
      ∧ party.hears .presence (heardPresence 1 none none (some (statement 3 4))) (.presence (x (statement 3 4)))
      ∧ party.hears .presence (heardPresence 1 none none (some (statement 9 9))) (.presence (x (statement 9 9)))
      ∧ (statement 3 4).record plan 12 = none
      ∧ (statement 8 8).record plan 12
          = some { id := 195, initiator := 12, counterpart := 14, units := 8, draw := 8, suspended := false } := by decide
theorem witness_PresenceUpdatesEntry_certain :
    let n : Node := { gradedNode with
      rail := { gradedNode.rail with certain := false, boot := false, heardSince := [14] }
      peers := { gradedNode.peers with entries := [peer12, { Peer.fresh 14 0 with lastPresence := some 0 }] } }
    n.Settled ∧ n.PeerLaw ∧ n.PairLaw ∧ n.rail.certain = false ∧ n.rail.boot = false
      ∧ ∀ x ∈ n.peers.entries, x.address ≠ 12 → x.address ∈ n.rail.heardSince ∧ x.lastPresence.isSome = true := by decide
theorem witness_PresenceUpdatesEntry_view :
    let n (phase : Phase) (lead : Bool) (claims : Nat) (r : PosRecord) := bound .bound fun q => { q with
      phase := phase, lead := lead, partner := some 14, claims := claims, view := some (setRecord (emptyView plan) 2 r) }
    let pair14 (m : Node) : Node := { m with pair := { m.pair with partner := some 14 } }
    let old : PosRecord := { state := .claimed, couple := some (12, 13) }
    let hears (pairState : Nat) (partner position : Option Nat) : Prop := node.hears .presence
      (heardPresence pairState partner position none) (.presence (presenceOf pairState partner position .omitted))
    (n .claimWait true 1 PosRecord.free).ownRow 12 = true ∧ (n .claimWait true 1 PosRecord.free).ownRow 13 = true
      ∧ hears 1 none none ∧ hears 4 none (some 2) ∧ hears 2 (some 13) (some 2) ∧ hears 4 (some 13) (some 2)
      ∧ (n .none false 0 PosRecord.free).pos.view.bind (recordAt · 2) = some PosRecord.free
      ∧ (n .none false 0 old).pos.view.bind (recordAt · 2) = some old
      ∧ old.couple = some (min 12 13, max 12 13)
      ∧ (let lead := pair14 (n .claimWait true 2 old)
         lead.PairLaw ∧ lead.pos.phase = .claimWait ∧ lead.pos.position = some 2 ∧ lead.pos.partner ≠ some 12 ∧ lead.pair.partner ≠ some 12
           ∧ lead.pres.state = .active ∧ lead.pos.claims < 3
           ∧ lowestFree 1 (setRecord (emptyView plan) 2 { state := .claimed, couple := some (12, 13) }) = some 1)
      ∧ (pair14 (n .claimWait false 1 old)).pos.lead = false := by decide
theorem witness_PresenceUpdatesEntry_bond :
    let n (frames : Nat) : Node := { bound .bound id with pair := { (bound .bound id).pair with frames := frames } }
    (n 1).Settled ∧ (n 1).PeerLaw ∧ (n 1).PairLaw ∧ (n 1).bonded = true ∧ (n 1).pair.partner = some 12 ∧ (n 1).pos.partner = some 12
      ∧ (n 1).rail.own = none ∧ 1 ≤ (n 1).pair.frames ∧ ¬1 ≤ (n 0).pair.frames
      ∧ (n 1).hears .presence (heardPresence 3 (some 14) none none) (.presence (presenceOf 3 (some 14) none .omitted))
      ∧ (n 1).hears .presence (heardPresence 3 (some 9) none none) (.presence (presenceOf 3 (some 9) none .omitted)) := by decide

theorem witness_GradeReplacesEntry :
    let cap := some (formFig .cap 5400)
    let h (c : Nat) := notice 12 (gradeFields 3 c { gradedRecord with res := none })
    node.hears .grade (h 1) (.grade 3 1 (some 0) cap none) ∧ node.hears .grade (h 5) (.grade 3 5 (some 0) cap none)
      ∧ classOf 1 = some .a ∧ classOf 5 = none ∧ (node.peer 12).bind Peer.heldGen ≠ some 3
      ∧ (gradedNode.peer 12).bind Peer.heldGen = some 3 ∧ node.PairLaw ∧ gradedNode.PairLaw := by decide

theorem witness_GradeReplacesEntry_candidates :
    let h (g : Nat) := notice 12 (gradeFields g 1 gradedRecord)
    gradedNode.Settled ∧ gradedNode.PeerLaw ∧ gradedNode.hears .grade (h 3) (.grade 3 1 (some 0) (some (formFig .cap 5400)) (some (formFig .res 430)))
      ∧ gradedNode.wouldTake plan peer12 ∧ plan.wQ ≤ 15 ∧ plan.wR ≤ 15 ∧ gradedNode.pres.state = .active
      ∧ scorePart 5400 5410 = 2 ∧ scorePart 430 430 = 0 ∧ 10 * 2 + 5 * 0 ≤ plan.maxScore
      ∧ node.grade.published.cap = none ∧ gradedNode.PairLaw := by decide
theorem witness_GradeReplacesEntry_matches : gradedNode.matchesWith plan peer12 20 :=
  ⟨⟨formFig .cap 5400, formFig .res 430, rfl, rfl, formFig .cap 5410, formFig .res 430, rfl, rfl, by decide⟩, .inl rfl, .inl rfl,
    by decide, rfl, rfl, by decide⟩
theorem witness_GradeReplacesEntry_bond :
    let h (cap : Option Fig) := notice 12 (gradeFields 4 1 { gradedRecord with cap := cap })
    let n := bound .bound id
    n.Settled ∧ n.PeerLaw ∧ n.bonded = true ∧ n.PairLaw ∧ n.pair.partner = some 12
      ∧ (n.peer 12).bind Peer.heldGen ≠ some 4
      ∧ n.hears .grade (h none) (.grade 4 1 (some 0) none (some (formFig .res 430)))
      ∧ n.hears .grade (h (some (formFig .cap 5410))) (.grade 4 1 (some 0) (some (formFig .cap 5410)) (some (formFig .res 430))) := by decide
theorem witness_GradeReplacesEntry_mismatch : ∀ score, ¬gradedNode.matchesWith plan { peer12 with cap := none } score :=
  fun _ ⟨⟨_, _, _, _, _, _, h, _⟩, _⟩ => nomatch h

theorem witness_ReadoutAndFaultRestartAges :
    let n := bound .joined fun q => { q with phase := .inString }
    n.Settled ∧ n.hears .readout (notice 12 [(0, .num 3)]) (.readout 3)
      ∧ n.hears .fault (notice 12 (faultFields 5 1 none 0)) (.fault 5 1) ∧ n.pair.partner = some 12 ∧ n.pair.state = .joined
      ∧ node.hears .readout (notice 12 [(0, .num 3)]) (.readout 3) := by decide

theorem witness_EntryExpiresRemovesPeer :
    let n := bound .bound id
    n.Settled ∧ n.live = true ∧ n.pres.plan.isSome = true ∧ (n.peer 12).isSome = true ∧ n.bonded = true
      ∧ n.pair.partner = some 12 := by decide

/-! ### Witnesses: measurement and grading -/

/-- Readings in range, at these module volts in mV, milliamperes and tenths of a degree. -/
def sampled (v i t : Int) : RawSample :=
  { voltage := .value v, current := .value i, temp1 := .value t, temp2 := .value 250, bus := .value 0, tag := ⟨true, 0#2⟩ }

theorem witness_SampleSetMeasured :
    let n : Node := holding (level { party with mon := { party.mon with
      counter := { count := 2147483646, residue := 99, running := true, saturated := false } } } .test running) .test 3 3
    n.Settled ∧ n.mon.counter.running = true ∧ ¬n.breachesHard (sampleOf (sampled 44400 40000 250))
      ∧ ¬n.breachesSoft (sampleOf (sampled 44400 40000 250)) ∧ n.grade.state ≠ .selfRest
      ∧ n.duty.conv.holder = some .test ∧ (n.duty.get .test).dir = .source
      ∧ tagAgrees ⟨true, 0#2⟩ n.mon.tag = true ∧ tagAgrees ⟨true, 1#2⟩ n.mon.tag = false
      ∧ tagAgrees ⟨true, 1#2⟩ (withMon fun m => { m with tagSeen := ⟨true, 1#2⟩, tagRun := 4 }).mon.tagSeen = true := by decide

theorem witness_LimitBreachTakesProtect :
    let n := holding (level party .test running) .test 3 3
    n.Settled ∧ n.notEnding ∧ n.breachesHard (sampleOf (sampled 44400 3000 601)) ∧ ¬n.breachesHard (sampleOf (sampled 44400 3000 600))
      ∧ n.breachesHard (sampleOf { sampled 44400 3000 250 with current := .overHigh })
      ∧ n.breachesSoft (sampleOf (sampled 44400 3000 451)) ∧ ¬n.breachesSoft (sampleOf (sampled 44400 3000 450))
      ∧ n.mon.limit = .clear ∧ n.duty.protect.state = .empty ∧ n.faultRoom .limit ∧ (n.duty.get .test).state = .running := by decide

theorem witness_LimitClearReleasesProtect :
    let n0 := holding (level node .protect fun l => { l with state := .running }) .protect 0 0
    let n := level { n0 with mon := { n0.mon with limit := .hard, clearTimer := some 10000 } } .test
      fun l => { running l with state := .suspended, heldHere := true }
    n.Settled ∧ n.mon.clearTimer.isSome = true ∧ n.notEnding ∧ n.duty.protect.state = .running
      ∧ (n.duty.get .test).state = .suspended ∧ (n.duty.get .test).heldHere = true := by decide

theorem witness_ModuleChangeStartsAnew :
    let change (n : Node) (t : TagReading) : Node := { n with mon := { n.mon with tagSeen := t, tagRun := 5 } }
    let n := change (bound .joined fun q => { q with phase := .inString }) ⟨true, 1#2⟩
    n.Settled ∧ 5 ≤ n.mon.tagRun ∧ n.live = true ∧ n.pos.phase = .inString ∧ n.pres.plan = some plan ∧ n.mon.tagSeen.present = true
      ∧ (change (bound .bound id) ⟨false, 0#2⟩).bonded = true ∧ (change gradedNode ⟨false, 0#2⟩).pair.state = .seeking := by decide

theorem witness_RestCompletesReading :
    let rested (s : GradeState) : Node := { node with
      mon := { node.mon with watchGrade := some { duration := 1800000, sampled := true }, rest := 1800000 }
      grade := { node.grade with state := s, restStart := some 7000 } }
    (rested .restA).Settled ∧ (rested .restA).mon.watchGrade = some { duration := 1800000, sampled := true }
      ∧ 1800000 ≤ (rested .restA).mon.rest ∧ (rested .restA).average = some 44400 ∧ (rested .restA).pres.plan = some plan
      ∧ (rested .restA).pres.state = .active ∧ 2 ≤ plan.pulseCurrent ∧ plan.pulseCurrent ≤ 10
      ∧ (rested .restA).duty.join.state = .empty ∧ (rested .restA).duty.serve.state = .empty
      ∧ (rested .restA).duty.test.state = .empty ∧ (rested .restA).duty.pulse.state = .empty
      ∧ (level (rested .restA) .serve running).duty.serve.state ≠ .empty
      ∧ (rested .selfRest).grade.restStart = some 7000 ∧ ((rested .selfRest).readingOf 44400).soc = some 3500 := by decide

theorem witness_AttemptJudged :
    let n (count : Int) (attempts : Nat) : Node := { node with
      mon := { node.mon with
        watchGrade := some { duration := 1800000, sampled := true }, rest := 1800000
        counter := { count := count, residue := 0, running := true, saturated := false } }
      grade := { node.grade with
        state := .restB, attempts := attempts
        readingA := some { millivolts := 46000, ocv := formFig .ocv 46000, soc := some 7000, rest := 0, moment := 0 } } }
    (n 7000000 1).Settled ∧ (n 7000000 1).mon.watchGrade = some { duration := 1800000, sampled := true }
      ∧ 1800000 ≤ (n 7000000 1).mon.rest ∧ (n 7000000 1).average = some 44400 ∧ (n 7000000 1).profile = some profile
      ∧ (n 7000000 1).grade.readingA.bind RestReading.soc = some 7000 ∧ ((n 7000000 1).readingOf 44400).soc = some 3500
      ∧ (n 7000000 1).live = true ∧ (n 7000000 1).pair.state = .unpaired
      ∧ ¬(max 7000 3500 - min 7000 3500 < plan.testDepth * 50) ∧ (n 0 1).mon.counter.count = 0 ∧ (n 0 1).grade.attempts < 2
      ∧ 2 ≤ (n 0 2).grade.attempts ∧ (n 0 2).faultRoom .gradeFail := by decide

/-- A member at the end of its rest watch, with the partner's report and this own report. -/
def settling (own : Option Nat) : Node :=
  let n0 := bound .joining fun q => { q with phase := .settleWait, ownReport := own, partnerReport := some 5000, firstCheck := true }
  { n0 with mon := { n0.mon with watchPosition := some { duration := 30000, sampled := true }, rest := 60000 } }

theorem witness_PositionRestAndMinuteReadings :
    let n := settling none
    n.Settled ∧ n.average = some 44400 ∧ n.mon.watchPosition = some { duration := 30000, sampled := true } ∧ 30000 ≤ n.mon.rest
      ∧ n.pos.position = some 2 ∧ n.live = true ∧ n.pos.phase = .settleWait ∧ 0 < n.mon.rest ∧ n.mon.rest % 60000 = 0
      ∧ n.pos.ownReport = none := by decide
theorem witness_PositionRestAndMinuteReadings_both :
    (settling (some 9000)).Settled ∧ (settling (some 9000)).pres.plan = some plan ∧ (settling (some 9000)).profile = some profile
      ∧ (settling (some 9000)).pos.ownReport = some 9000 ∧ (settling (some 9000)).pos.partnerReport = some 5000
      ∧ (settling (some 9000)).pres.state = .active ∧ (settling (some 9000)).pos.firstCheck = true
      ∧ plan.joinWindow < ((voltageOf profile 9000 : Int) - voltageOf profile 5000).natAbs
      ∧ ((voltageOf profile 5000 : Int) - voltageOf profile 5000).natAbs ≤ plan.joinWindow
      ∧ { settling (some 5000) with pres := { node.pres with state := .hold } }.pres.state ≠ .active := by decide
theorem witness_PositionRestAndMinuteReadings_law (own : Option Nat) : (settling own).PairLaw := ⟨fun _ => rfl, fun _ _ => .inl rfl⟩

/-! ### Witnesses: levels and the converter -/

theorem witness_RampDownHandsOver :
    let ready := level node .test fun l => { l with state := .ready, dir := .sink, setpoint := 3 }
    let ending (i : LevelId) (c : EndCause) := holding (level party i fun l => { l with state := .ending, cause := some c }) i 0 0
    let pulse0 := ending .pulse .time
    let pulse (current : Int) : Node := { pulse0 with
      duty := { pulse0.duty with pulseEnd := some (current, 44000) }
      grade := { pulse0.grade with
        state := .pulse, readingA := some { millivolts := 44400, ocv := formFig .ocv 44400, soc := some 3500, rest := 0, moment := 0 } } }
    let test0 := ending .test .charge
    let test : Node := level { test0 with grade := { test0.grade with state := .capTest } } .test fun l => { l with exchange := some 147 }
    let withdrawn : Node := { test with rail := { test.rail with own := some { testRecord with dropped := true } } }
    (holding node .test 0 1).Settled ∧ (holding node .test 0 1).duty.conv.actual ≠ 0
      ∧ (ready.Settled ∧ ready.duty.owner = some .test ∧ ready.duty.conv.holder = none ∧ (ready.duty.get .test).state = .ready)
      ∧ ((ending .join .ended).Settled ∧ (ending .join .ended).duty.conv.holder = some .join
          ∧ ((ending .join .ended).duty.get .join).state = .ending ∧ (ending .join .ended).duty.kept .join = none)
      ∧ ((pulse 1000).duty.conv.holder = some .pulse ∧ (pulse 1000).duty.pulse.cause = some .time ∧ (pulse 1000).profile = some profile
          ∧ (pulse 1000).live = true ∧ 1000 * plan.pulseCurrent ≤ 4 * (1000 : Int).natAbs
          ∧ 4 * (999 : Int).natAbs < 1000 * plan.pulseCurrent ∧ (pulse 999).duty.pulseEnd = some (999, 44000))
      ∧ (test.Settled ∧ test.duty.conv.holder = some .test ∧ test.duty.test.state = .ending ∧ test.duty.test.cause = some .charge
          ∧ test.duty.test.reported = true ∧ test.duty.keptTest = none ∧ test.live = true ∧ test.rail.own = some testRecord
          ∧ testRecord.initiator = true ∧ testRecord.join = false ∧ testRecord.dropped = false
          ∧ test.duty.test.exchange = some testRecord.id ∧ test.rail.testOrdinary = none)
      ∧ withdrawn.rail.own.map OwnRecord.dropped = some true := by decide

theorem witness_LevelStopEndsHolder :
    let n (t b m : Option Nat) := holding (level party .test fun l =>
      { running l with target := t, bound := b, limit := m, charge := 1000, elapsed := 2000, exchange := some 147, sampled := true }) .test 3 3
    (n (some 1000) none none).Settled ∧ (n (some 1000) none none).mon.cell = some 37000
      ∧ (n (some 1000) none none).duty.conv.holder = some .test ∧ ((n (some 1000) none none).duty.get .test).state = .running
      ∧ (n (some 1000) none none).duty.owner = some .test ∧ (n (some 1000) none none).duty.conv.actual ≠ 0
      ∧ ((n (some 1000) none none).duty.get .test).sampled = true
      ∧ ((holding (level party .test running) .test 3 3).duty.get .test).sampled = false
      ∧ min ((1000 : Nat) : Int) 2147483647 ≤ ((n (some 1000) none none).duty.get .test).charge
      ∧ ((n (some 1001) (some 37000) none).duty.get .test).charge < min ((1001 : Nat) : Int) 2147483647
      ∧ ((n none (some 36999) (some 2000)).duty.get .test).elapsed = 2000 ∧ ¬(37000 ≤ 36999)
      ∧ testRecord.level = .test ∧ ((n none none none).duty.get .test).exchange = some testRecord.id
      ∧ (n none none none).rail.own = some testRecord ∧ (∃ e ∈ (n none none none).rail.view, e.id = testRecord.id)
      ∧ { n none (some 36999) none with mon := { node.mon with cell := none } }.mon.cell = none
      ∧ node.duty.conv.holder = none := by decide

/-! ### Witnesses: rail units and exchanges -/

/-- A node that may offer: a known state of charge, headroom 26.10 Ah for a sink. -/
def server : Node := { (withRail id) with
  mon := { node.mon with reading := some { millivolts := 44400, ocv := formFig .ocv 44400, soc := some 3500, rest := 0, moment := 0 } } }

theorem witness_NeedAnsweredByOffer :
    let h (dir : Nat) := notice 12 (needFields 195 dir 3 (formFig .hdr 2430))
    server.Settled ∧ server.hears .need (h 1) (.need 195 1 3 (formFig .hdr 2430)) ∧ server.hears .need (h 0) (.need 195 0 3 (formFig .hdr 2430))
      ∧ server.pres.plan = some plan ∧ server.headroom plan .sink = some (formFig .hdr 2430)
      ∧ server.headroom plan .source = some (formFig .hdr 810) ∧ (formFig .hdr 810).ge (formFig .hdr 2430) = false
      ∧ (withRail id).headroom plan .sink = none := by decide
theorem witness_NeedAnsweredByOffer_offers : server.couldOffer plan .sink (formFig .hdr 2430) (formFig .hdr 2430) :=
  ⟨by decide, by decide, by decide, by decide, by decide, by decide, by decide, by decide, by decide, by decide,
    3500, by decide, 5400, by decide, by decide⟩

theorem witness_OfferEntered :
    let n (offers : List (Nat × Fig)) (s : OwnSide) := withRail fun r =>
      { r with side := s, current := some 147, request := some request, offers := offers }
    let h := notice 12 (offerFields 147 (formFig .hdr 2160))
    (n [] .window).Settled ∧ (n [] .window).hears .offer h (.offer 147 (formFig .hdr 2160))
      ∧ (n [] .window).rail.expected = some (formFig .hdr 2160) ∧ (formFig .hdr 2160).ge (formFig .hdr 2160) = true
      ∧ (n [(3, formFig .hdr 3000)] .window).rail.offers.map Prod.fst = [3] ∧ plan.offerCount = 2
      ∧ (n [] .waiting).rail.side ≠ .window := by decide

def terms (counterpart units : Nat) : AgreeTerms :=
  { id := 195, counterpart := counterpart, kind := 0, dir := 0, units := units, draw := drawOf 1 units, expected := none }
def agreeHeard (t : AgreeTerms) : Heard := notice 12 (agreeFields t.id t.counterpart t.kind t.dir t.units t.draw t.expected)

theorem witness_AgreeJudged :
    let offered := withRail fun r => { r with held := some { id := 195, initiator := 12, headroom := formFig .hdr 2430 } }
    node.Settled ∧ node.hears .agree (agreeHeard (terms 9 8)) (.agree 195 9 0 0 8 8 none)
      ∧ offered.rail.held.map HeldOffer.id = some 195 ∧ offered.rail.own = none ∧ (terms 9 8).kind = 0
      ∧ (withRail fun r => { r with own := some testRecord }).rail.own.isSome = true := by decide
theorem witness_AgreeJudged_unsound : (terms 9 9).unsound node.rail.view 12 ∧ (terms 9 0).unsound node.rail.view 12 := by decide
theorem witness_AgreeJudged_void : ¬(terms 20 3).unsound party.rail.view 12 ∧ busy 12 party.rail.view = true := by decide
/-- The void AGREE that names the node: the partner of a JOINED couple, whose silence flag is set, names it while it is a party. -/
theorem witness_AgreeJudged_void_named :
    let n : Node := { party with pair := { party.pair with state := .joined, partner := some 12, silent := true } }
    n.Settled ∧ n.hears .agree (agreeHeard (terms 9 3)) (.agree 195 9 0 0 3 3 none) ∧ n.pres.plan = some plan
      ∧ ¬(terms 9 3).unsound n.rail.view 12 ∧ (terms 9 3).counterpart = n.address ∧ n.queueOpen = true ∧ n.rail.side ≠ .waiting := by
  decide
theorem witness_AgreeJudged_void_named_fits : ¬(terms 9 3).fits plan party.rail.view 12 :=
  fun h => (h.2.2.2.2.1 exchange (.head _) (by decide)).2 rfl
theorem witness_AgreeJudged_void_fits : ¬(terms 20 3).fits plan party.rail.view 12 :=
  fun h => (h.2.2.2.2.1 exchange (.head _) (by decide)).2 rfl
theorem witness_AgreeJudged_fits : (terms 9 8).fits plan node.rail.view 12 :=
  ⟨by decide, by decide, by decide, by decide, fun _ h => (List.not_mem_nil (show _ ∈ [] from h)).elim,
    fun _ h => (List.not_mem_nil (show _ ∈ [] from h)).elim⟩
theorem witness_AgreeJudged_join :
    let terms : AgreeTerms := { id := 195, counterpart := 9, kind := 1, dir := 0, units := 3, draw := 3, expected := none }
    let joining := bound .joining id
    joining.hears .agree (agreeHeard terms) (.agree 195 9 1 0 3 3 none) ∧ joining.pair.partner = some 12
      ∧ joining.pair.state = .joining ∧ joining.rail.own = none ∧ node.pair.partner ≠ some 12 ∧ node.rail.own = none := by decide
theorem witness_AgreeJudged_lapsed :
    let t : AgreeTerms := { terms 9 3 with dir := 1, expected := some (formFig .hdr 810) }
    server.hears .agree (agreeHeard t) (.agree 195 9 0 1 3 3 (some (formFig .hdr 810))) ∧ server.rail.held = none
      ∧ server.rail.own = none ∧ server.headroom plan .source = some (formFig .hdr 810) := by decide
theorem witness_AgreeJudged_offers : server.couldOffer plan .source (formFig .hdr 810) (formFig .hdr 810) :=
  ⟨by decide, by decide, by decide, by decide, by decide, by decide, by decide, by decide, by decide, by decide,
    3500, by decide, 5400, by decide, by decide⟩
theorem witness_AgreeJudged_held :
    let n (initiator : Nat) := withRail fun r => { r with
      own := some testRecord, view := [exchange], held := some { id := 33, initiator := initiator, headroom := formFig .hdr 2430 } }
    (n 12).rail.held.map HeldOffer.initiator = some 12 ∧ (n 14).rail.held.map HeldOffer.initiator ≠ some 12
      ∧ (n 12).hears .agree (agreeHeard (terms 20 3)) (.agree 195 20 0 0 3 3 none) := by decide
theorem witness_ReleaseTaken :
    let h (src units : Nat) := notice src (releaseFields 147 units 0)
    party.Settled ∧ party.hears .release (h 12 0) (.release 147 0 0) ∧ party.hears .release (h 12 2) (.release 147 2 0)
      ∧ party.hears .release (h 11 0) (.release 147 0 0) ∧ party.pres.plan = some plan
      ∧ (party.rail.view.map Exchange.id).Nodup ∧ (∃ e ∈ party.rail.view, e.id = 147 ∧ (e.initiator = 12 ∨ e.counterpart = 12))
      ∧ (∀ e ∈ party.rail.view, e.id = 147 → e.initiator ≠ 11 ∧ e.counterpart ≠ 11) ∧ testRecord.other = 12
      ∧ 2 < testRecord.units := by decide

/-- The RELEASE of the request's own exchange, and of one whose request was withdrawn, with a later test held. -/
theorem witness_ReleaseTaken_request :
    let later : Node := { party with rail := { party.rail with own := some { testRecord with dropped := true } } }
    party.rail.own = some testRecord ∧ testRecord.initiator = true ∧ testRecord.dropped = false ∧ party.rail.side = .party
      ∧ party.notEnding ∧ later.Settled ∧ later.rail.testing = true ∧ later.rail.own.map OwnRecord.dropped = some true
      ∧ later.hears .release (notice 12 (releaseFields 147 0 0)) (.release 147 0 0) := by decide

theorem witness_SuspendAndResumeTaken :
    let n (f : Level → Level) := holding (level party .test f) .test 3 3
    (n running).Settled ∧ (n running).notEnding ∧ (n running).hears .suspend (notice 12 (oneField 147)) (.suspend 147)
      ∧ (n running).hears .resume (notice 12 (oneField 147)) (.resume 147) ∧ (n running).rail.own = some testRecord
      ∧ (n running).rail.side = .party ∧ ((n running).duty.get testRecord.level).state = .running
      ∧ ((n fun l => { running l with state := .suspended, heldThere := true }).duty.get testRecord.level).state = .suspended := by decide

/-- A waiting initiator whose retry timer runs. -/
def retrying (q : Request) (f : Node → Node) : Node :=
  f { withRail (fun r => { r with side := .waiting, request := some q, retryTimer := some 1000 }) with
      pair := { node.pair with state := .joining, partner := some 12 } }

theorem witness_RetryTestsForRoom :
    let n := retrying request id
    let full := retrying request fun m => { m with rail := { m.rail with view := List.replicate 4 exchange } }
    n.Settled ∧ n.rail.retryTimer.isSome = true ∧ n.live = true ∧ n.pres.plan = some plan ∧ n.rail.side = .waiting
      ∧ n.hasRoom plan (n.asks plan 3) ∧ ¬full.hasRoom plan (full.asks plan 3)
      ∧ (retrying (.join 4) id).hasRoom plan ((retrying (.join 4) id).asks plan 4) ∧ (retrying (.join 4) id).pair.partner = some 12
      ∧ (withRail fun r => { r with retryTimer := some 1000 }).rail.request = none := by decide

theorem witness_InitiatorTimersTestRoom :
    let n := withRail fun r => { r with side := .needing, needTimer := some 1000, heldTimer := some 350, certainTimer := some 2500 }
    let a := withRail fun r => { r with side := .agreeing, agreeTimer := some 1000 }
    n.Settled ∧ n.live = true ∧ n.rail.needTimer.isSome = true ∧ n.rail.side = .needing ∧ n.rail.heldTimer.isSome = true
      ∧ n.rail.certainTimer.isSome = true ∧ n.pres.plan.isSome = true ∧ a.rail.agreeTimer.isSome = true
      ∧ a.rail.side = .agreeing := by decide

theorem witness_OfferWindowCloses :
    let n (offers : List (Nat × Fig)) := withRail fun r =>
      { r with side := .window, current := some 144, asked := 3, request := some request, windowTimer := some 100, offers := offers }
    (n []).Settled ∧ (n []).live = true ∧ (n []).pres.plan = some plan ∧ (n []).rail.current = some 144
      ∧ (n []).rail.windowTimer.isSome = true ∧ (n []).hasRoom plan 3 ∧ ¬(n []).hasRoom plan 40
      ∧ (n [(0, formFig .hdr 9000), (3, formFig .hdr 2200)]).rail.offers ≠ []
      ∧ ([(0, formFig .hdr 9000), (3, formFig .hdr 2200)].map Prod.fst).Pairwise (fun a b => a < b) := by decide

theorem witness_StartTimerMakesParty :
    let n (o : OwnRecord) (f : Level → Level) := level (withRail fun r =>
      { r with own := some o, side := .starting, startTimer := some 50, view := [exchange], request := some request }) .test f
    (n testRecord id).Settled ∧ (n testRecord id).rail.startTimer.isSome = true ∧ (n testRecord id).notEnding
      ∧ ((n testRecord id).duty.get testRecord.level).state = .empty ∧ 1 ≤ testRecord.units ∧ testRecord.units ≤ 8
      ∧ testRecord.dir ≠ .off ∧ testRecord.flagOther = false ∧ (n testRecord id).duty.protect.state = .empty
      ∧ ((n testRecord running).duty.get testRecord.level).state = .running
      ∧ (level (n testRecord id) .protect fun l => { l with state := .running }).duty.protect.state = .running
      ∧ ((n { testRecord with join := true, flagOther := true } id).duty.get .join).state = .empty
      ∧ (n { testRecord with initiator := false, dir := .sink } id).profile = some profile
      ∧ ((n { testRecord with initiator := false, dir := .sink } id).duty.get .serve).state = .empty := by decide

theorem witness_PartyTimersRelease :
    let n0 := holding (level party .test running) .test 3 3
    let n : Node := { n0 with rail := { n0.rail with suspendTimer := some 10000, silenceTimer := some 1000 } }
    n.Settled ∧ n.live = true ∧ n.rail.own = some testRecord ∧ n.rail.suspendTimer.isSome = true ∧ n.rail.silenceTimer.isSome = true
      ∧ n.TestLaw ∧ n.rail.side = .party ∧ (∃ e ∈ n.rail.view, e.id = testRecord.id)
      ∧ n.duty.conv.holder = some testRecord.level ∧ n.duty.owner = some testRecord.level ∧ n.duty.conv.actual ≠ 0
      ∧ (party.duty.get testRecord.level).over := by decide
/-- The pairing law holds for the node of this witness, whose TEST has no end classification. -/
theorem witness_PartyTimersRelease_law : node.PairLaw ∧ party.PairLaw ∧ party.rail.testOrdinary = none :=
  ⟨⟨by decide, by decide⟩, ⟨by decide, by decide⟩, rfl⟩

/-! ### Witnesses: pairing -/

theorem witness_ProposeAnswered :
    let h (t : Nat) := notice 12 (proposeFields t (formFig .sco 20) 3 5)
    gradedNode.Settled ∧ gradedNode.hears .propose (h 9) (.propose 9 (formFig .sco 20) 3 5)
      ∧ gradedNode.hears .propose (h 10) (.propose 10 (formFig .sco 20) 3 5) ∧ gradedNode.pres.plan = some plan
      ∧ gradedNode.pair.state = .seeking ∧ gradedNode.pair.target = some 12 ∧ (gradedNode.peer 12).bind Peer.heldGen = some 3
      ∧ gradedNode.grade.generation = 5 ∧ gradedNode.peers.cands.find? (fun c => c.1 == 12) = some (12, formFig .sco 20)
      ∧ gradedNode.grade.state ≠ .selfRest := by decide

theorem witness_BindAndUnbindBond :
    let proposing (a : BitVec 6) : Node := { gradedNode with
      pres := { gradedNode.pres with address := a.toNat }
      pair := { gradedNode.pair with state := .proposing, proposed := some 12 } }
    let n := proposing 9#6
    n.Settled ∧ n.hears .bind (notice 12 (oneField 9)) (.bind n.address) ∧ n.pair.state = .proposing ∧ n.pair.proposed = some 12
      ∧ n.bondTest 12 = true ∧ n.grade.state = .graded ∧ n.address < 12 ∧ n.pres.state = .active
      ∧ n.pos.view.bind (lowestFree 1) = some 1 ∧ n.hasFree = true ∧ n.duty.join.over
      ∧ ((proposing 13#6).hears .bind (notice 12 (oneField 13)) (.bind 13) ∧ 12 < (proposing 13#6).address)
      ∧ ((bound .bound id).hears .unbind (notice 12 (twoFields 9 5)) (.unbind 9 5) ∧ (bound .bound id).bonded = true
          ∧ (bound .bound id).pair.partner = some 12 ∧ (bound .bound id).pos.phase.bonds = true)
      ∧ (bound .bound id).hears .unbind (notice 12 (twoFields 10 5)) (.unbind 10 5) := by decide
/-- A BIND that fails its bond test, one of the partner and one of any other node; an UNBIND in PROPOSING, in JOINED and of another
node. -/
theorem witness_BindAndUnbindBond_refused :
    let n (t : Option Nat) : Node := { gradedNode with
      pair := { gradedNode.pair with state := .proposing, proposed := some 12, target := t } }
    let alone : Node := { n none with peers := Peers.initial }
    let bind := notice 12 (oneField 9)
    let unbind := notice 12 (twoFields 9 0)
    alone.Settled ∧ alone.hears .bind bind (.bind 9) ∧ alone.bondTest 12 = false ∧ alone.pair.target = none ∧ alone.line.queue = []
      ∧ (bound .joined id).hears .bind bind (.bind 9) ∧ (bound .joined id).pair.partner = some 12
      ∧ gradedNode.hears .bind bind (.bind 9) ∧ gradedNode.pair.state ≠ .proposing ∧ gradedNode.pair.partner ≠ some 12
      ∧ gradedNode.hears .bind (notice 12 (oneField 10)) (.bind 10)
      ∧ (n none).hears .unbind unbind (.unbind 9 0) ∧ (n (some 12)).pair.target = some 12
      ∧ (n (some 12)).peers.cands.find? (fun c => c.1 == 12) = some (12, formFig .sco 20)
      ∧ ((n (some 12)).peer 12).bind Peer.heldGen = some 3
      ∧ (bound .joined id).hears .unbind unbind (.unbind 9 0) ∧ (bound .joined id).bonded = false
      ∧ (bound .leaving id).bonded = false ∧ gradedNode.bonded = false := by decide

theorem witness_PairingTimers :
    let n (t : Option Nat) : Node := { gradedNode with pair := { gradedNode.pair with
      state := .proposing, proposed := some 12, proposalTimer := some 2000, target := t, barred := some 14
      barTimer := some 20000, silenceTimer := some 2500 } }
    (n none).Settled ∧ (n none).live = true ∧ (n none).pair.state = .proposing ∧ (n none).pair.proposalTimer.isSome = true
      ∧ (n none).pair.target = none ∧ (n none).grade.state = .graded ∧ (n (some 12)).pair.target = some 12
      ∧ (n (some 12)).peers.cands.find? (fun c => c.1 == 12) = some (12, formFig .sco 20)
      ∧ ((n (some 12)).peer 12).bind Peer.heldGen = some 3 ∧ (n none).pair.barTimer.isSome = true
      ∧ (n none).pair.silenceTimer.isSome = true := by decide
/-- A node in SEEKING that has barred its one candidate. -/
theorem witness_PairingTimers_bar :
    let n : Node := { gradedNode with pair := { gradedNode.pair with target := none, barred := some 12, barTimer := some 20000 } }
    n.Settled ∧ n.live = true ∧ n.pair.barTimer.isSome = true ∧ n.pair.state = .seeking ∧ n.pres.plan = some plan
      ∧ n.peers.cands.head? = some (12, formFig .sco 20) ∧ (n.peer 12).bind Peer.heldGen = some 3 ∧ n.line.queue = []
      ∧ node.peers.cands = [] := by decide

/-! ### Witnesses: positions -/

theorem witness_ClaimRecorded :
    let n : Node := { bound .bound (fun q => { q with lead := false, position := none }) with
      pres := { node.pres with address := 13 } }
    let waits : Node := { n with pos := { n.pos with phase := .claimWait, position := some 2 } }
    let h (k y : Nat) := notice 12 (twoFields k y)
    n.Settled ∧ n.hears .claim (h 4 13) (.claim 4 13) ∧ n.pres.plan = some plan ∧ n.pos.view = some (emptyView plan)
      ∧ n.ownRow 12 = true ∧ n.ownRow 13 = true ∧ 4 ≤ (emptyView plan).length ∧ recordAt (emptyView plan) 4 = some PosRecord.free
      ∧ n.pos.phase = .bonded ∧ n.pos.partner = some 12 ∧ n.hears .claim (h 5 13) (.claim 5 13) ∧ (emptyView plan).length < 5
      ∧ waits.pos.phase = .claimWait ∧ waits.pos.position ≠ some 4
      ∧ n.hears .claim (h 4 11) (.claim 4 11) ∧ node.pos.phase ≠ .bonded ∧ node.pos.phase ≠ .claimWait := by decide

/-- A couple of 9 and 12 on position 2, its record in this state. -/
def couple (lead : Bool) (phase : Phase) (s : PairState) (r : PosState) : Node :=
  { bound s (fun q => { q with
      phase := phase, lead := lead, view := some (setRecord (emptyView plan) 2 { state := r, couple := some (9, 12) }) }) with
    pres := { node.pres with address := if lead then 9 else 12 }
    pair := { gradedNode.pair with state := s, partner := some (if lead then 12 else 9) }
    peers := Peers.initial }
def withPartner (n : Node) : Node := { n with pos := { n.pos with partner := n.pair.partner } }

theorem witness_EngageStepsTaken :
    let partner := withPartner (couple false .engaging .joining .claimed)
    let lead := withPartner (couple true .engaging .joining .engaging)
    let h (src k : Nat) := notice src (engageFields 2 k none none)
    partner.Settled ∧ partner.hears .engage (h 9 1) (.engage 2 1 none none) ∧ partner.hears .engage (h 9 3) (.engage 2 3 none none)
      ∧ lead.hears .engage (h 12 2) (.engage 2 2 none none) ∧ partner.pos.partner = some 9 ∧ partner.pos.position = some 2
      ∧ partner.pos.phase = .engaging ∧ partner.ownRow 9 = true ∧ partner.average = some 44400
      ∧ partner.pos.contactor.drive = false ∧ partner.pair.state = .joining
      ∧ lead.pos.lead = true ∧ lead.pos.engageLine = false ∧ lead.pos.switch.drive = false ∧ lead.pos.partner = some 12
      ∧ node.pos.partner ≠ some 12 := by decide

/-- The pairing law, which tells neither position nor exchange, holds for the couples of these witnesses. -/
theorem witness_EngageStepsTaken_law (lead : Bool) (phase : Phase) (s : PairState) (r : PosState) (f : Positions → Positions)
    (g : Rail → Rail) : ((withPartner (couple lead phase s r)).onPos f |>.onRail g).PairLaw :=
  ⟨fun _ => rfl, fun _ _ => .inl rfl⟩

theorem witness_EngageStepsTaken_settled :
    let h (src k : Nat) := notice src (engageFields k 0 (some (formFig .soc 5000)) none)
    let late := withPartner (couple false .bonded .bound .free)
    let n (own : Option Nat) (first : Bool) (attempts : Nat) : Node :=
      let m := withPartner (couple true .reported .joining .claimed)
      { m with pos := { m.pos with ownReport := own, firstCheck := first, attempts := attempts } }
    late.Settled ∧ late.hears .engage (h 9 2) (.engage 2 0 (some (formFig .soc 5000)) none) ∧ late.ownRow 9 = true
      ∧ late.pos.phase = .bonded ∧ late.pos.lead = false ∧ late.pos.partner = some 9 ∧ late.pair.state = .bound
      ∧ (late.pos.view.map List.length) = some 4 ∧ late.hears .engage (h 9 5) (.engage 5 0 (some (formFig .soc 5000)) none)
      ∧ (n none true 0).Settled ∧ (n none true 0).hears .engage (h 12 2) (.engage 2 0 (some (formFig .soc 5000)) none)
      ∧ (n none true 0).hears .engage (h 12 3) (.engage 3 0 (some (formFig .soc 5000)) none)
      ∧ (n none true 0).pos.partner = some 12 ∧ (n none true 0).pos.position = some 2 ∧ (n none true 0).pos.phase.joining = true
      ∧ (n (some 5000) true 0).pos.phase = .reported ∧ (n (some 5000) true 0).profile = some profile
      ∧ (n (some 9000) false 2).bonded = true ∧ (n (some 9000) false 2).pair.partner = some 12
      ∧ (n (some 9000) false 2).faultRoom .equalizeFail
      ∧ ((voltageOf profile 5000 : Int) - voltageOf profile 5000).natAbs ≤ plan.joinWindow
      ∧ plan.joinWindow < ((voltageOf profile 9000 : Int) - voltageOf profile 5000).natAbs := by decide

theorem witness_EngageStepsTaken_live :
    let h (mv : Nat) := notice 12 (engageFields 2 0 none (some (formFig .ocv mv)))
    let n (units : Nat) : Node :=
      let m := withPartner (couple true .transfer .joining .claimed)
      holding (level { m with rail := { m.rail with
        own := some { testRecord with join := true, units := units, driven := units, original := 8 }, side := .party
        view := [{ exchange with units := units }] } } .join running) .join 3 3
    (n 8).Settled ∧ (n 8).PairLaw ∧ (n 8).hears .engage (h 44400) (.engage 2 0 none (some (formFig .ocv 44400)))
      ∧ (n 8).hears .engage (h 43400) (.engage 2 0 none (some (formFig .ocv 43400))) ∧ (n 8).average = some 44400
      ∧ (44400 : Int) - 44400 ≤ plan.joinWindow ∧ (plan.joinWindow : Int) < 44400 - 43400 ∧ (n 8).ownRow 12 = true
      ∧ (n 8).pos.partner = some 12 ∧ (n 8).pos.position = some 2 ∧ (n 8).rail.side = .party ∧ testRecord.released = false
      ∧ testRecord.dropped = false
      ∧ max 1 ((plan.releaseFraction * 8 + 99) / 100) ≤ 8 - min (min plan.joinMax (1 + 1000 / 100)) 8
      ∧ ¬max 1 ((plan.releaseFraction * 8 + 99) / 100) ≤ 4 - min (min plan.joinMax (1 + 1000 / 100)) 4
      ∧ (n 4).duty.owner = some .join ∧ (n 4).duty.conv.holder = some .join ∧ (n 4).duty.join.state = .running
      ∧ (n 4).duty.join.dir = .source := by decide

theorem witness_EngageStepsTaken_abort :
    let n := withPartner (couple false .reported .joining .claimed)
    n.Settled ∧ n.PairLaw ∧ n.hears .engage (notice 9 (engageFields 3 1 none none)) (.engage 3 1 none none) ∧ n.pos.partner = some 9
      ∧ n.pos.lead = false ∧ n.pos.phase ≠ .engaging ∧ n.pos.phase ≠ .none ∧ n.pos.position ≠ some 3 := by decide

theorem witness_VacateStepsTaken :
    let partner := withPartner (couple false .inString .joined .engaged)
    let leaving := withPartner (couple false .vacating .leaving .leaving)
    let lead0 := withPartner (couple true .vacating .leaving .leaving)
    let lead : Node := { lead0 with pos := { lead0.pos with leaveStep := 2 } }
    let h (src k r : Nat) := notice src (vacateFields 2 k r)
    partner.Settled ∧ partner.hears .vacate (h 9 1 5) (.vacate 2 1 5) ∧ partner.ownRow 9 = true ∧ partner.pos.partner = some 9
      ∧ partner.pos.position = some 2 ∧ partner.pos.phase = .inString ∧ partner.pair.state = .joined
      ∧ leaving.hears .vacate (h 9 3 5) (.vacate 2 3 5) ∧ leaving.pos.phase = .vacating ∧ leaving.pair.partner.isSome = true
      ∧ lead.hears .vacate (h 12 2 5) (.vacate 2 2 5) ∧ lead.pos.leaveStep = 2 ∧ lead.pos.phase = .vacating ∧ lead.pos.onSwitch = none
      ∧ (withPartner (couple true .inString .joined .engaged)).hears .vacate (h 12 0 3) (.vacate 2 0 3)
      ∧ partner.hears .vacate (notice 9 (vacateFields 3 1 5)) (.vacate 3 1 5) ∧ partner.pos.position ≠ some 3 := by decide

/-- The abort in ENGAGING below and at the third attempt, and step 1 heard in JOINING and while leaving. -/
theorem witness_VacateStepsTaken_joining :
    let n (lead : Bool) (phase : Phase) (attempts : Nat) : Node :=
      (withPartner (couple lead phase .joining .engaging)).onPos fun q => { q with attempts := attempts }
    let h (src k r : Nat) := notice src (vacateFields 2 k r)
    (n false .engaging 0).Settled ∧ (n false .engaging 0).hears .vacate (h 9 0 0) (.vacate 2 0 0)
      ∧ (n true .engaging 2).hears .vacate (h 12 0 0) (.vacate 2 0 0) ∧ (n true .engaging 2).pos.attempts = 2
      ∧ (n true .engaging 2).faultRoom .equalizeFail
      ∧ (n false .reported 0).hears .vacate (h 9 1 4) (.vacate 2 1 4) ∧ (n false .reported 0).pos.phase.joining = true
      ∧ (withPartner (couple false .vacating .leaving .leaving)).pos.leaveStep < 2
      ∧ (withPartner (couple false .vacating .leaving .leaving)).pos.onSwitch = none
      ∧ (n true .transfer 0).hears .vacate (h 12 0 4) (.vacate 2 0 4) := by decide
/-- The contactor's law holds for the nodes of this witness. -/
theorem witness_VacateStepsTaken_joining_law (lead : Bool) (k : Nat) :
    ((withPartner (couple lead .engaging .joining .engaging)).onPos fun q => { q with attempts := k }).ContactorLaw
      ∧ ((withPartner (couple lead .reported .joining .engaging)).onPos fun q => { q with attempts := k }).ContactorLaw
      ∧ ((withPartner (couple lead .transfer .joining .engaging)).onPos fun q => { q with attempts := k }).ContactorLaw :=
  ⟨⟨rfl, fun _ => .inl rfl, fun _ => rfl, (nomatch ·), (nomatch ·)⟩, ⟨rfl, (nomatch ·), fun _ => rfl, (nomatch ·), (nomatch ·)⟩,
    ⟨rfl, (nomatch ·), fun _ => rfl, (nomatch ·), (nomatch ·)⟩⟩
/-- The contactor's law holds for the nodes of this witness. -/
theorem witness_VacateStepsTaken_law :
    (withPartner (couple false .inString .joined .engaged)).ContactorLaw ∧ (withPartner (couple true .inString .joined .engaged)).ContactorLaw
      ∧ (withPartner (couple false .vacating .leaving .leaving)).ContactorLaw
      ∧ (withPartner (couple true .vacating .leaving .leaving)).ContactorLaw :=
  ⟨⟨rfl, by decide, by decide, by decide, by decide⟩, ⟨rfl, by decide, by decide, by decide, by decide⟩,
    ⟨.inr (.inr rfl), by decide, by decide, by decide, by decide⟩, ⟨.inr (.inr rfl), by decide, by decide, by decide, by decide⟩⟩

theorem witness_PositionTimers :
    let n (p : Phase) : Node := bound .bound fun q => { q with
      phase := p, windowTimer := some 500, liveTimer := some 1000, engageTimer := some 2000, leaveTimer := some 2000
      contactor := { drive := true, position := true, timer := none } }
    (n .claimWait).Settled ∧ (n .claimWait).live = true ∧ (n .claimWait).pres.plan = some plan
      ∧ (n .claimWait).pos.windowTimer.isSome = true ∧ (n .claimWait).grade.state = .graded ∧ (n .claimWait).pos.position = some 2
      ∧ (n .transfer).pos.liveTimer.isSome = true ∧ (n .engaging).pos.engageTimer.isSome = true
      ∧ (n .vacating).pos.leaveTimer.isSome = true ∧ (n .vacating).pos.contactor.drive = true ∧ (n .vacating).pos.onSwitch = none := by
  decide

theorem witness_DriveConfirmations :
    let n (phase : Phase) (x y : Option PosStep) : Node := bound .joining fun q => { q with
      phase := phase, contactor := { drive := true, position := false, timer := some 100 }, onContactor := x
      switch := { drive := true, position := false, timer := some 100 }, onSwitch := y }
    (n .engaging (some .engage2) (some .engage3)).Settled ∧ (n .engaging none none).live = true
      ∧ (n .engaging none none).pos.contactor.timer.isSome = true ∧ (n .engaging none none).pos.position = some 2
      ∧ (n .engaging (some .engage1) none).pos.onContactor = some .engage1 ∧ (n .engaging (some .engage2) none).pos.phase = .engaging
      ∧ (n .vacating (some .vacate2) none).pos.onContactor = some .vacate2 ∧ (n .vacating (some .vacate3) none).pos.phase = .vacating
      ∧ (n .engaging none none).faultRoom .contactor ∧ (n .engaging none none).pos.switch.timer.isSome = true
      ∧ (n .engaging none (some .engage3)).pos.onSwitch = some .engage3 ∧ (n .vacating none (some .vacate1)).pos.phase = .vacating
      ∧ (n .vacating none (some .vacate1)).grade.state ≠ .selfRest
      ∧ node.pos.contactor.timer = none ∧ node.pos.switch.timer = none := by decide

/-! ### Witnesses: readout and directives -/

theorem witness_QueryHandsReadout :
    let h (a : Nat) := notice 0 [(0, .num a), (1, .num 3), (2, .notKnown)]
    let all := notice 0 [(0, .num 9), (1, .notKnown), (2, .num 12)]
    node.Settled ∧ node.hears .query (h 9) (.query 9 (some 3) none) ∧ node.hears .query (h 10) (.query 10 (some 3) none)
      ∧ node.hears .query all (.query 9 none (some 12)) := by decide

def directive (a k : Nat) : Heard := notice 0 [(0, .num a), (1, .num k)]

theorem witness_HoldAndResumeNode :
    let joined : Node := bound .joined fun q => { q with phase := .inString }
    node.Settled ∧ party.hears .directive (directive 9 3) (.directive 9 3) ∧ node.hears .directive (directive 0 4) (.directive 0 4)
      ∧ party.pres.state = .active ∧ party.rail.own = some testRecord ∧ testRecord.join = false ∧ (withState .hold).pres.state = .hold
      ∧ (withState .hold).hears .directive (directive 0 4) (.directive 0 4) ∧ gradedNode.pair.state = .seeking
      ∧ (bound .bound id).bonded = true ∧ joined.pair.state = .joined := by decide
/-- HOLD of an initiator in CAPTEST, and a return to ACTIVE with a request waiting, with REST_A, with UNGRADED and with a graded node. -/
theorem witness_HoldAndResumeNode_active :
    let hold (n : Node) : Node := { n with pres := { n.pres with state := .hold } }
    let testing : Node := { party with grade := { party.grade with state := .capTest } }
    let waits (q : Request) : Node := hold { (withRail fun r => { r with side := .waiting, request := some q }) with
      pair := { node.pair with state := .joining, partner := some 12 } }
    let resting : Node := hold { node with grade := { node.grade with state := .restA } }
    let graded : Node := hold { gradedNode with pair := { gradedNode.pair with state := .unpaired, target := none } }
    testing.Settled ∧ testing.hears .directive (directive 9 3) (.directive 9 3) ∧ testing.grade.state = .capTest
      ∧ testing.rail.testing = true ∧ testRecord.initiator = true
      ∧ (waits request).hears .directive (directive 0 4) (.directive 0 4) ∧ (waits request).pres.plan = some plan
      ∧ (waits request).rail.retryTimer = none ∧ (waits request).pos.phase ≠ .bonded
      ∧ { waits request with pres := { (waits request).pres with state := .active } }.hasRoom plan 3
      ∧ { waits (.join 4) with pres := { (waits (.join 4)).pres with state := .active } }.hasRoom plan 4
      ∧ (waits (.join 4)).pair.partner.isSome = true
      ∧ (resting.Settled ∧ resting.line.queue = [] ∧ resting.grade.state = .restA ∧ resting.mon.watchGrade = none)
      ∧ ((hold node).grade.state = .ungraded ∧ (hold node).mon.tagState = .valid ∧ (hold node).pair.state = .unpaired)
      ∧ (graded.Settled ∧ graded.pair.state = .unpaired ∧ graded.grade.state = .graded ∧ graded.grade.published.cls = .a
          ∧ graded.grade.published.cap.isSome = true ∧ graded.grade.published.res.isSome = true
          ∧ ∃ v, graded.pos.view = some v ∧ ∃ x ∈ v, x.state = .free) :=
  ⟨by decide, by decide, rfl, rfl, rfl, by decide, rfl, rfl, by decide, by decide, by decide, rfl, by decide, by decide,
    by decide, rfl, rfl, rfl, rfl, rfl, _, rfl, .free, .head _, rfl⟩

theorem witness_RegradeDecided :
    let failed : Node := { node with grade := { node.grade with state := .failed, attempts := 3 } }
    failed.Settled ∧ failed.hears .directive (directive 9 1) (.directive 9 1) ∧ failed.pres.state = .active
      ∧ failed.pair.state = .unpaired ∧ node.grade.state = .ungraded ∧ (withState .unplanned).pres.state = .unplanned
      ∧ (bound .bound id).pair.state = .bound ∧ (bound .bound id).grade.state = .graded := by decide
/-- A node in SELFREST, in HOLD and in ACTIVE. -/
theorem witness_RegradeDecided_selfRest :
    let n (s : NodeState) : Node := { withState s with
      grade := { node.grade with state := .selfRest }
      mon := { node.mon with watchGrade := some { duration := 174600000, sampled := true } } }
    (n .hold).Settled ∧ (n .hold).hears .directive (directive 9 1) (.directive 9 1) ∧ (n .hold).pres.state = .hold
      ∧ (n .hold).grade.state = .selfRest ∧ (n .hold).pair.state = .unpaired ∧ (n .active).mon.tagState = .valid
      ∧ (n .active).pres.plan = some plan := by decide

theorem witness_DirectiveReleaseDecided :
    let joined : Node := bound .joined fun q => { q with phase := .inString }
    (bound .bound id).Settled ∧ (bound .bound id).hears .directive (directive 9 2) (.directive 9 2)
      ∧ (bound .bound id).pair.partner = some 12 ∧ (bound .bound id).bonded = true ∧ node.pair.state.single
      ∧ joined.hears .directive (directive 0 2) (.directive 0 2) ∧ joined.pos.phase = .inString
      ∧ (bound .leaving fun q => { q with phase := .vacating }).pair.state = .leaving
      ∧ (bound .joined fun q => { q with phase := .vacating }).Settled := by decide

theorem witness_ClearFaultsAndUnknownKind :
    let n : Node := { node with serv := { node.serv with
      faults := [{ code := .contactor, detail := none, active := false, seen := 3 }] } }
    n.Settled ∧ n.hears .directive (directive 9 5) (.directive 9 5) ∧ n.hears .directive (directive 9 6) (.directive 9 6)
      ∧ n.hears .directive (directive 0 0) (.directive 0 0) ∧ n.pres.state = .active ∧ (∃ e ∈ n.serv.faults, e.active = false)
      ∧ (∀ e ∈ node.serv.faults, e.active = true) := by decide

/-! ### Witnesses: laws, codes and figures -/

theorem witness_StepKeepsQueueLaw :
    ∃ t, step { node := sending (waiting .need 160) [waiting .agree 200, { waiting .presence 80 with part := 0 }]
                pending := [.arbitrationLost] } = .next t
      ∧ (sending (waiting .need 160) [waiting .agree 200, waiting .presence 80]).QueueLaw := ⟨_, rfl, by decide⟩
theorem witness_StepKeepsRailLaw :
    ∃ t, step { node := party, pending := [.release (notice 12 (releaseFields 147 2 0))] } = .next t ∧ party.RailLaw :=
  ⟨_, rfl, show drawn [exchange] ≤ plan.pool ∧ [exchange].length ≤ plan.slots ∧ ([exchange].map Exchange.id).Nodup
    ∧ ∀ e ∈ [exchange], e.draw = drawOf plan.share e.units by decide⟩
theorem witness_StepKeepsSetpointLaw :
    let n := holding (level party .test fun l => { running l with target := some 0, sampled := true }) .test 3 3
    ∃ t, step { node := n, pending := [.levelStop] } = .next t ∧ n.SetpointLaw ∧ n.ProtectLaw :=
  ⟨_, rfl, fun _ => ⟨rfl, rfl⟩, rfl⟩
theorem witness_StepKeepsContactorLaw :
    let n := bound .joined fun q => { q with phase := .inString, contactor := { drive := true, position := true, timer := none } }
    ∃ t, step { node := n, pending := [.moduleChange] } = .next t ∧ n.ContactorLaw ∧ n.PairLaw ∧ (bound .bound id).PairLaw :=
  ⟨_, rfl, ⟨rfl, fun _ => .inr (.inl rfl), fun _ => rfl, fun h => (nomatch h), fun h => (nomatch h)⟩, by decide, by decide⟩
theorem witness_StepKeepsTables :
    ∃ t, step { node := gradedNode, pending := [.lineFree] } = .next t ∧ gradedNode.PeerLaw ∧ gradedNode.FaultLaw
      ∧ gradedNode.AddressLaw ∧ gradedNode.AssemblyLaw ∧ assembling.AssemblyLaw :=
  ⟨_, rfl, by decide, by decide, by decide, fun _ h => (nomatch h), witness_PlanPartsMakePlan_law⟩
theorem witness_OnlyPowerOnResetUndoes :
    let n : Node := { withState .clashed with line := Line.initial }
    ∃ t, step { node := n, pending := [.lineFree] } = .next t ∧ n.pres.plan = some plan ∧ n.stopped ∧ n.SilenceLaw :=
  ⟨_, rfl, by decide⟩

theorem witness_PayloadReadsBack :
    let g : Fig := { neg := true, digits := 7, point := 7, mag := 9999999, mark := true }
    ∀ f ∈ ([(15, .num 65535), (0, .signed (-128)), (3, .fig g), (6, .list (List.replicate 15 48)), (0, .notKnown)] : List (Nat × Value)),
      f.1 ≤ 15 ∧ match f.2 with
        | .notKnown => True
        | .num k => k < 65536
        | .signed i => -128 ≤ i ∧ i ≤ 127
        | .fig g => 1 ≤ g.digits ∧ g.digits ≤ 7 ∧ g.point ≤ g.digits ∧ g.mag < 10 ^ g.digits
        | .list l => l.length ≤ 15 ∧ ∀ a ∈ l, a ≤ 48 := by
  intro g f hf
  simp only [List.mem_cons, List.not_mem_nil, or_false] at hf
  obtain rfl | rfl | rfl | rfl | rfl := hf
  all_goals simp
  decide

theorem witness_FrameCheckGuards :
    let q : Queued := { kind := .presence, priority := 80, part := 0, payload := List.replicate 40 0#8 }
    1 ≤ 48 ∧ q.payload.length ≤ 40 ∧ q.payload[39]? = some 0#8 ∧ 7 < 8 := by decide

/-- Minus 2.25 of a shape 3.2 as a TMP: minus 22.5 goes to minus 23 (R5, R11). -/
theorem witness_RoundsHalfAwayFromZero :
    let f : Fig := { neg := true, digits := 3, point := 2, mag := 225, mark := false }
    let r := roundHalfUp (f.int * (10 ^ FigKind.tmp.point : Nat)) (10 ^ f.point)
    0 < 2 ∧ FigKind.tmp ≠ .soc ∧ r = -23 ∧ r.natAbs < 10 ^ FigKind.tmp.digits ∧ FigKind.tmp.signed = true := by decide

theorem witness_ChainsCombineInOrder :
    Record.cleared.fig .cap = none ∧ gradedRecord.fig .cap = some (formFig .cap 5400) := by decide

end Sys2Proof.Tests
end

section
/-! PROOFS. Rounding and rescaling of figures (R5, R11). -/

namespace Sys2Proof.Machine

/-! ### Rounding half up -/

/-- R5 for q ≥ 0, with q = num / den and k the rounded number: k − ½ ≤ q < k + ½, multiplied by 2 · den. -/
theorem roundHalfUp_bounds {num : Int} {den : Nat} (hnum : 0 ≤ num) (hden : 0 < den) :
    2 * (roundHalfUp num den * den) ≤ 2 * num + den ∧ 2 * num < 2 * (roundHalfUp num den * den) + den := by
  have hpos : (0 : Int) < 2 * den := by omega
  have hlow := Int.ediv_mul_le (2 * num + den) hpos.ne'
  have hhigh := Int.lt_ediv_add_one_mul_self (2 * num + den) hpos
  rw [roundHalfUp, if_pos hnum]
  constructor <;> linarith

/-- The rounding of R5 is the same on both sides of zero. -/
theorem roundHalfUp_neg (num : Int) {den : Nat} (hden : 0 < den) : roundHalfUp (-num) den = -roundHalfUp num den := by
  rcases lt_trichotomy num 0 with hneg | rfl | hpos
  · simp [roundHalfUp, hneg.le, hneg.not_ge]
  · have hzero : (den : Int) / (2 * den) = 0 := Int.ediv_eq_zero_of_lt (by omega) (by omega)
    simp [roundHalfUp, hzero]
  · simp [roundHalfUp, hpos.le, hpos.not_ge]

/-- The rounded number is at most a half away from the exact value; when it is exactly a half away, it is the neighbour of
greater magnitude. -/
theorem roundHalfUp_nearest (num : Int) {den : Nat} (hden : 0 < den) :
    2 * (roundHalfUp num den * den - num).natAbs ≤ den
      ∧ (2 * (roundHalfUp num den * den - num).natAbs = den → num.natAbs < (roundHalfUp num den * den).natAbs) := by
  rcases le_total 0 num with hnum | hnum
  · have hbounds := roundHalfUp_bounds hnum hden
    omega
  · have hbounds := roundHalfUp_bounds (Int.neg_nonneg_of_nonpos hnum) hden
    rw [roundHalfUp_neg num hden, Int.neg_mul] at hbounds
    omega

/-- A whole number stays as it is. -/
@[simp] theorem roundHalfUp_one (num : Int) : roundHalfUp num 1 = num := by
  unfold roundHalfUp
  split <;> omega

/-- Rounding depends on the exact value alone: a common factor of numerator and denominator cancels. -/
theorem roundHalfUp_mul_right (num : Int) (den : Nat) {c : Nat} (hc : 0 < c) :
    roundHalfUp (num * c) (den * c) = roundHalfUp num den := by
  have hcInt : (0 : Int) < c := by omega
  have hcancel (x : Int) : (2 * (x * c) + den * c) / (2 * (den * c)) = (2 * x + den) / (2 * den) := by
    rw [← Int.mul_ediv_mul_of_pos_left (2 * x + den) (2 * den) hcInt]
    ring_nf
  have hsign : 0 ≤ num * c ↔ 0 ≤ num := mul_nonneg_iff_of_pos_right hcInt
  simp only [roundHalfUp, hsign, ← Int.neg_mul, Nat.cast_mul, hcancel]

/-! ### Rescaling -/

/-- A rescaled figure is formed from the exact value times 10^p, rounded once: where the received shape keeps no more
places than the canonical one, there is nothing to round; else only the surplus places are rounded away. -/
theorem rescale_eq (k : FigKind) (f : Fig) :
    rescale k f = formFig k (roundHalfUp (f.int * (10 ^ k.point : Nat)) (10 ^ f.point)) f.mark := by
  unfold rescale
  split
  case isTrue hle =>
    have hwhole := roundHalfUp_mul_right (f.int * (10 ^ (k.point - f.point) : Nat)) 1 (c := 10 ^ f.point) (by positivity)
    rw [mul_assoc, ← Nat.cast_mul, ← pow_add, Nat.sub_add_cancel hle, one_mul, roundHalfUp_one] at hwhole
    rw [hwhole]
  case isFalse hlt =>
    have hsurplus := roundHalfUp_mul_right f.int (10 ^ (f.point - k.point)) (c := 10 ^ k.point) (by positivity)
    rw [← pow_add, Nat.sub_add_cancel (by omega)] at hsurplus
    rw [hsurplus]

/-- Every figure formed for a kind is in the kind's canonical shape (R3). -/
theorem formFig_shape (k : FigKind) (m : Int) (mark : Bool) :
    (formFig k m mark).point = k.point ∧ (formFig k m mark).digits = k.digits := by
  unfold formFig
  split_ifs <;> exact ⟨rfl, rfl⟩

/-- R6, cases 1 and 5: what lies in the range of a kind without a ceiling is not clamped. -/
theorem formFig_int_of_inRange {k : FigKind} {m : Int} (mark : Bool) (hsoc : k ≠ .soc) (hfits : m.natAbs < 10 ^ k.digits)
    (hsign : 0 ≤ m ∨ k.signed = true) : (formFig k m mark).int = m := by
  by_cases hzero : m = 0
  · simp [formFig, hzero, FigKind.make, Fig.int]
  · have hunsigned : ¬(k.signed = false ∧ m < 0) := by
      rintro ⟨hk, hneg⟩
      exact hsign.elim hneg.not_ge (by simp [hk])
    have htop : ¬k.top < m.natAbs := by
      unfold FigKind.top
      omega
    rw [formFig, if_neg hzero, if_neg hunsigned, if_neg (fun h => hsoc h.1), if_neg htop]
    rcases lt_or_ge m 0 with hneg | hnonneg
    · simp [FigKind.make, Fig.int, hneg, abs_of_neg]
    · simp [FigKind.make, Fig.int, hnonneg.not_gt, abs_of_nonneg hnonneg]

/-- Settles O59: rounding by its bounds on one side of zero and its symmetry; a shape's last digit by `rescale_eq`. -/
theorem roundsHalfAwayFromZero : Obligations.RoundsHalfAwayFromZero := by
  unfold Obligations.RoundsHalfAwayFromZero
  constructor
  · intro num den hden
    obtain ⟨hnear, hhalf⟩ := roundHalfUp_nearest num hden
    exact ⟨hnear, hhalf, roundHalfUp_neg num hden⟩
  · intro k f hsoc r hfits hsign
    rw [rescale_eq]
    exact ⟨formFig_int_of_inRange f.mark hsoc hfits hsign, formFig_shape k r f.mark⟩

end Sys2Proof.Machine
end

section
/-! PROOFS. What the blocks' work can do to the line, the node state, the Peer Table and the fault list: every operation of a block
is made of a few elementary changes (`Node.Works`), and each law is proved once for these. -/

namespace Sys2Proof.Machine

/-! ### The elementary changes -/

/-- `n.Works m`: the node `m` comes from `n` by changes that the blocks make within a step. Blocks whose state no law of the line,
of the Presence Controller, of the Peer Table or of the fault list reads may change at will; beside that notices are handed, a
queued PRESENCE is rebuilt, faults are reported, latched or removed, and entries of the Peer Table are stored or removed. -/
inductive Node.Works (n : Node) : Node → Prop
  | start : n.Works n
  | apart {m m' : Node} (h : n.Works m) (line : m'.line = m.line) (pres : m'.pres = m.pres)
      (entries : m'.peers.entries = m.peers.entries) (faults : m'.serv.faults = m.serv.faults) : n.Works m'
  | handPart {m : Node} {k : Kind} {rank part : Nat} {fields : List (Nat × Value)} (h : n.Works m) :
      n.Works (m.handPart k rank part fields)
  | rebuildPresence {m : Node} (h : n.Works m) : n.Works m.rebuildPresence
  | enterFault {m : Node} {code : FaultCode} {detail : Option BreachKind} {seen : Nat} (h : n.Works m) :
      n.Works (m.onServ fun s => { s with faults := (takeReport code detail seen m.serv.faults).1 })
  | latchFault {m : Node} {code : FaultCode} (h : n.Works m) : n.Works (m.latchFault code)
  | dropFaults {m : Node} {keep : FaultEntry → Bool} (h : n.Works m) :
      n.Works (m.onServ fun s => { s with faults := s.faults.filter keep })
  | putPeer {m : Node} {e : Peer} (h : n.Works m)
      (known : (∃ x ∈ m.peers.entries, x.address = e.address) ∨ (1 ≤ e.address ∧ e.address ≤ 48 ∧ e.address ≠ m.address)) :
      n.Works (m.putPeer e)
  | dropPeer {m : Node} {a : Nat} (h : n.Works m) :
      n.Works (m.onPeers fun t => { t with entries := t.entries.filter fun e => e.address != a })

namespace Node.Works

variable {n m : Node}

/-! ### Updates of one block, notices and faults -/

theorem onMon {f : Monitor → Monitor} (h : n.Works m) : n.Works (m.onMon f) := h.apart rfl rfl rfl rfl
theorem onDuty {f : Duty → Duty} (h : n.Works m) : n.Works (m.onDuty f) := h.apart rfl rfl rfl rfl
theorem onGrade {f : Grader → Grader} (h : n.Works m) : n.Works (m.onGrade f) := h.apart rfl rfl rfl rfl
theorem onRail {f : Rail → Rail} (h : n.Works m) : n.Works (m.onRail f) := h.apart rfl rfl rfl rfl
theorem onPair {f : Pairing → Pairing} (h : n.Works m) : n.Works (m.onPair f) := h.apart rfl rfl rfl rfl
theorem onPos {f : Positions → Positions} (h : n.Works m) : n.Works (m.onPos f) := h.apart rfl rfl rfl rfl

theorem ite {c : Prop} [Decidable c] {a b : Node} (ha : n.Works a) (hb : n.Works b) : n.Works (if c then a else b) := by
  split
  · exact ha
  · exact hb

/-- A fold of an operation that is work of the blocks is work of the blocks. -/
theorem foldl {α : Type} {f : Node → α → Node} (hf : ∀ k x, n.Works k → n.Works (f k x)) :
    ∀ {m : Node} (l : List α), n.Works m → n.Works (l.foldl f m)
  | _, [], h => h
  | _, x :: xs, h => foldl hf xs (hf _ x h)

theorem hand {k : Kind} {fields : List (Nat × Value)} (h : n.Works m) : n.Works (m.hand k fields) := h.handPart

theorem reportFault {code : FaultCode} {detail : Option BreachKind} (h : n.Works m) : n.Works (m.reportFault code detail) := by
  unfold Node.reportFault
  dsimp only
  split
  · exact h.enterFault.hand
  · exact h.enterFault

theorem formReading (h : n.Works m) : n.Works m.formReading := by
  unfold Node.formReading
  split
  · exact h.onMon
  · exact h

/-! ### Rail notices and duty levels -/

theorem sendRail {x : RailNotice} (h : n.Works m) : n.Works (m.sendRail x) := by
  cases x <;> exact h.hand

theorem handRail {x : RailNotice} (h : n.Works m) : n.Works (m.handRail x) := h.sendRail.onRail

theorem localSuspension {id : Option Nat} (h : n.Works m) : n.Works (m.localSuspension id) := by
  unfold Node.localSuspension
  split
  · exact h.handRail.ite h
  · exact h

theorem localResumption {id : Option Nat} (h : n.Works m) : n.Works (m.localResumption id) := by
  unfold Node.localResumption
  split
  · exact h.handRail.ite h
  · exact h

theorem suspendHere {i : LevelId} (h : n.Works m) : n.Works (m.suspendHere i) := h.onDuty.localSuspension.ite h

theorem accept {i : LevelId} {r : LevelRequest} (h : n.Works m) : n.Works (m.accept i r) := by
  unfold Node.accept
  extract_lets n1 n2
  have h1 : n.Works n1 := h.onDuty
  have h2 : n.Works n2 := h1.onDuty.ite h1
  exact (h2.suspendHere.ite h2).ite h1

theorem takeKept {i : LevelId} (h : n.Works m) : n.Works (m.takeKept i) := by
  unfold Node.takeKept
  split
  · exact h.onDuty.accept
  · exact h

theorem rampDown (h : n.Works m) : n.Works m.rampDown := by
  refine onDuty ?_
  split
  · exact h.onDuty.takeKept.ite h
  · exact h

theorem rampIfIdle (h : n.Works m) : n.Works m.rampIfIdle := h.rampDown.ite h

theorem dropSetpoint (h : n.Works m) : n.Works m.dropSetpoint := h.onDuty.rampIfIdle

theorem settle {old : Option LevelId} (h : n.Works m) : n.Works (m.settle old) := h.ite h.dropSetpoint

theorem requestLevel {i : LevelId} {r : LevelRequest} (h : n.Works m) : n.Works (m.requestLevel i r) :=
  (h.onDuty.ite h.accept.settle).ite h

theorem setUnits {i : LevelId} {k : Nat} (h : n.Works m) : n.Works (m.setUnits i k) := h.onDuty.ite h

theorem endLevel {i : LevelId} (h : n.Works m) : n.Works (m.endLevel i) := by
  unfold Node.endLevel
  split
  all_goals first | exact h | exact h.onDuty.settle

theorem requestProtect (h : n.Works m) : n.Works m.requestProtect := by
  have hsuspended : n.Works (exchangeLevels.foldl Node.suspendHere
      (m.onDuty fun d => d.put .protect { Level.empty with state := .ready })) :=
    foldl (fun _ _ h => h.suspendHere) _ h.onDuty
  exact h.ite (hsuspended.onDuty.ite hsuspended).settle

theorem resumeHere {i : LevelId} (h : n.Works m) : n.Works (m.resumeHere i) := h.onDuty.localResumption.ite h

theorem releaseProtect (h : n.Works m) : n.Works m.releaseProtect :=
  (foldl (f := Node.resumeHere) (fun _ _ h => h.resumeHere) exchangeLevels h.onDuty).settle.ite h

theorem returnLevel {i : LevelId} (h : n.Works m) : n.Works (m.returnLevel i) := (h.onDuty.ite h.onDuty.settle).ite h

theorem suspendThere {i : LevelId} (h : n.Works m) : n.Works (m.suspendThere i) := (h.onDuty.dropSetpoint.ite h.onDuty).ite h

theorem resumeThere {i : LevelId} (h : n.Works m) : n.Works (m.resumeThere i) := h.onDuty.returnLevel.ite h

theorem ownResumeHeard {i : LevelId} (h : n.Works m) : n.Works (m.ownResumeHeard i) := h.onDuty.returnLevel.ite h

theorem clearLevels {is : List LevelId} (h : n.Works m) : n.Works (m.clearLevels is) := by
  unfold Node.clearLevels
  dsimp only
  split
  · exact h.onDuty.settle.ite h.onDuty
  · exact h.onDuty.settle

theorem clearLevelsToZero {is : List LevelId} (h : n.Works m) : n.Works (m.clearLevelsToZero is) := h.onDuty.dropSetpoint

/-! ### The own side of the Rail Allocator -/

theorem handAgree {p : Plan} {id c k : Nat} {d : Dir} {u : Nat} {e : Option Fig} (h : n.Works m) :
    n.Works (m.handAgree p id c k d u e) := h.handPart.onRail

theorem handNeed {p : Plan} {d : Dir} {u : Nat} {e : Fig} (h : n.Works m) : n.Works (m.handNeed p d u e) := h.handPart.onRail

theorem handJoin {p : Plan} {u : Nat} (h : n.Works m) : n.Works (m.handJoin p u) := by
  unfold Node.handJoin
  split
  · exact h.handAgree.onRail
  · exact h

theorem roomTest (h : n.Works m) : n.Works m.roomTest := by
  unfold Node.roomTest
  split
  · split
    · split
      · exact h.handNeed
      · exact h.handJoin
    · exact h
  · exact h

theorem freedTest (h : n.Works m) : n.Works m.freedTest := by
  unfold Node.freedTest
  split
  · exact h.onRail.ite h.roomTest
  · exact h

theorem beginRequest {q : Request} (h : n.Works m) : n.Works (m.beginRequest q) := h.onRail.onRail.roomTest.ite h.onRail

theorem releaseOwn {cause : Nat} (h : n.Works m) : n.Works (m.releaseOwn cause) := by
  unfold Node.releaseOwn
  split
  · exact h.handRail.onRail.endLevel.ite h.handRail.onRail
  · exact h

theorem withdrawTest {release : Bool} (h : n.Works m) : n.Works (m.withdrawTest release) := by
  unfold Node.withdrawTest
  refine onRail (ite (ite h.onRail.onRail ?_) h)
  refine onRail ?_
  split
  · exact h.releaseOwn.ite h
  · exact h

theorem withdrawJoin {release : Bool} (h : n.Works m) : n.Works (m.withdrawJoin release) := by
  unfold Node.withdrawJoin
  extract_lets n0 n1
  have h0 : n.Works n0 := h.releaseOwn.ite h
  have h1 : n.Works n1 := by
    unfold n1
    split
    · exact (h0.onRail.onPos.ite h0.onRail).ite h
    · exact h.onRail.onRail.ite h
  exact h1.onRail.ite h1

theorem dropOwn {ordinary : Bool} (h : n.Works m) : n.Works (m.dropOwn ordinary) := by
  unfold Node.dropOwn
  split
  · exact (h.endLevel.ite h).onRail
  · exact h

theorem makeCertain (h : n.Works m) : n.Works m.makeCertain := h.onRail.roomTest

theorem certainIfHeard (h : n.Works m) : n.Works m.certainIfHeard := h.makeCertain.ite h

theorem uncertain {boot : Bool} (h : n.Works m) : n.Works (m.uncertain boot) := h.onRail.onRail

/-! ### Regime, target and candidate list -/

theorem openRest (h : n.Works m) : n.Works m.openRest := by
  unfold Node.openRest
  split
  · exact h.onMon
  · exact h

theorem enterRestA (h : n.Works m) : n.Works m.enterRestA := h.onGrade.openRest

theorem startRegime (h : n.Works m) : n.Works m.startRegime := h.enterRestA.ite h

theorem abortSelfRest (h : n.Works m) : n.Works m.abortSelfRest := h.onMon.onGrade.ite h

theorem pairReported (h : n.Works m) : n.Works m.pairReported := (h.ite h.abortSelfRest).startRegime

theorem setPair {s : PairState} (h : n.Works m) : n.Works (m.setPair s) := h.ite h.onPair.pairReported

theorem retarget (h : n.Works m) : n.Works m.retarget := h.onPair

theorem propose {t : Nat} (h : n.Works m) : n.Works (m.propose t) := by
  unfold Node.propose
  split
  · exact h.hand.onPair.setPair
  · exact h

theorem seekOn (h : n.Works m) : n.Works m.seekOn := by
  unfold Node.seekOn
  split
  · exact h.propose.ite h
  · exact h

theorem testEligible (h : n.Works m) : n.Works m.testEligible := by
  unfold Node.testEligible
  refine ite ?_ h
  split
  case h_1 => exact h.setPair.seekOn.ite h
  case h_2 => exact h.ite h.setPair
  case h_3 => exact h.ite h.onPair.setPair
  all_goals exact h

theorem proposalEnds (h : n.Works m) : n.Works m.proposalEnds := by
  unfold Node.proposalEnds
  split
  · exact h.propose
  · exact h.onPair.setPair

/-- The candidate list handed to the Pairing Engine is no part of the Peer Table's entries. -/
theorem setCands {l : List (Nat × Fig)} (h : n.Works m) : n.Works (m.onPeers fun t => { t with cands := l }) :=
  h.apart rfl rfl rfl rfl

theorem rederive (h : n.Works m) : n.Works m.rederive := h.ite (h.setCands.retarget.seekOn.ite h.setCands)

/-! ### Row position view, driven parts and the end of a bond -/

theorem setView {v : List PosRecord} (h : n.Works m) : n.Works (m.setView v) := h.onPos.ite h.onPos.testEligible

theorem sendPos {x : PosNotice} (h : n.Works m) : n.Works (m.sendPos x) := by
  cases x <;> exact h.hand

theorem handPos {x : PosNotice} (h : n.Works m) : n.Works (m.handPos x) := h.sendPos.onPos

theorem handVacate {step : Nat} {r : Reason} (h : n.Works m) : n.Works (m.handVacate step r) := by
  unfold Node.handVacate
  split
  · exact h.handPos
  · exact h

theorem bypass {step : Option PosStep} (h : n.Works m) : n.Works (m.bypass step) := h.onPos.onPos.ite h

theorem leavingBegun (h : n.Works m) : n.Works m.leavingBegun := h.setPair.ite h

theorem takeStep {s : PosStep} (h : n.Works m) : n.Works (m.takeStep s) := by
  cases s with
  | engage1 | engage2 =>
    simp only [Node.takeStep]
    split
    · exact h.handPos
    · exact h
  | engage3 =>
    simp only [Node.takeStep]
    split
    · exact h.handPos.onPos
    · exact h
  | vacate1 =>
    simp only [Node.takeStep]
    exact h.handVacate.leavingBegun.onPos
  | vacate2 | vacate3 => exact h.handVacate

theorem contactorStep (h : n.Works m) : n.Works m.contactorStep := by
  unfold Node.contactorStep
  split
  · exact h.onPos.takeStep
  · exact h

theorem switchStep (h : n.Works m) : n.Works m.switchStep := by
  unfold Node.switchStep
  split
  · exact h.onPos.takeStep
  · exact h

theorem stepsAtOnce (h : n.Works m) : n.Works m.stepsAtOnce := by
  unfold Node.stepsAtOnce
  extract_lets n1
  have h1 : n.Works n1 := h.switchStep.ite h
  exact h1.contactorStep.ite h1

theorem beginLeave {r : Reason} {release : Bool} (h : n.Works m) : n.Works (m.beginLeave r release) :=
  h.withdrawJoin.onPos.onPos.bypass.stepsAtOnce.ite h.withdrawJoin.onPos.onPos.handVacate.leavingBegun

theorem withdrawClaim {lead : Bool} {partner : Option Nat} (h : n.Works m) : n.Works (m.withdrawClaim lead partner) := by
  unfold Node.withdrawClaim
  split
  · exact foldl (fun _ _ h => h.handPos) _ h
  · exact h

theorem endBond {release : Bool} (h : n.Works m) : n.Works (m.endBond release) :=
  h.onPos.bypass.withdrawJoin.onMon.onPos.onPos.withdrawClaim.ite h

theorem bar {x : Nat} (h : n.Works m) : n.Works (m.bar x) := by
  unfold Node.bar
  split
  · exact h.onPair.retarget
  · exact h

theorem dissolve {cause : Nat} {send release : Bool} (h : n.Works m) : n.Works (m.dissolve cause send release) := by
  unfold Node.dissolve
  split
  · extract_lets n1 n2 n3
    have h1 : n.Works n1 := h.hand.ite h
    have h3 : n.Works n3 := h1.onPair.bar.ite h1.onPair
    exact h3.endBond.setPair.testEligible.ite h
  · exact h

theorem testBond (h : n.Works m) : n.Works m.testBond := by
  unfold Node.testBond
  split
  · exact h.dissolve.ite h
  · exact h

theorem leavingComplete (h : n.Works m) : n.Works m.leavingComplete := by
  unfold Node.leavingComplete
  split
  · exact (h.onPair.bar.ite h.onPair).setPair.testEligible.ite h
  · exact h

/-! ### Grade Engine -/

theorem handGrade (h : n.Works m) : n.Works m.handGrade := h.hand.onGrade

theorem publish {r : Record} (h : n.Works m) : n.Works (m.publish r) := h.onGrade.handGrade.rederive.testBond.testEligible

theorem gradeTo {s : GradeState} (h : n.Works m) : n.Works (m.gradeTo s) := h.onGrade.testEligible

theorem failAttempt (h : n.Works m) : n.Works m.failAttempt := h.onGrade.enterRestA.ite h.onGrade.gradeTo.reportFault.publish

theorem succeed {p : Plan} {f : Profile} {a b : Nat} (h : n.Works m) : n.Works (m.succeed p f a b) :=
  h.onGrade.publish.onGrade.onGrade.onMon.gradeTo

theorem compute (h : n.Works m) : n.Works m.compute := by
  unfold Node.compute
  split
  · exact h.failAttempt.ite h.succeed
  · exact h.failAttempt

theorem startPulse {p : Plan} (h : n.Works m) : n.Works (m.startPulse p) := h.onGrade.requestLevel.ite h.enterRestA

theorem takeReadingA {r : RestReading} (h : n.Works m) : n.Works (m.takeReadingA r) := by
  unfold Node.takeReadingA
  split
  · exact h.onGrade.onMon.startPulse.ite h
  · exact h

theorem endSelfRest {r : RestReading} (h : n.Works m) : n.Works (m.endSelfRest r) := by
  unfold Node.endSelfRest
  split
  · exact h.onGrade.publish.gradeTo
  · exact h

theorem gradeReading {r : RestReading} (h : n.Works m) : n.Works (m.gradeReading r) := by
  unfold Node.gradeReading
  refine ite ?_ h
  split
  case h_1 => exact h.takeReadingA
  case h_2 => exact h.onMon.onGrade.compute
  case h_3 => exact h.endSelfRest
  all_goals exact h

theorem enterCapTest (h : n.Works m) : n.Works m.enterCapTest := by
  unfold Node.enterCapTest
  split
  · exact h.onGrade.beginRequest
  · exact h

theorem pulseDone {c : Completion} (h : n.Works m) : n.Works (m.pulseDone c) := by
  unfold Node.pulseDone
  refine ite ?_ h
  split
  · exact h.onGrade.enterCapTest.ite h.enterRestA
  · exact h.enterRestA

theorem testDone {ordinary : Bool} (h : n.Works m) : n.Works (m.testDone ordinary) :=
  (h.onGrade.openRest.ite h.failAttempt).ite h

theorem gradeActive (h : n.Works m) : n.Works m.gradeActive := (h.handGrade.openRest.ite h.handGrade).startRegime

theorem abandonTest {release : Bool} (h : n.Works m) : n.Works (m.abandonTest release) := h.withdrawTest.enterRestA.ite h

theorem gradeHold (h : n.Works m) : n.Works m.gradeHold := h.handGrade.endLevel.ite h.handGrade.abandonTest

theorem acceptRegrade (h : n.Works m) : n.Works m.acceptRegrade := by
  unfold Node.acceptRegrade
  extract_lets n1 n2
  have h1 : n.Works n1 := h.onMon.ite h
  have h2 : n.Works n2 := h1.latchFault.ite h1
  exact h2.onGrade.gradeTo.startRegime

/-! ### Position Manager -/

theorem noPosition (h : n.Works m) : n.Works m.noPosition := h.dissolve.ite h

theorem chooseClaim (h : n.Works m) : n.Works m.chooseClaim := by
  unfold Node.chooseClaim
  refine ite ?_ h.onPos.onPos
  split
  · exact h.onPos.onPos.onPos.handPos
  · exact h.onPos.noPosition

theorem claimVoid (h : n.Works m) : n.Works m.claimVoid := h.chooseClaim.ite h.noPosition

theorem claimIfLead (h : n.Works m) : n.Works m.claimIfLead := h.chooseClaim.ite h

theorem enterBound {x : Nat} (h : n.Works m) : n.Works (m.enterBound x) := h.onPair.setPair.onPos.onPos.claimIfLead

theorem takePosition {p : Nat} (h : n.Works m) : n.Works (m.takePosition p) := by
  unfold Node.takePosition
  split
  · exact h.onPos.onPos
  · exact h

theorem ownClaimHeard {p y : Nat} {recorded : Bool} (h : n.Works m) : n.Works (m.ownClaimHeard p y recorded) :=
  (h.takePosition.ite h.claimVoid).ite (h.handPos.ite h)

theorem heardClaim {src p y : Nat} (h : n.Works m) : n.Works (m.heardClaim src p y) := by
  unfold Node.heardClaim
  split
  · extract_lets w n1
    have h1 : n.Works n1 := (h.onPos.ite h).setView
    exact (h1.ownClaimHeard.ite (h1.takePosition.ite h1)).ite h
  · exact h

theorem beginRound (h : n.Works m) : n.Works m.beginRound := by
  unfold Node.beginRound
  split
  · exact h.onPos.onPos.onMon
  · exact h

theorem equalizeFail (h : n.Works m) : n.Works m.equalizeFail := h.dissolve.reportFault

theorem countAttempt {next : Node → Node} (hnext : ∀ k, n.Works k → n.Works (next k)) (h : n.Works m) :
    n.Works (m.countAttempt next) := h.onPos.equalizeFail.ite (hnext _ h.onPos)

theorem positionWon (h : n.Works m) : n.Works m.positionWon := (h.setPair.ite h).onPos.beginRound

theorem closeContactor {step : PosStep} (h : n.Works m) : n.Works (m.closeContactor step) := h.onPos.abortSelfRest

theorem beginEngage (h : n.Works m) : n.Works m.beginEngage := h.onPos.onPos.closeContactor.ite h.onPos.onPos

theorem beginTransfer {p : Plan} {dv : Int} (h : n.Works m) : n.Works (m.beginTransfer p dv) := h.onPos.beginRequest.ite h.onPos

theorem check (h : n.Works m) : n.Works m.check := by
  unfold Node.check
  split
  · exact ((h.onPos.beginEngage.ite h.onPos.beginRound).ite
      (h.onPos.beginTransfer.ite (h.onPos.countAttempt fun _ h => h.beginTransfer))).ite h
  · exact h

theorem settledReport {r : RestReading} (h : n.Works m) : n.Works (m.settledReport r) := by
  unfold Node.settledReport
  refine ite ?_ h
  split
  · exact h.onPos.handPos.check
  · exact h

theorem joinEnded {ordinary : Bool} (h : n.Works m) : n.Works (m.joinEnded ordinary) :=
  (h.onPos.beginRound.ite (h.onPos.countAttempt fun _ h => h.beginRound)).ite h.onPos

theorem driveJoin {p : Plan} {k : Nat} (h : n.Works m) : n.Works (m.driveJoin p k) := by
  unfold Node.driveJoin
  split
  · exact (h.setUnits.handRail.onRail.ite h.setUnits.onRail).ite h
  · exact h

theorem liveReport {mv : Nat} (h : n.Works m) : n.Works (m.liveReport mv) := by
  unfold Node.liveReport
  split
  · exact (h.releaseOwn.ite h.driveJoin).ite h
  · exact h

theorem lateWon {src p soc : Nat} (h : n.Works m) : n.Works (m.lateWon src p soc) := by
  unfold Node.lateWon
  split
  · exact h.setView.onPos.positionWon.onPos.ite h
  · exact h

theorem heardSettled {src p soc : Nat} (h : n.Works m) : n.Works (m.heardSettled src p soc) := h.lateWon.ite (h.onPos.check.ite h)

theorem partnerCloses (h : n.Works m) : n.Works m.partnerCloses := by
  unfold Node.partnerCloses
  split
  · exact h.closeContactor.ite h.handVacate
  · exact h.handVacate

theorem heardStep1 {src p : Nat} (h : n.Works m) : n.Works (m.heardStep1 src p) := ((h.partnerCloses.ite h).ite h.handPos).ite h

theorem heardStep2 {src p : Nat} (h : n.Works m) : n.Works (m.heardStep2 src p) := h.onPos.onPos.ite h

theorem startSilence (h : n.Works m) : n.Works m.startSilence := by
  unfold Node.startSilence
  split
  · exact h.onPair
  · exact h

theorem heardStep3 {src p : Nat} (h : n.Works m) : n.Works (m.heardStep3 src p) :=
  (h.onPos.onPos.setPair.startSilence.ite h.onPos.onPos).ite h

theorem heardEngage {src p step : Nat} {soc voltage : Option Fig} (h : n.Works m) :
    n.Works (m.heardEngage src p step soc voltage) := by
  unfold Node.heardEngage
  split
  · extract_lets n0 n1
    have h1 : n.Works n1 := (h.onPos.ite h).setView
    refine ite (ite ?_ (h1.heardStep1.ite (h1.heardStep2.ite (h1.heardStep3.ite h1)))) h
    split
    · exact h1.liveReport.ite h1
    · exact h1.heardSettled
    · exact h1
  · exact h

theorem heardAbort (h : n.Works m) : n.Works m.heardAbort := h.onPos.bypass.onPos.countAttempt fun _ h => h.beginRound

theorem leadOpens {timeout : Bool} (h : n.Works m) : n.Works (m.leadOpens timeout) := h.onPos.onPos.stepsAtOnce

theorem partnerOpens {r : Reason} (h : n.Works m) : n.Works (m.partnerOpens r) := by
  unfold Node.partnerOpens
  extract_lets n1 n2
  have h1 : n.Works n1 := h.ite h.withdrawJoin.onPos.onPos.leavingBegun
  have h2 : n.Works n2 := by
    unfold n2
    split
    · exact h1.onPos
    · exact h1
  exact h2.onPos.onPos.stepsAtOnce.ite h2

theorem leaveEnds (h : n.Works m) : n.Works m.leaveEnds := h.onPos.onPos.onPos.leavingComplete

theorem heardVacate {src p step reason : Nat} (h : n.Works m) : n.Works (m.heardVacate src p step reason) := by
  unfold Node.heardVacate
  split
  · extract_lets n0 n1
    have h1 : n.Works n1 := (h.onPos.ite h).setView
    exact (ite (ite (ite (h1.heardAbort.ite h1) (h1.beginLeave.ite h1))
      ((h1.partnerOpens.ite h1).ite ((h1.leadOpens.ite h1).ite (h1.leaveEnds.ite h1)))) h1).ite h
  · exact h

theorem loseClaim (h : n.Works m) : n.Works m.loseClaim := h.claimVoid.ite h.onPos.onPos

theorem viewPresence {src : Nat} {x : RowStatement} (h : n.Works m) : n.Works (m.viewPresence src x) := by
  unfold Node.viewPresence
  split
  · refine ite ?_ h
    split
    · exact h.setView
    · exact (h.setView.loseClaim.ite h.setView).ite h
    · exact h
  · exact h

theorem hardPath (h : n.Works m) : n.Works m.hardPath :=
  (h.onPos.beginLeave.ite (h.onPos.stepsAtOnce.ite h.onPos)).ite h.onPos

theorem modulePath (h : n.Works m) : n.Works m.modulePath := h.beginLeave.ite (h.stepsAtOnce.ite h)

theorem posRejoin (h : n.Works m) : n.Works m.posRejoin := by
  unfold Node.posRejoin
  extract_lets n1
  split
  · exact h.onPos.setView
  · exact h.onPos

/-! ### Rail Allocator -/

theorem ownLeft {ordinary : Bool} (h : n.Works m) : n.Works (m.ownLeft ordinary) := by
  unfold Node.ownLeft
  split
  · exact h.ite ((h.dropOwn.onPos.ite h.dropOwn.joinEnded).ite h.dropOwn)
  · exact h

theorem freeRail {v : List Exchange} {ordinary : Bool} (h : n.Works m) : n.Works (m.freeRail v ordinary) :=
  h.onRail.ownLeft.freedTest

theorem railNote {src : Nat} (h : n.Works m) : n.Works (m.railNote src) := by
  unfold Node.railNote
  split
  · exact h.onRail.ite h
  · exact h

theorem heardNeed {src id dir : Nat} {expected : Fig} (h : n.Works m) : n.Works (m.heardNeed src id dir expected) := by
  unfold Node.heardNeed
  split
  · refine ite (h.onRail.ite h) ?_
    split
    · split
      · exact h.hand.onRail
      · exact h
    · exact h
  · exact h

theorem closeWindow (h : n.Works m) : n.Works m.closeWindow := by
  unfold Node.closeWindow
  split
  · refine ite h.onRail (ite h.onRail.onRail ?_)
    split
    · exact h.handAgree
    · exact h.onRail.onRail
  · exact h.onRail

theorem heardOffer {src id : Nat} {headroom : Fig} (h : n.Works m) : n.Works (m.heardOffer src id headroom) := by
  unfold Node.heardOffer
  split
  · exact (h.onRail.closeWindow.roomTest.ite h.onRail).ite h
  · exact h

theorem ownAgree {p : Plan} {t : AgreeTerms} {valid : Bool} (h : n.Works m) : n.Works (m.ownAgree p t valid) :=
  (h.onRail.ite h.handRail).onRail.ite (h.onRail.onRail.ite h.onRail)

theorem takeAgree {p : Plan} {t : AgreeTerms} {headroom : Option Fig} (h : n.Works m) : n.Works (m.takeAgree p t headroom) := by
  unfold Node.takeAgree
  refine h.handRail.ite (ite (h.onRail.onPos.ite h.handRail) ?_)
  split
  · exact h.onRail
  · exact h.handRail

theorem endOfferTo {src : Nat} (h : n.Works m) : n.Works (m.endOfferTo src) := by
  unfold Node.endOfferTo
  split
  · exact h.onRail.ite h
  · exact h

theorem heardAgree {src : Nat} {t : AgreeTerms} (h : n.Works m) : n.Works (m.heardAgree src t) := by
  unfold Node.heardAgree
  split
  · split
    · exact h
    · exact (h.ownAgree.ite (h.endOfferTo.handRail.ite h.endOfferTo)).roomTest
    · exact (h.onRail.ownAgree.ite (h.onRail.endOfferTo.takeAgree.ite h.onRail.endOfferTo)).roomTest
  · exact h

theorem startParty {o : OwnRecord} (h : n.Works m) : n.Works (m.startParty o) := by
  unfold Node.startParty
  have hstarted {k : Node} (hk : n.Works k) : n.Works (if o.flagOther then k.suspendThere o.level else k) := hk.suspendThere.ite hk
  exact (hstarted h.onRail.requestLevel.abortSelfRest).ite h.onRail.releaseOwn

theorem lowerOwn {src id units : Nat} (h : n.Works m) : n.Works (m.lowerOwn src id units) := by
  unfold Node.lowerOwn
  split
  · exact h.onRail.setUnits.ite h
  · exact h

theorem stopRail {src : Nat} {x : RailNotice} (h : n.Works m) : n.Works (m.stopRail src x) := h.onRail.ite h

theorem heardRelease {src id units cause : Nat} (h : n.Works m) : n.Works (m.heardRelease src id units cause) := by
  unfold Node.heardRelease
  split
  · exact (h.stopRail.freeRail.ite (h.stopRail.onRail.lowerOwn.freedTest.ite h.stopRail)).ite h.stopRail
  · exact h

theorem startHold (h : n.Works m) : n.Works m.startHold := by
  unfold Node.startHold
  split
  · exact h.onRail
  · exact h

theorem heardSuspend {src id : Nat} (h : n.Works m) : n.Works (m.heardSuspend src id) := by
  unfold Node.heardSuspend
  have h1 {v : List Exchange} {x : RailNotice} : n.Works ((m.stopRail src x).setRail v) := h.stopRail.onRail
  refine ite ?_ h.stopRail
  dsimp only
  split
  · exact (h1.onRail.startHold.suspendThere.ite h1.onRail.startHold).ite h1
  · exact h1

theorem heardResume {src id : Nat} (h : n.Works m) : n.Works (m.heardResume src id) := by
  unfold Node.heardResume
  have h1 {v : List Exchange} {x : RailNotice} : n.Works ((m.stopRail src x).setRail v) := h.stopRail.onRail
  refine ite ?_ h.stopRail
  dsimp only
  split
  · exact ((h1.onRail.ownResumeHeard.ite h1.onRail.resumeThere).ite h1.onRail).ite h1
  · exact h1

theorem railPresence {src : Nat} {st : Stated} (h : n.Works m) : n.Works (m.railPresence src st) := by
  unfold Node.railPresence
  split
  · extract_lets w n1 n2
    have h1 : n.Works n1 := h.onRail.ownLeft
    have h2 : n.Works n2 := h1.uncertain.ite (h1.certainIfHeard.ite h1.onRail.certainIfHeard)
    exact h2.roomTest.ite h2.freedTest
  · exact h

theorem railRemoval {a : Nat} (h : n.Works m) : n.Works (m.railRemoval a) := h.freeRail.certainIfHeard.ite h.certainIfHeard

theorem railHold (h : n.Works m) : n.Works m.railHold := h.releaseOwn.onRail.onRail.ite h.releaseOwn.onRail

theorem railModule (h : n.Works m) : n.Works m.railModule :=
  h.releaseOwn.withdrawTest.onRail.onRail.ite h.releaseOwn.withdrawTest.onRail.onRail.onRail

/-! ### Peer Table and Pairing Engine -/

theorem answerPropose {x : Nat} (h : n.Works m) : n.Works (m.answerPropose x) := by
  unfold Node.answerPropose
  split
  · exact h.hand.onPair.setPair
  · exact h

theorem heardPropose {src t : Nat} {score : Fig} {gen held : Nat} (h : n.Works m) :
    n.Works (m.heardPropose src t score gen held) := h.answerPropose.ite h

theorem bindFails {x : Nat} (h : n.Works m) : n.Works (m.bindFails x) := h.hand.onPair.onPair.setPair.testEligible

theorem takeBind {x : Nat} (h : n.Works m) : n.Works (m.takeBind x) :=
  (h.enterBound.ite h.bindFails).rebuildPresence.ite (h.ite h.hand)

theorem heardBind {src named : Nat} (h : n.Works m) : n.Works (m.heardBind src named) := h.takeBind.ite (h.takeBind.ite h)

theorem heardUnbind {src named cause : Nat} (h : n.Works m) : n.Works (m.heardUnbind src named cause) :=
  (h.dissolve.ite (h.proposalEnds.ite h)).ite h

theorem pairPresence {src : Nat} {p : PresenceNotice} (h : n.Works m) : n.Works (m.pairPresence src p) :=
  (h.onPair.dissolve.ite h.onPair).ite h

theorem pairNote {src : Nat} (h : n.Works m) : n.Works (m.pairNote src) := h.onPair.startSilence.ite h

theorem pairRemoval {a : Nat} (h : n.Works m) : n.Works (m.pairRemoval a) := h.dissolve.ite (h.proposalEnds.ite h)

theorem posRemoval {a : Nat} (h : n.Works m) : n.Works (m.posRemoval a) := by
  unfold Node.posRemoval
  split
  · exact h.setView
  · exact h

theorem removePeer {a : Nat} (h : n.Works m) : n.Works (m.removePeer a) := h.dropPeer.railRemoval.posRemoval.rederive.pairRemoval

theorem acceptRelease (h : n.Works m) : n.Works m.acceptRelease := (h.onPair.beginLeave.ite h.onPair).ite h.dissolve

theorem endBar (h : n.Works m) : n.Works m.endBar := h.onPair.retarget

theorem pairModule (h : n.Works m) : n.Works m.pairModule := by
  unfold Node.pairModule
  extract_lets n1
  have h1 : n.Works n1 := h.onPair.setPair.ite h
  exact h1.dissolve.endBar

theorem pairRejoin (h : n.Works m) : n.Works m.pairRejoin := by
  unfold Node.pairRejoin
  extract_lets n1
  have h1 : n.Works n1 := h.dissolve
  exact (h1.startSilence.ite h1).retarget

theorem peerTouch {src : Nat} (h : n.Works m) : n.Works (m.peerTouch src) := by
  unfold Node.peerTouch
  split
  next e he => exact h.putPeer (.inl ⟨e, List.mem_of_find?_eq_some he, rfl⟩)
  next => exact h

end Node.Works
end Sys2Proof.Machine
end

section
/-! PROOFS. What the blocks' work keeps (`Node.Works`): the Presence Controller, the frame in transmission, the laws of the
transmit queue, the Peer Table and the fault list, and the silence of a queue that takes no notices (R26, R28, R48, R178). -/

namespace Sys2Proof.Machine

/-! ### The law of a transmit queue (R26, R27) -/

/-- The three kinds of which the queue holds one have the fixed priority of their kind (R26, R29). -/
def Queued.fixedPriority (q : Queued) : Prop :=
  (q.kind = .presence ∨ q.kind = .grade ∨ q.kind = .readout) → q.priority = q.kind.priority 0

/-- The law of R26 for the notices of a queue. -/
structure LawfulQueue (l : List Queued) : Prop where
  bounded : l.length ≤ 8
  sorted : l.Pairwise fun x y => y.priority ≤ x.priority
  single : l.Pairwise fun x y => x.replaces y = false
  fixed : ∀ q ∈ l, q.fixedPriority

theorem Node.queueLaw_iff (n : Node) :
    n.QueueLaw ↔ LawfulQueue n.line.queue ∧ ∀ q, n.line.sending = some q → q.fixedPriority := by
  have hmem (q : Queued) : q ∈ n.line.sending.toList ↔ n.line.sending = some q := by cases n.line.sending <;> simp [eq_comm]
  constructor
  · rintro ⟨bounded, sorted, single, fixed⟩
    exact ⟨⟨bounded, sorted, single, fun q hq => fixed q (List.mem_append_left _ hq)⟩,
      fun q hq => fixed q (List.mem_append_right _ ((hmem q).2 hq))⟩
  · rintro ⟨⟨bounded, sorted, single, fixed⟩, hsending⟩
    exact ⟨bounded, sorted, single, fun q hq => (List.mem_append.1 hq).elim (fixed q) fun hq => hsending q ((hmem q).1 hq)⟩

theorem LawfulQueue.nil : LawfulQueue [] := ⟨by simp, .nil, .nil, by simp⟩

theorem LawfulQueue.sublist {k l : List Queued} (hl : LawfulQueue l) (h : k.Sublist l) : LawfulQueue k :=
  ⟨h.length_le.trans hl.bounded, hl.sorted.sublist h, hl.single.sublist h, fun q hq => hl.fixed q (h.subset hq)⟩

theorem Queued.replaces_iff {q x : Queued} :
    q.replaces x = true ↔ q.kind = x.kind ∧ (q.kind = .presence ∨ q.kind = .grade ∨ (q.kind = .readout ∧ q.part = x.part)) := by
  simp [Queued.replaces, or_assoc]

theorem Queued.replaces_comm (q x : Queued) : q.replaces x = x.replaces q := by
  rw [Bool.eq_iff_iff, Queued.replaces_iff, Queued.replaces_iff]
  constructor <;> rintro ⟨hkind, hpart⟩ <;> exact ⟨hkind.symm, by simpa [hkind, eq_comm] using hpart⟩

/-- Notices that replace one another replace the same notices. -/
theorem Queued.replaces_congr {q x : Queued} (h : q.replaces x = true) (y : Queued) : q.replaces y = x.replaces y := by
  obtain ⟨hkind, hpart⟩ := Queued.replaces_iff.1 h
  rw [Bool.eq_iff_iff, Queued.replaces_iff, Queued.replaces_iff, hkind]
  rw [hkind] at hpart
  rcases hpart with hx | hx | ⟨hx, hpart⟩
  · simp [hx]
  · simp [hx]
  · simp [hx, hpart]

/-- A notice has the priority of the one that it replaces. -/
theorem Queued.priority_eq {q x : Queued} (h : q.replaces x = true) (hq : q.fixedPriority) (hx : x.fixedPriority) :
    q.priority = x.priority := by
  obtain ⟨hkind, hpart⟩ := Queued.replaces_iff.1 h
  have hfixed : q.kind = .presence ∨ q.kind = .grade ∨ q.kind = .readout := hpart.imp_right (Or.imp_right And.left)
  rw [hq hfixed, hx (hkind ▸ hfixed), hkind]

theorem placeAfter_perm (q : Queued) (l : List Queued) : (placeAfter q l).Perm (q :: l) := by
  induction l with
  | nil => exact .refl _
  | cons x xs ih =>
    simp only [placeAfter]
    split
    · exact (ih.cons x).trans (.swap q x xs)
    · exact .refl _

theorem placeAhead_perm (q : Queued) (l : List Queued) : (placeAhead q l).Perm (q :: l) := by
  induction l with
  | nil => exact .refl _
  | cons x xs ih =>
    simp only [placeAhead]
    split
    · exact (ih.cons x).trans (.swap q x xs)
    · exact .refl _

/-- A queue with one more notice, in its place by priority and without one that it would replace, is lawful. -/
theorem LawfulQueue.of_perm {q : Queued} {k l : List Queued} (hl : LawfulQueue l) (hq : q.fixedPriority) (hroom : l.length < 8)
    (hnone : ∀ x ∈ l, q.replaces x = false) (hperm : k.Perm (q :: l)) (sorted : k.Pairwise fun x y => y.priority ≤ x.priority) :
    LawfulQueue k where
  bounded := by rw [hperm.length_eq]; exact hroom
  sorted := sorted
  single := by
    rw [hperm.pairwise_iff fun h => (Queued.replaces_comm _ _).trans h]
    exact List.pairwise_cons.2 ⟨hnone, hl.single⟩
  fixed x hx := (List.mem_cons.1 (hperm.subset hx)).elim (fun h => h ▸ hq) (hl.fixed x)

theorem replaceIn_priorities {q : Queued} {l : List Queued} (hq : q.fixedPriority) (hl : ∀ x ∈ l, x.fixedPriority) :
    (replaceIn q l).map Queued.priority = l.map Queued.priority := by
  induction l with
  | nil => rfl
  | cons x xs ih =>
    simp only [replaceIn]
    split
    next h => rw [List.map_cons, List.map_cons, Queued.priority_eq h hq (hl x (.head _))]
    next => rw [List.map_cons, List.map_cons, ih fun y hy => hl y (.tail _ hy)]

theorem replaceIn_single {q : Queued} {l : List Queued} (hl : l.Pairwise fun x y => x.replaces y = false) :
    (replaceIn q l).Pairwise fun x y => x.replaces y = false := by
  induction l with
  | nil => exact .nil
  | cons x xs ih =>
    obtain ⟨hx, hxs⟩ := List.pairwise_cons.1 hl
    simp only [replaceIn]
    split
    next h => exact List.pairwise_cons.2 ⟨fun y hy => (Queued.replaces_congr h y).trans (hx y hy), hxs⟩
    next h =>
      refine List.pairwise_cons.2 ⟨fun y hy => ?_, ih hxs⟩
      obtain rfl | hy := mem_replaceIn hy
      · simpa [Queued.replaces_comm] using h
      · exact hx y hy

/-- Rebuilding a notice in its place keeps the queue lawful. -/
theorem LawfulQueue.replaceIn {q : Queued} {l : List Queued} (hl : LawfulQueue l) (hq : q.fixedPriority) :
    LawfulQueue (replaceIn q l) where
  bounded := by rw [length_replaceIn]; exact hl.bounded
  sorted := by
    have hpriorities : (l.map Queued.priority).Pairwise (fun a b => b ≤ a) := List.pairwise_map.2 hl.sorted
    rw [← replaceIn_priorities hq hl.fixed] at hpriorities
    exact List.pairwise_map.1 hpriorities
  single := replaceIn_single hl.single
  fixed x hx := (mem_replaceIn hx).elim (fun h => h ▸ hq) (hl.fixed x)

/-- A full queue stays lawful when the new notice displaces the tail (R26). -/
theorem LawfulQueue.offerFull {q : Queued} {l : List Queued} (hl : LawfulQueue l) (hq : q.fixedPriority)
    (hnone : ∀ x ∈ l, q.replaces x = false) : LawfulQueue (offerFull q l) := by
  unfold Machine.offerFull
  split
  next t ht =>
    have hpos : 0 < l.length := List.length_pos_of_mem (List.mem_of_getLast? ht)
    have hbounded := hl.bounded
    have hdrop := hl.sublist l.dropLast_sublist
    split
    · exact hdrop.of_perm hq (by rw [List.length_dropLast]; omega) (fun x hx => hnone x (l.dropLast_subset hx))
        (placeAfter_perm _ _) (placeAfter_sorted hdrop.sorted)
    · exact hl
  next => exact hl

/-- A queue stays lawful when a notice is offered to it (R26). -/
theorem LawfulQueue.offerQueue {q : Queued} {l : List Queued} (hl : LawfulQueue l) (hq : q.fixedPriority) :
    LawfulQueue (offerQueue q l) := by
  unfold Machine.offerQueue
  split
  · exact hl.replaceIn hq
  next hany =>
    have hnone : ∀ x ∈ l, q.replaces x = false := by simpa using hany
    split
    next hroom => exact hl.of_perm hq hroom hnone (placeAfter_perm _ _) (placeAfter_sorted hl.sorted)
    next => exact hl.offerFull hq hnone

/-- A queue stays lawful when a frame returns to it (R27). -/
theorem LawfulQueue.returnQueue {q : Queued} {l : List Queued} (hl : LawfulQueue l) (hq : q.fixedPriority) :
    LawfulQueue (returnQueue q l) := by
  unfold Machine.returnQueue
  split
  · exact hl
  next hany =>
    have hnone : ∀ x ∈ l, q.replaces x = false := by simpa using hany
    split
    next hroom => exact hl.of_perm hq hroom hnone (placeAhead_perm _ _) (placeAhead_sorted hl.sorted)
    next => exact hl.offerFull hq hnone

/-- A handed notice has the fixed priority of its kind: NEED and AGREE alone take a rank (R29). -/
theorem fixedPriority_handed (k : Kind) (rank part : Nat) (payload : List Byte) :
    ({ kind := k, priority := k.priority rank, part := part, payload := payload } : Queued).fixedPriority := by
  rintro (h | h | h) <;> cases h <;> rfl

/-! ### The fault list (R178) -/

/-- A fault list of the law of R178. -/
abbrev LawfulFaults (l : List FaultEntry) : Prop := l.length ≤ 8 ∧ (l.map FaultEntry.code).Nodup

/-- A report enters a code that the list does not hold, or changes no code. -/
theorem takeReport_law {code : FaultCode} {detail : Option BreachKind} {seen : Nat} {l : List FaultEntry} (hl : LawfulFaults l) :
    LawfulFaults (takeReport code detail seen l).1 := by
  refine ⟨takeReport_length hl.1, ?_⟩
  have hcodes := hl.2
  unfold takeReport
  extract_lets new
  split
  · split
    · rw [putFault_codes]
      exact hcodes
    · exact hcodes
  next hnone =>
    have hnew : ∀ k : List FaultEntry, k.Sublist l → ((k ++ [new]).map FaultEntry.code).Nodup := fun k hk => by
      have hfresh : code ∉ k.map FaultEntry.code := fun hmem => by
        obtain ⟨e, he, hcode⟩ := List.mem_map.1 hmem
        simpa [hcode] using List.find?_eq_none.1 hnone e (hk.subset he)
      rw [List.map_append]
      exact (hcodes.sublist (hk.map _)).append (List.nodup_singleton _) (by simpa using hfresh)
    split
    · exact hnew l (.refl l)
    · split
      next hdrop => exact hnew _ (dropLatched_spec hdrop).2
      next => exact hcodes

/-! ### What the blocks' work keeps -/

namespace Node.Works

variable {n m : Node}

/-- The blocks' work leaves the Presence Controller. -/
theorem pres (h : n.Works m) : m.pres = n.pres := by
  induction h with
  | start => rfl
  | apart _ _ pres _ _ ih => exact pres.trans ih
  | handPart _ ih => rw [Node.handPart_eq]; exact ih
  | rebuildPresence _ ih | enterFault _ ih | latchFault _ ih | dropFaults _ ih | putPeer _ _ ih | dropPeer _ ih => exact ih

theorem address (h : n.Works m) : m.address = n.address := congrArg Presence.address h.pres

theorem queueOpen (h : n.Works m) : m.queueOpen = n.queueOpen := by simp only [Node.queueOpen, h.pres]

/-- The blocks' work leaves the line but for the notices in the queue. -/
theorem line (h : n.Works m) : m.line = { n.line with queue := m.line.queue } := by
  induction h with
  | start => rfl
  | apart _ line _ _ _ ih => rw [line]; exact ih
  | @handPart m k rank part fields _ ih =>
    rw [m.handPart_eq]
    exact congrArg (fun l : Line => { l with queue := (m.handPart k rank part fields).line.queue }) ih
  | @rebuildPresence m _ ih =>
    exact congrArg (fun l : Line => { l with queue := m.rebuildPresence.line.queue }) ih
  | enterFault _ ih | latchFault _ ih | dropFaults _ ih | putPeer _ _ ih | dropPeer _ ih => exact ih

theorem sending (h : n.Works m) : m.line.sending = n.line.sending := by rw [h.line]

/-- A lawful transmit queue stays so. -/
theorem lawfulQueue (h : n.Works m) (hn : LawfulQueue n.line.queue) : LawfulQueue m.line.queue := by
  induction h with
  | start => exact hn
  | apart _ line _ _ _ ih => rw [line]; exact ih
  | handPart _ ih =>
    rw [Node.handPart_queue]
    split
    · exact ih.offerQueue (fixedPriority_handed _ _ _ _)
    · exact ih
  | rebuildPresence _ ih => exact ih.replaceIn (fixedPriority_handed _ _ _ _)
  | enterFault _ ih | latchFault _ ih | dropFaults _ ih | putPeer _ _ ih | dropPeer _ ih => exact ih

theorem queueLaw (h : n.Works m) (hn : n.QueueLaw) : m.QueueLaw := by
  obtain ⟨hqueue, hsending⟩ := n.queueLaw_iff.1 hn
  exact m.queueLaw_iff.2 ⟨h.lawfulQueue hqueue, fun q hq => hsending q (h.sending ▸ hq)⟩

/-- An empty queue that takes no notices stays empty (R28). -/
theorem silent (h : n.Works m) (hclosed : n.queueOpen = false) (hempty : n.line.queue = []) : m.line.queue = [] := by
  induction h with
  | start => exact hempty
  | apart _ line _ _ _ ih => rw [line]; exact ih
  | handPart hm ih =>
    rw [Node.handPart_queue, hm.queueOpen, hclosed, if_neg Bool.false_ne_true]
    exact ih
  | @rebuildPresence m _ ih =>
    change replaceIn _ m.line.queue = []
    rw [ih]
    rfl
  | enterFault _ ih | latchFault _ ih | dropFaults _ ih | putPeer _ _ ih | dropPeer _ ih => exact ih

theorem peerLaw (h : n.Works m) (hn : n.PeerLaw) : m.PeerLaw := by
  induction h with
  | start => exact hn
  | apart _ _ pres entries _ ih =>
    unfold Node.PeerLaw
    rw [pres, entries]
    exact ih
  | handPart _ ih => rw [Node.handPart_eq]; exact ih
  | @putPeer m e _ known ih =>
    refine ⟨insertPeer_sorted ih.1, fun x hx => (mem_insertPeer hx).elim (fun hxe => ?_) (ih.2 x)⟩
    subst hxe
    obtain ⟨y, hy, hye⟩ | hx := known
    · exact hye ▸ ih.2 y hy
    · exact hx
  | dropPeer _ ih => exact ⟨ih.1.sublist List.filter_sublist, fun x hx => ih.2 x (List.mem_of_mem_filter hx)⟩
  | rebuildPresence _ ih | enterFault _ ih | latchFault _ ih | dropFaults _ ih => exact ih

theorem faultLaw (h : n.Works m) (hn : n.FaultLaw) : m.FaultLaw := by
  induction h with
  | start => exact hn
  | apart _ _ _ _ faults ih =>
    unfold Node.FaultLaw
    rw [faults]
    exact ih
  | handPart _ ih => rw [Node.handPart_eq]; exact ih
  | enterFault _ ih => exact takeReport_law ih
  | @latchFault m code _ ih =>
    have hcodes : (m.latchFault code).serv.faults.map FaultEntry.code = m.serv.faults.map FaultEntry.code := by
      simp only [Node.latchFault, Node.onServ_serv, List.map_map]
      refine List.map_congr_left fun e _ => ?_
      by_cases h : e.code = code <;> simp [h]
    refine ⟨?_, hcodes ▸ ih.2⟩
    simpa [Node.latchFault] using ih.1
  | dropFaults _ ih =>
    exact ⟨(List.length_filter_le _ _).trans ih.1, ih.2.sublist (List.filter_sublist.map _)⟩
  | rebuildPresence _ ih | putPeer _ _ ih | dropPeer _ ih => exact ih

end Node.Works
end Sys2Proof.Machine
end

section
/-! PROOFS. The events of the blocks are their work (`Node.Works`): what they make of a notice, of a sample set and of a completion,
and the end of a step (R24, R61, R83, R136). -/

namespace Sys2Proof.Machine

/-! ### What the Codec delivers -/

/-- A notice delivered is one that its source may send, made of its fields (R29, R33). -/
theorem decode_spec {k : Kind} {src : Nat} {payload : List Byte} {x : Notice} (h : decode k src payload = some x) :
    k.mayCome src = true ∧ ∃ fs, x = k.notice fs := by
  unfold decode at h
  split at h
  next hcome =>
    split at h
    next fs _ =>
      split at h
      · exact ⟨hcome, fs, (Option.some.inj h).symm⟩
      · cases h
    next => cases h
  next => cases h

@[simp] theorem Node.entry_address (n : Node) (a : Nat) : (n.entry a).address = a := by
  unfold Node.entry Node.peer
  cases h : n.peers.entries.find? fun e => e.address == a with
  | none => rfl
  | some e => simpa using List.find?_some h

@[simp] theorem Peer.presence_address (e : Peer) (now : Nat) (p : PresenceNotice) : (e.presence now p).address = e.address := by
  unfold Peer.presence
  extract_lets e1
  split <;> rfl

@[simp] theorem Peer.graded_address (e : Peer) (now gen cls : Nat) (profile : Option Nat) (cap res : Option Fig) :
    (e.graded now gen cls profile cap res).address = e.address := by
  unfold Peer.graded
  split <;> rfl

namespace Node.Works

variable {n m : Node}

/-! ### Notices heard -/

theorem peerPresence {src : Nat} {p : PresenceNotice} (h : n.Works m) (hsrc : 1 ≤ src ∧ src ≤ 48 ∧ src ≠ m.address) :
    n.Works (m.peerPresence src p) := (h.putPeer (.inr (by simpa using hsrc))).rederive

theorem peerGrade {src gen cls : Nat} {profile : Option Nat} {cap res : Option Fig} (h : n.Works m)
    (hsrc : 1 ≤ src ∧ src ≤ 48 ∧ src ≠ m.address) : n.Works (m.peerGrade src gen cls profile cap res) := by
  unfold Node.peerGrade
  extract_lets n1
  have h1 : n.Works n1 := (h.putPeer (.inr (by simpa using hsrc))).rederive
  exact h1.testBond.ite h1

theorem readout {part : Nat} {peer : Option Nat} (h : n.Works m) : n.Works (m.readout part peer) :=
  h.handPart.ite (h.handPart.ite (h.handPart.ite (h.handPart.ite h)))

theorem heardQuery {named : Nat} {part peer : Option Nat} (h : n.Works m) : n.Works (m.heardQuery named part peer) := by
  unfold Node.heardQuery
  refine ite ?_ h
  split
  · exact h.readout
  · exact h.readout.readout.readout.readout

/-- A PRESENCE is taken by the Peer Table, the Rail Allocator, the Position Manager and the Pairing Engine. -/
theorem deliver_presence {src : Nat} {p : PresenceNotice} (h : n.Works m) (hsrc : 1 ≤ src ∧ src ≤ 48) :
    n.Works (m.deliver src (.presence p)) := by
  unfold Node.deliver
  extract_lets n0 n1
  have h0 : n.Works n0 := h.railNote.pairNote
  have h2 : n.Works (if src = m.address then n0 else n0.peerPresence src p) := by
    split
    · exact h0
    next hother => exact h0.peerPresence ⟨hsrc.1, hsrc.2, fun heq => hother (heq.trans (h0.address.trans h.address.symm))⟩
  refine pairPresence ?_
  split
  · exact h2.railPresence.viewPresence
  · exact h2.railPresence

/-- A GRADE is taken by the Peer Table and put to the bond test. -/
theorem deliver_grade {src g c : Nat} {pr : Option Nat} {cap res : Option Fig} (h : n.Works m) (hsrc : 1 ≤ src ∧ src ≤ 48) :
    n.Works (m.deliver src (.grade g c pr cap res)) := by
  have h0 : n.Works ((m.railNote src).pairNote src) := h.railNote.pairNote
  change n.Works (if src = m.address then _ else ((m.railNote src).pairNote src).peerGrade src g c pr cap res)
  split
  · exact h0
  next hother => exact h0.peerGrade ⟨hsrc.1, hsrc.2, fun heq => hother (heq.trans (h0.address.trans h.address.symm))⟩

/-- What every notice does before the block that owns its kind takes it (R24, R52, R139, R159). -/
theorem heardFirst {src : Nat} (h : n.Works m) :
    n.Works (if src = m.address then (m.railNote src).pairNote src else ((m.railNote src).pairNote src).peerTouch src) :=
  h.railNote.pairNote.ite h.railNote.pairNote.peerTouch

/-- Every notice but PLAN and DIRECTIVE is worked through by the blocks alone. -/
theorem deliver {k : Kind} {src : Nat} {payload : List Byte} {x : Notice} (h : n.Works m)
    (hx : decode k src payload = some x) (hplan : k ≠ .plan) (hdirective : k ≠ .directive) : n.Works (m.deliver src x) := by
  obtain ⟨hcome, fs, rfl⟩ := decode_spec hx
  cases k with
  | plan => exact absurd rfl hplan
  | directive => exact absurd rfl hdirective
  | query => exact h.heardFirst.heardQuery
  | presence => exact h.deliver_presence (by simpa [Kind.mayCome] using hcome)
  | grade => exact h.deliver_grade (by simpa [Kind.mayCome] using hcome)
  | readout | fault => exact h.heardFirst
  | need => exact h.heardFirst.heardNeed
  | offer => exact h.heardFirst.heardOffer
  | agree => exact h.heardFirst.heardAgree
  | release => exact h.heardFirst.heardRelease
  | suspend => exact h.heardFirst.heardSuspend
  | resume => exact h.heardFirst.heardResume
  | propose => exact h.heardFirst.heardPropose
  | bind => exact h.heardFirst.heardBind
  | unbind => exact h.heardFirst.heardUnbind
  | claim => exact h.heardFirst.heardClaim
  | engage => exact h.heardFirst.heardEngage
  | vacate => exact h.heardFirst.heardVacate

/-! ### Sample sets, completions and the end of a step -/

theorem restBreak (h : n.Works m) : n.Works m.restBreak := h.abortSelfRest.ite h

theorem hardLimit {k : BreachKind} (h : n.Works m) : n.Works (m.hardLimit k) :=
  h.onMon.ite (h.onMon.requestProtect.ite h.onMon).hardPath.reportFault

theorem softLimit (h : n.Works m) : n.Works m.softLimit := by
  unfold Node.softLimit
  split
  · exact h.onMon.requestProtect
  · exact h.onMon
  · exact h.onMon

theorem limitTests (h : n.Works m) : n.Works m.limitTests := by
  unfold Node.limitTests
  split
  · exact h.hardLimit
  · exact h.softLimit.ite h

theorem sampleSet {r : RawSample} (h : n.Works m) : n.Works (m.sampleSet r) := h.onMon.restBreak.limitTests.onDuty

theorem levelStop (h : n.Works m) : n.Works m.levelStop := by
  unfold Node.levelStop
  split
  · split
    · exact (h.onDuty.releaseOwn.ite h.onDuty).settle.ite h
    · exact h
  · exact h

theorem testStopped {exchange : Option Nat} (h : n.Works m) : n.Works (m.testStopped exchange) := h.onRail.testDone.ite h

theorem takeCompletion {c : Completion} (h : n.Works m) : n.Works (m.takeCompletion c) := by
  unfold Node.takeCompletion
  split
  case h_1 => exact h.pulseDone
  case h_2 | h_3 => exact h.testStopped
  case h_4 => exact h.onRail
  all_goals exact h

theorem settleTest (h : n.Works m) : n.Works m.settleTest := by
  unfold Node.settleTest
  split
  · exact h.onRail.testDone.ite h
  · exact h

theorem takeCompletions (h : n.Works m) : n.Works m.takeCompletions :=
  (foldl (f := Node.takeCompletion) (fun _ _ h => h.takeCompletion) _ h).settleTest.onDuty

theorem conclude {before : Node} (h : n.Works m) : n.Works (m.conclude before) :=
  h.takeCompletions.ite h.takeCompletions.rebuildPresence

/-! ### The other events -/

theorem rejudgeTag (h : n.Works m) : n.Works m.rejudgeTag := by
  unfold Node.rejudgeTag
  extract_lets n1
  have h1 : n.Works n1 := h.onMon
  exact (h1.reportFault.ite h1).startRegime

theorem handQuietFault (h : n.Works m) : n.Works m.handQuietFault := by
  unfold Node.handQuietFault
  extract_lets n1
  have h1 : n.Works n1 := h.apart rfl rfl rfl rfl
  refine ite ?_ h
  split
  · exact h1.hand
  · exact h1

theorem changeModule (h : n.Works m) : n.Works m.changeModule := by
  unfold Node.changeModule
  extract_lets n1 n2 n3 n4 n5 n6 n7
  have h3 : n.Works n3 := h.onMon.onMon.onPos.clearLevelsToZero
  have h6 : n.Works n6 := h3.railModule.onGrade.pairModule.modulePath.publish.dropFaults
  have h7 : n.Works n7 := (h6.reportFault.ite h6).startRegime
  exact h7.ite h7.rebuildPresence

theorem gradeWatchComplete (h : n.Works m) : n.Works m.gradeWatchComplete := by
  unfold Node.gradeWatchComplete
  refine ite ?_ h
  dsimp only
  split
  · exact h.formReading.onMon.gradeReading
  · exact h.formReading.onMon

theorem positionWatchComplete (h : n.Works m) : n.Works m.positionWatchComplete := by
  unfold Node.positionWatchComplete
  refine ite ?_ h
  dsimp only
  split
  · exact h.formReading.onMon.settledReport
  · exact h.formReading.onMon

theorem limitClearExpiry (h : n.Works m) : n.Works m.limitClearExpiry :=
  (h.onMon.releaseProtect.latchFault.ite h.onMon.releaseProtect).ite h

theorem startTimerExpiry (h : n.Works m) : n.Works m.startTimerExpiry := by
  unfold Node.startTimerExpiry
  split
  · exact h.startParty.ite h
  · exact h

theorem liveReportTimerExpiry (h : n.Works m) : n.Works m.liveReportTimerExpiry := by
  unfold Node.liveReportTimerExpiry
  split
  · exact h.hand.onPos.ite h
  · exact h

theorem afterFailure {d : Drive} (h : n.Works m) : n.Works (m.afterFailure d) := by
  unfold Node.afterFailure
  split
  case h_1 => exact h.onPos.handVacate
  case h_2 =>
    cases d
    · exact h.contactorStep
    · exact h.switchStep
  all_goals exact h

theorem confirmTimeout {d : Drive} (h : n.Works m) : n.Works (m.confirmTimeout d) := by
  cases d <;> exact h.onPos.reportFault.afterFailure.ite h

end Node.Works
end Sys2Proof.Machine
end

section
/-! PROOFS. What a command but POWER_ON_RESET can do to the node (`Node.Leads`): it keeps the station address, a stored plan and a
stopped state, and the laws of queue, silence, Peer Table, fault list and assembly buffer (R26, R28, R35, R36, R39, R42, R45, R48,
R178). -/

namespace Sys2Proof.Machine

/-- What every command but POWER_ON_RESET leaves: address, stored plan, a stopped state and the laws of line and tables. -/
structure Node.Leads (n m : Node) : Prop where
  address : m.pres.address = n.pres.address
  plan : ∀ p, n.pres.plan = some p → m.pres.plan = some p
  state : n.stopped → m.pres.state = n.pres.state
  silenceLaw : n.SilenceLaw → m.SilenceLaw
  queueLaw : n.QueueLaw → m.QueueLaw
  peerLaw : n.PeerLaw → m.PeerLaw
  faultLaw : n.FaultLaw → m.FaultLaw
  assemblyLaw : n.AssemblyLaw → m.AssemblyLaw

theorem Node.live_iff (n : Node) : n.live = true ↔ ¬n.stopped := by
  simp [Node.live, Node.stopped]

theorem Node.queueOpen_of_stopped {n : Node} (h : n.stopped) : n.queueOpen = false := by
  rcases h with h | h <;> simp [Node.queueOpen, h]

theorem Node.Works.leads {n m : Node} (h : n.Works m) : n.Leads m where
  address := h.address
  plan p hp := by rw [h.pres]; exact hp
  state _ := by rw [h.pres]
  silenceLaw hn hm := by
    have hstopped : n.stopped := by rwa [Node.stopped, h.pres] at hm
    obtain ⟨hqueue, hsending⟩ := hn hstopped
    exact ⟨h.silent (Node.queueOpen_of_stopped hstopped) hqueue, h.sending.trans hsending⟩
  queueLaw := h.queueLaw
  peerLaw := h.peerLaw
  faultLaw := h.faultLaw
  assemblyLaw hn b hb := hn b (by rwa [h.pres] at hb)

namespace Node.Leads

variable {n m k : Node}

theorem trans (h : n.Leads m) (hk : m.Leads k) : n.Leads k where
  address := hk.address.trans h.address
  plan p hp := hk.plan p (h.plan p hp)
  state hn := by
    have hm := h.state hn
    exact (hk.state (by rwa [Node.stopped, hm])).trans hm
  silenceLaw hn := hk.silenceLaw (h.silenceLaw hn)
  queueLaw hn := hk.queueLaw (h.queueLaw hn)
  peerLaw hn := hk.peerLaw (h.peerLaw hn)
  faultLaw hn := hk.faultLaw (h.faultLaw hn)
  assemblyLaw hn := hk.assemblyLaw (h.assemblyLaw hn)

theorem works (h : n.Leads m) (hk : m.Works k) : n.Leads k := h.trans hk.leads

theorem refl (n : Node) : n.Leads n := Works.start.leads

theorem ite {c : Prop} [Decidable c] {a b : Node} (ha : n.Leads a) (hb : n.Leads b) : n.Leads (if c then a else b) := by
  split
  · exact ha
  · exact hb

/-- A live node that is not stopped keeps its address, as every node does. -/
theorem addressLaw (h : n.Leads m) (hn : n.AddressLaw) : m.AddressLaw := fun hm => by
  have hlive : n.live = true := n.live_iff.2 fun hstopped => m.live_iff.1 hm (by rwa [Node.stopped, h.state hstopped])
  unfold Node.address
  rw [h.address]
  exact hn hlive

/-! ### The line and the Presence Controller -/

theorem onLine {f : Line → Line} (hqueue : n.QueueLaw → (n.onLine f).QueueLaw)
    (hsilence : n.SilenceLaw → (n.onLine f).SilenceLaw) : n.Leads (n.onLine f) :=
  ⟨rfl, fun _ => id, fun _ => rfl, hsilence, hqueue, id, id, id⟩

/-- The line changes its state and counts and keeps its notices. -/
theorem onLineState {f : Line → Line} (hqueue : (f n.line).queue = n.line.queue) (hsending : (f n.line).sending = n.line.sending) :
    n.Leads (n.onLine f) := by
  refine onLine (fun h => ?_) (fun h hstopped => ?_)
  · rw [Node.queueLaw_iff, Node.onLine_line, hqueue, hsending]
    exact n.queueLaw_iff.1 h
  · rw [Node.onLine_line, hqueue, hsending]
    exact h hstopped

/-- The frame in transmission leaves the line. -/
theorem onLineSent {f : Line → Line} (hqueue : (f n.line).queue = n.line.queue) (hsending : (f n.line).sending = none) :
    n.Leads (n.onLine f) := by
  refine onLine (fun h => ?_) (fun h hstopped => ?_)
  · rw [Node.queueLaw_iff, Node.onLine_line, hqueue, hsending]
    exact ⟨(n.queueLaw_iff.1 h).1, by simp⟩
  · rw [Node.onLine_line, hqueue]
    exact ⟨(h hstopped).1, hsending⟩

/-- The queue is emptied with the frame in transmission. -/
theorem onLineEmptied {f : Line → Line} (hqueue : (f n.line).queue = []) (hsending : (f n.line).sending = none) :
    n.Leads (n.onLine f) := by
  refine onLine (fun _ => ?_) (fun _ _ => ⟨hqueue, hsending⟩)
  rw [Node.queueLaw_iff, Node.onLine_line, hqueue, hsending]
  exact ⟨.nil, by simp⟩

/-- The Presence Controller changes, but for the address, a stored plan and a stopped state, and enters none. -/
theorem onPres {f : Presence → Presence} (haddress : (f n.pres).address = n.pres.address)
    (hplan : ∀ p, n.pres.plan = some p → (f n.pres).plan = some p)
    (hassembly : n.AssemblyLaw → (n.onPres f).AssemblyLaw)
    (hstate : (f n.pres).state = n.pres.state ∨ (¬n.stopped ∧ ¬(n.onPres f).stopped)) : n.Leads (n.onPres f) where
  address := haddress
  plan := hplan
  state hn := hstate.elim id fun h => absurd hn h.1
  silenceLaw hn hm := hstate.elim (fun h => hn (by rwa [Node.stopped, Node.onPres_pres, h] at hm)) fun h => absurd hm h.2
  queueLaw := id
  peerLaw hn := by
    unfold Node.PeerLaw
    rw [Node.onPres_pres, haddress]
    exact hn
  faultLaw := id
  assemblyLaw := hassembly

/-- The Presence Controller changes its timers and its hold flag. -/
theorem onPresTimers {f : Presence → Presence} (hsame : ((f n.pres).address, (f n.pres).plan, (f n.pres).assembly, (f n.pres).state)
    = (n.pres.address, n.pres.plan, n.pres.assembly, n.pres.state)) : n.Leads (n.onPres f) := by
  simp only [Prod.mk.injEq] at hsame
  obtain ⟨haddress, hplan, hassembly, hstate⟩ := hsame
  exact onPres haddress (fun p hp => hplan.trans hp) (fun hn b hb => hn b (hassembly ▸ hb)) (.inl hstate)

/-- A node that is not stopped changes its state to one that is no stop. -/
theorem setState {s : NodeState} (hn : ¬n.stopped) (hs : s ≠ .strapFault ∧ s ≠ .clashed) : n.Leads (n.setState s) :=
  onPres rfl (fun _ => id) id (.inr ⟨hn, fun h => h.elim hs.1 hs.2⟩)

theorem sendPresence (h : n.Leads m) : n.Leads m.sendPresence := (h.works Works.start.hand).trans (onPresTimers rfl)

theorem enterActive (hn : ¬n.stopped) : n.Leads n.enterActive :=
  ((setState hn (by simp)).trans (onPresTimers rfl)).sendPresence.works
    (Works.start.gradeActive.rederive.roomTest.testEligible.claimIfLead)

theorem enterHold (hn : ¬n.stopped) : n.Leads n.enterHold :=
  ((setState hn (by simp)).trans (onPresTimers rfl)).sendPresence.works
    (Works.start.gradeHold.railHold.rederive.dissolve.testEligible)

theorem enterUnplanned (hn : ¬n.stopped) : n.Leads n.enterUnplanned := (setState hn (by simp)).sendPresence

/-- A change of state that empties the queue, as QUIET, STRAPFAULT and CLASHED begin. -/
theorem setState_emptyQueue {s : NodeState} (hn : ¬n.stopped) : n.Leads (n.setState s).emptyQueue where
  address := rfl
  plan _ := id
  state h := absurd h hn
  silenceLaw _ _ := ⟨rfl, rfl⟩
  queueLaw _ := (Node.queueLaw_iff _).2 ⟨.nil, by rintro q ⟨⟩⟩
  peerLaw := id
  faultLaw := id
  assemblyLaw := id

theorem enterQuiet (hn : ¬n.stopped) : n.Leads n.enterQuiet := by
  unfold Node.enterQuiet
  extract_lets n1 due n2
  have h1 : n.Leads n1 := (setState_emptyQueue hn).trans (onPresTimers rfl)
  have h2 : n1.Works n2 := Works.start.reportFault.apart rfl rfl rfl rfl
  exact h1.works h2.onGrade.onRail.rederive.testEligible

theorem enterStop {s : NodeState} {code : FaultCode} (hn : ¬n.stopped) : n.Leads (n.enterStop s code) := by
  unfold Node.enterStop
  extract_lets n1
  have hages : (n.setState s).emptyQueue.Works (n.setState s).emptyQueue.stopAges := Works.start.apart rfl rfl rfl rfl
  have h1 : n.Leads n1 := (setState_emptyQueue hn).works hages.reportFault
  exact h1.works Works.start.clearLevelsToZero.onRail.onGrade.rederive

theorem listenEnds (hn : ¬n.stopped) : n.Leads n.listenEnds :=
  ite (enterUnplanned hn) (ite (enterHold hn) (enterActive hn))

theorem rejoin (hn : ¬n.stopped) : n.Leads n.rejoin := by
  unfold Node.rejoin
  extract_lets fresh n1 n2 n3 n4
  have h1 : n.Leads n1 := onLineEmptied rfl rfl
  have h2 : n.Leads n2 := h1.trans ((setState (n := n1) hn (by simp)).trans (onPresTimers rfl))
  have h3 : n.Leads n3 := h2.trans ⟨rfl, fun _ => id, fun _ => rfl, id, id, fun _ => ⟨.nil, by simp [n3, Peers.initial]⟩, id, id⟩
  have h4 : n3.Works n4 := Works.start.onRail.uncertain.clearLevels
  exact h3.works h4.abandonTest.pairRejoin.posRejoin.handQuietFault

/-! ### The plan -/

/-- A plan is stored only where none is (R42). -/
theorem storePlan {p : Plan} (hnone : n.pres.plan = none) : n.Leads (n.storePlan p) ∧ (n.storePlan p).pres.state = n.pres.state := by
  unfold Node.storePlan
  extract_lets n1 n2 n3
  have hstored : n.Leads (n.onPres fun q => { q with plan := some p }) :=
    onPres rfl (fun q hq => by rw [hnone] at hq; cases hq) id (.inl rfl)
  have h2 : (n.onPres fun q => { q with plan := some p }).Works n2 := Works.start.latchFault.onPos
  have h3 : (n.onPres fun q => { q with plan := some p }).Works n3 := h2.ite h2.onRail
  have hend := (Works.foldl (f := Node.removePeer) (fun _ _ h => h.removePeer) (n.overage p) h3).rejudgeTag.rederive
  exact ⟨hstored.works hend, (congrArg Presence.state hend.pres).trans rfl⟩

theorem acceptPlan {p : Plan} (hn : ¬n.stopped) (hnone : n.pres.plan = none) : n.Leads (n.acceptPlan p) := by
  obtain ⟨hstored, hstate⟩ := storePlan (p := p) hnone
  have hlive : ¬(n.storePlan p).stopped := by rwa [Node.stopped, hstate]
  exact ite (hstored.trans (enterStop hlive)) (ite (hstored.trans (enterActive hlive)) hstored)

theorem planComplete {a : Assembly} (hn : ¬n.stopped) (hnone : n.pres.plan = none) :
    (n.onPres fun q => { q with assembly := none }).Leads (n.planComplete a) := by
  unfold Node.planComplete
  extract_lets n1
  split
  · exact acceptPlan (n := n1) hn hnone
  · exact Works.start.reportFault.leads

theorem heardPlan {x : PlanPart} (hn : ¬n.stopped) : n.Leads (n.heardPlan x) := by
  unfold Node.heardPlan
  split
  · exact ite (refl n) Works.start.reportFault.leads
  next hnone =>
    extract_lets n1
    have hpart (hassembly : n1.AssemblyLaw) : n.Leads n1 := onPres rfl (fun _ => id) (fun _ => hassembly) (.inl rfl)
    split
    next a ha =>
      split
      · have hemptied : n.Leads (n1.onPres fun q => { q with assembly := none }) :=
          onPres (f := fun q => { q with assembly := none }) rfl (fun _ => id) (fun _ b hb => nomatch hb) (.inl rfl)
        exact hemptied.trans (planComplete (n := n1) hn hnone)
      next hcomplete =>
        refine hpart fun b hb => ?_
        obtain rfl : a = b := Option.some.inj (ha.symm.trans hb)
        simpa using hcomplete
    next ha => exact hpart fun b hb => by rw [ha] at hb; cases hb

/-! ### Directives and frames heard -/

theorem result {kind outcome : Nat} (h : n.Leads m) : n.Leads (m.result kind outcome) := by
  have hrecorded : m.Works (m.onServ fun s => { s with lastResult := kind * 16 + outcome }) := Works.start.apart rfl rfl rfl rfl
  exact h.works hrecorded.rebuildPresence

theorem decide {kind : Nat} {refusal : Option Nat} {effect : Node → Node} (heffect : refusal = none → n.Leads (effect n)) :
    n.Leads (n.decide kind refusal effect) := by
  unfold Node.decide
  split
  · exact (refl n).result
  · exact (heffect rfl).result

theorem heardDirective {named kind : Nat} : n.Leads (n.heardDirective named kind) := by
  have hhold (h : n.holdRefusal = none) : n.Leads n.enterHold := by
    have hactive : n.pres.state = .active := by simpa [Node.holdRefusal] using h
    exact enterHold (by simp [Node.stopped, hactive])
  have hresume (h : n.resumeRefusal = none) : n.Leads n.enterActive := by
    have hheld : n.pres.state = .hold := by simpa [Node.resumeRefusal] using h
    exact enterActive (by simp [Node.stopped, hheld])
  exact ite (ite (decide fun _ => Works.start.acceptRegrade.leads) (ite (decide fun _ => Works.start.acceptRelease.leads)
    (ite (decide hhold) (ite (decide hresume) (ite (decide fun _ => Works.start.dropFaults.leads) (refl n).result))))) (refl n)

/-- A notice delivered to a node that is not stopped (R24, R45). -/
theorem deliver {k : Kind} {src : Nat} {payload : List Byte} {x : Notice} (hn : ¬n.stopped) (hx : decode k src payload = some x) :
    n.Leads (n.deliver src x) := by
  have hfirst := Works.start.heardFirst (n := n) (src := src)
  by_cases hplan : k = .plan
  · subst hplan
    obtain ⟨-, fs, rfl⟩ := decode_spec hx
    exact hfirst.leads.trans (heardPlan (by rwa [Node.stopped, hfirst.pres]))
  by_cases hdirective : k = .directive
  · subst hdirective
    obtain ⟨-, fs, rfl⟩ := decode_spec hx
    exact hfirst.leads.trans heardDirective
  exact (Works.start.deliver hx hplan hdirective).leads

theorem lineBusy : n.Leads n.lineBusy := onLineState rfl rfl

theorem clash (hn : ¬n.stopped) : n.Leads n.lineBusy.clash := lineBusy.trans (enterStop hn)

theorem hear {k : Kind} {h : Heard} : n.Leads (n.hear k h) := by
  unfold Node.hear
  refine ite ?_ (refl n)
  split
  next hlive =>
    have hn := n.live_iff.1 hlive
    refine ite (clash hn) ?_
    split
    next x hx => exact lineBusy.trans (deliver (n := n.lineBusy) hn hx)
    next => exact lineBusy
  next => exact lineBusy

theorem hearDirective {kinds : Nat → Bool} {h : Heard} : n.Leads (n.hearDirective kinds h) := by
  unfold Node.hearDirective
  refine ite hear ?_
  split
  · exact ite hear (refl n)
  · exact refl n

theorem hearOwn {q : Queued} : n.Leads (n.hearOwn q) := by
  unfold Node.hearOwn
  split
  next hlive =>
    split
    next hx => exact deliver (n.live_iff.1 hlive) hx
    next => exact refl n
  next => exact refl n

/-! ### Pin and line commands -/

theorem not_stopped_of_sends (h : n.pres.state.sends = true) : ¬n.stopped := by
  rintro (hs | hs) <;> simp [hs, NodeState.sends] at h

theorem lineFree : n.Leads n.lineFree := ite (onLineState rfl rfl) (refl n)

theorem frameStart : n.Leads n.frameStart := by
  unfold Node.frameStart
  split
  next q qs hq =>
    split
    next h =>
      refine onLine (fun hlaw => ?_) fun _ hstopped => absurd hstopped (not_stopped_of_sends h.1)
      obtain ⟨hqueue, -⟩ := n.queueLaw_iff.1 hlaw
      rw [hq] at hqueue
      exact (Node.queueLaw_iff _).2 ⟨hqueue.sublist (List.sublist_cons_self q qs),
        fun x hx => hqueue.fixed x (by cases hx; exact .head _)⟩
    next => exact refl n
  next => exact refl n

theorem arbitrationLost : n.Leads n.arbitrationLost := by
  unfold Node.arbitrationLost
  split
  next q _ hq =>
    refine onLine (fun hlaw => ?_) fun hsilence hstopped => ?_
    · obtain ⟨hqueue, hsending⟩ := n.queueLaw_iff.1 hlaw
      exact (Node.queueLaw_iff _).2 ⟨hqueue.returnQueue (hsending q hq), by rintro x ⟨⟩⟩
    · rw [(hsilence hstopped).2] at hq
      cases hq
  next => exact refl n

theorem frameAbandoned : n.Leads n.frameAbandoned := by
  unfold Node.frameAbandoned
  split
  · extract_lets n1
    have h1 : n.Leads n1 := onLineSent rfl rfl
    split
    next h => exact h1.trans (enterQuiet (not_stopped_of_sends h.2))
    next => exact h1
  · exact refl n

theorem frameCompleteClean : n.Leads n.frameCompleteClean := by
  unfold Node.frameCompleteClean
  split
  · extract_lets n1
    have h1 : n.Leads n1 := onLineSent rfl rfl
    exact (ite (h1.works Works.start.latchFault) h1).trans hearOwn
  · exact refl n

theorem receiveError {f : RawFrame} : n.Leads (n.receiveError f) :=
  ite (ite (lineBusy.works Works.start.uncertain) lineBusy) (refl n)

theorem silentDiscard {f : RawFrame} : n.Leads (n.silentDiscard f) := by
  unfold Node.silentDiscard
  refine ite ?_ (refl n)
  split
  · exact refl n
  · exact lineBusy
  · split
    next h => exact clash (n.live_iff.1 h.1)
    next => exact ite (refl n) lineBusy

/-! ### The commands -/

/-- Every command but POWER_ON_RESET is taken so. -/
theorem exec {c : Instr} {s t : State} (hc : ∀ straps tag, c ≠ .powerOnReset straps tag) (h : exec c s = .next t) :
    s.node.Leads t.node := by
  have hact {f : Node → Node} (hf : s.node.Leads (f s.node)) (h : s.act f = .next t) : s.node.Leads t.node := by
    rw [State.act_next] at h
    cases h
    exact hf.works Works.start.conclude
  have hwork {f : Node → Node} (hf : s.node.Works (f s.node)) : s.act f = .next t → s.node.Leads t.node := hact hf.leads
  have hstart : s.node.Works s.node := .start
  cases c with
  | powerOnReset straps tag => exact absurd rfl (hc straps tag)
  | lineFree => exact hact lineFree h
  | frameStart => exact hact frameStart h
  | arbitrationLost => exact hact arbitrationLost h
  | frameAbandoned => exact hact frameAbandoned h
  | frameCompleteClean => exact hact frameCompleteClean h
  | receiveError f => exact hact receiveError h
  | silentDiscard f => exact hact silentDiscard h
  | plan | presence | grade | readout | fault | need | offer | agree | release | suspend | resume | propose | bind | unbind
  | claim | engage | vacate | query => exact hact hear h
  | regrade | directiveRelease | hold | resumeNode | clearFaults | directiveUnknownKind =>
    exact hact (f := fun n => n.hearDirective _ _) hearDirective h
  | listenWindowExpiry =>
    refine hact ?_ h
    unfold Node.listenWindowExpiry
    split
    next hlisten => exact listenEnds (by simp [Node.stopped, hlisten.1])
    next => exact refl _
  | presenceTimerExpiry => exact hact (ite (refl _).sendPresence (refl _)) h
  | lineRejoin =>
    refine hact ?_ h
    unfold Node.lineRejoin
    split
    next hquiet => exact rejoin (by simp [Node.stopped, hquiet.1])
    next => exact refl _
  | entryExpires a => exact hwork (hstart.removePeer.ite hstart) h
  | sampleSet r => exact hwork (f := fun n => n.sampleSet r) hstart.sampleSet h
  | limitClearExpiry => exact hwork hstart.limitClearExpiry h
  | moduleChange => exact hwork (hstart.changeModule.ite hstart) h
  | restWatchComplete w =>
    cases w with
    | grade => exact hwork hstart.gradeWatchComplete h
    | position => exact hwork hstart.positionWatchComplete h
  | periodicRestReading => exact hwork (hstart.formReading.ite hstart) h
  | rampDownComplete => exact hwork hstart.rampIfIdle h
  | levelStop => exact hwork hstart.levelStop h
  | gradeRepeatExpiry => exact hwork (hstart.handGrade.ite hstart) h
  | needTimeout | agreeTimeout | retryTimerExpiry | offerHoldExpiry => exact hwork (hstart.onRail.roomTest.ite hstart) h
  | offerWindowExpiry => exact hwork (hstart.closeWindow.roomTest.ite hstart) h
  | startTimerExpiry => exact hwork hstart.startTimerExpiry h
  | suspendHoldExpiry | partySilenceExpiry => exact hwork (hstart.onRail.releaseOwn.ite hstart) h
  | railRepeatExpiry x => exact hwork (hstart.sendRail.onRail.ite hstart) h
  | uncertaintyExpiry => exact hwork (hstart.makeCertain.ite hstart) h
  | proposalTimerExpiry => exact hwork (hstart.proposalEnds.ite hstart) h
  | barTimerExpiry => exact hwork (hstart.endBar.seekOn.ite hstart) h
  | partnerSilenceExpiry => exact hwork (hstart.onPair.ite hstart) h
  | quietWindowExpiry => exact hwork (hstart.positionWon.ite hstart) h
  | positionRepeatExpiry x => exact hwork (hstart.sendPos.onPos.ite hstart) h
  | liveReportTimerExpiry => exact hwork hstart.liveReportTimerExpiry h
  | contactorConfirm => exact hwork (hstart.onPos.contactorStep.ite hstart) h
  | transferSwitchConfirm => exact hwork (hstart.onPos.switchStep.ite hstart) h
  | confirmTimeout d => exact hwork (f := fun n => n.confirmTimeout d) hstart.confirmTimeout h
  | engageTimeout => exact hwork (hstart.onPos.handVacate.ite hstart) h
  | leaveTimerExpiry => exact hwork (hstart.leadOpens.ite hstart) h

end Node.Leads

/-! ### The laws of every step -/

/-- A step idles, runs a command that leads to the next node, or puts every block into its power-on state. -/
theorem step_leads {s t : State} (h : step s = .next t) :
    s.node.Leads t.node ∨ ∃ straps tag, t.node = Node.powerOn straps tag := by
  unfold step at h
  split at h
  next c rest _ =>
    by_cases hc : ∃ straps tag, c = .powerOnReset straps tag
    · obtain ⟨straps, tag, rfl⟩ := hc
      cases h
      exact .inr ⟨straps, tag, rfl⟩
    · exact .inl (Node.Leads.exec (s := { s with pending := rest }) (fun straps tag heq => hc ⟨straps, tag, heq⟩) h)
  next =>
    cases h
    exact .inl (.refl _)

theorem powerOn_faults (straps : BitVec 6) (tag : TagReading) : LawfulFaults (Node.powerOn straps tag).serv.faults := by
  simp only [Node.powerOn, Service.initial]
  split <;> simp [LawfulFaults]

theorem powerOn_addressLaw (straps : BitVec 6) (tag : TagReading) : (Node.powerOn straps tag).AddressLaw := fun hlive => by
  have hlegal : legalStrap straps.toNat = true := by
    by_contra hillegal
    simp [Node.live, Node.powerOn, Presence.initial, hillegal] at hlive
  simpa [legalStrap, Node.address, Node.powerOn, Presence.initial] using hlegal

/-- Settles O51: every command works on the queue by offering, returning, rebuilding and emptying alone. -/
theorem stepKeepsQueueLaw : Obligations.StepKeepsQueueLaw := by
  intro s t hs h
  obtain hleads | ⟨straps, tag, ht⟩ := step_leads h
  · exact hleads.queueLaw hs
  · rw [ht, Node.queueLaw_iff]
    exact ⟨.nil, by rintro q ⟨⟩⟩

/-- Settles O55: a command keeps each table, and POWER_ON_RESET empties them. -/
theorem stepKeepsTables : Obligations.StepKeepsTables := by
  intro s t h
  obtain hleads | ⟨straps, tag, ht⟩ := step_leads h
  · exact ⟨hleads.peerLaw, hleads.faultLaw, hleads.addressLaw, hleads.assemblyLaw⟩
  · rw [ht]
    exact ⟨fun _ => ⟨.nil, by simp [Node.powerOn, Peers.initial]⟩, fun _ => powerOn_faults straps tag,
      fun _ => powerOn_addressLaw straps tag, fun _ b hb => nomatch hb⟩

/-- Settles O56: what a command but POWER_ON_RESET leads to keeps address, plan, stop and silence. -/
theorem onlyPowerOnResetUndoes : Obligations.OnlyPowerOnResetUndoes := by
  intro s t c rest hpending h hc
  have hexec : exec c { s with pending := rest } = .next t := by rwa [step, hpending] at h
  have hleads := Node.Leads.exec hc hexec
  exact ⟨hleads.address, hleads.plan, hleads.state, hleads.silenceLaw⟩

end Sys2Proof.Machine
end

section
/-! PROOFS. POWER_ON_RESET, and the commands that take frames on and off the line (R20-R23, R27, R36). -/

namespace Sys2Proof.Machine

/-! ### The end of a step -/

/-- No completion report waits and no classification is due: nothing is taken (R83, R136). -/
theorem Node.takeCompletions_of_settled {n : Node} (h : n.Settled) : n.takeCompletions = n := by
  obtain ⟨hreports, htest⟩ := h
  have hclassified : n.settleTest = n := by
    unfold Node.settleTest
    split
    next hc => rw [if_neg (by simpa [hc] using htest)]
    next => rfl
  unfold Node.takeCompletions
  rw [hreports, List.foldl_nil, hclassified]
  unfold Node.onDuty
  rw [← hreports]

/-- The end of a settled step rebuilds a queued PRESENCE at most. -/
theorem Node.conclude_of_settled {m : Node} (before : Node) (h : m.Settled) : m.conclude before = m.withPresence before := by
  rw [Node.conclude, Node.takeCompletions_of_settled h]

theorem Node.conclude_of_mark {m before : Node} (h : m.Settled) (hmark : m.mark = before.mark) : m.conclude before = m := by
  rw [Node.conclude_of_settled before h, Node.withPresence, if_pos hmark]

/-- A command of the form `act` answers the node at the end of its step. -/
theorem State.act_eq {n m : Node} {w : List Instr} {f : Node → Node} (h : (f n).conclude n = m) :
    State.act ⟨n, w⟩ f = .next ⟨m, w⟩ := by
  rw [State.act_next, h]

/-- A step that changes the line alone. -/
theorem Node.conclude_onLine {n : Node} (f : Line → Line) (h : n.Settled) : (n.onLine f).conclude n = n.onLine f :=
  Node.conclude_of_mark h rfl

theorem Node.conclude_self {n : Node} (h : n.Settled) : n.conclude n = n := Node.conclude_of_mark h rfl

/-! ### POWER_ON_RESET -/

/-- Settles O4: the power-on state of each block. -/
theorem powerOnResetClearsNode : Obligations.PowerOnResetClearsNode := by
  intro straps tag n w
  have hlegal : legalStrap straps.toNat = true ↔ 1 ≤ straps.toNat ∧ straps.toNat ≤ 48 := by simp [legalStrap]
  refine ⟨Node.powerOn straps tag, rfl, rfl, rfl, rfl, rfl, rfl, rfl, fun h => ?_, fun h => ?_, ?_⟩
  · rw [← hlegal] at h
    simp [Node.powerOn, Presence.initial, Service.initial, h]
  · rw [← hlegal] at h
    simp [Node.powerOn, Presence.initial, Service.initial, h]
  · have hlevels (i : LevelId) : (Node.powerOn straps tag).duty.get i = .empty ∧ (Node.powerOn straps tag).duty.kept i = none := by
      cases i <;> exact ⟨rfl, rfl⟩
    simp only [hlevels]
    simp [Node.powerOn, Line.initial, Peers.initial, Monitor.initial, Counter.cleared, Level.empty, Duty.initial, Grader.initial,
      Record.cleared, Rail.initial, Pairing.initial, Positions.initial, Actuator.safe, Service.initial]

/-! ### LINE_FREE, FRAME_START, ARBITRATION_LOST -/

theorem placeAhead_eq (q : Queued) (l : List Queued) :
    placeAhead q l = l.takeWhile (fun x => decide (q.priority < x.priority)) ++ q
      :: l.dropWhile fun x => decide (q.priority < x.priority) := by
  induction l with
  | nil => rfl
  | cons x xs ih => by_cases h : q.priority < x.priority <;> simp [placeAhead, h, ih]

theorem placeAfter_eq (q : Queued) (l : List Queued) :
    placeAfter q l = l.takeWhile (fun x => decide (q.priority ≤ x.priority)) ++ q
      :: l.dropWhile fun x => decide (q.priority ≤ x.priority) := by
  induction l with
  | nil => rfl
  | cons x xs ih => by_cases h : q.priority ≤ x.priority <;> simp [placeAfter, h, ih]

/-- R27: a frame that has lost arbitration is dropped behind a newer notice of its kind. -/
theorem returnQueue_of_newer {q : Queued} {l : List Queued} (h : ∃ x ∈ l, q.replaces x = true) : returnQueue q l = l := by
  rw [returnQueue, if_pos (List.any_eq_true.2 h)]

/-- R27: where no newer notice of its kind waits and there is room, it takes its place ahead of its equals. -/
theorem returnQueue_of_room {q : Queued} {l : List Queued} (h : ∀ x ∈ l, q.replaces x = false) (hroom : l.length < 8) :
    returnQueue q l = placeAhead q l := by
  rw [returnQueue, if_neg (by simpa using h), if_pos hroom]

/-- R27: a full queue takes it as a notice offered anew. -/
theorem returnQueue_of_full {q : Queued} {l : List Queued} (h : ∀ x ∈ l, q.replaces x = false) (hfull : 8 ≤ l.length) :
    returnQueue q l = offerFull q l := by
  rw [returnQueue, if_neg (by simpa using h), if_neg (by omega)]

/-- Settles O5: each command by its branch, and the returned frame by the three ways of R27. -/
theorem framesLeaveAndReturn : Obligations.FramesLeaveAndReturn := by
  intro n w hsettled
  refine ⟨fun hline => ?_, fun q qs hqueue hfree hstate => ?_, fun hstate => ?_, fun q hsending hline => ?_⟩
  · refine State.act_eq (f := Node.lineFree) ?_
    rw [Node.lineFree, if_pos hline, Node.conclude_onLine _ hsettled]
    rfl
  · have hsends : n.pres.state.sends = true := by rcases hstate with h | h | h <;> simp [h, NodeState.sends]
    have hstarts : n.frameStart = n.onLine fun l => { l with state := .sending, queue := qs, sending := some q } := by
      simp [Node.frameStart, hqueue, hsends, hfree]
    refine State.act_eq (f := Node.frameStart) ?_
    rw [hstarts, Node.conclude_onLine _ hsettled]
    rfl
  · have hsilent : ¬n.pres.state.sends = true := by rcases hstate with h | h | h | h <;> simp [h, NodeState.sends]
    have hstands : n.frameStart = n := by
      unfold Node.frameStart
      split
      · rw [if_neg fun h => hsilent h.1]
      · rfl
    refine State.act_eq (f := Node.frameStart) ?_
    rw [hstands, Node.conclude_self hsettled]
  · have hlost : n.arbitrationLost
        = n.onLine fun l => { l with state := .busy, sending := none, queue := returnQueue q l.queue } := by
      simp [Node.arbitrationLost, hline, hsending]
    refine ⟨n.arbitrationLost, ?_, by rw [hlost]; rfl, fun hnewer => ?_, fun hnone hroom => ?_, fun hnone hfull x htail => ?_⟩
    · refine State.act_eq (f := Node.arbitrationLost) ?_
      rw [hlost, Node.conclude_onLine _ hsettled]
    · rw [hlost]
      exact returnQueue_of_newer hnewer
    · rw [hlost]
      exact (returnQueue_of_room hnone hroom).trans (placeAhead_eq q _)
    · have hoffered : n.arbitrationLost.line.queue = if x.priority < q.priority then placeAfter q n.line.queue.dropLast
          else n.line.queue := by
        rw [hlost]
        exact (returnQueue_of_full hnone hfull).trans (by rw [offerFull, htail])
      constructor
      · intro hlower
        rw [hoffered, if_pos hlower, placeAfter_eq]
      · intro hhigher
        rw [hoffered, if_neg (by omega)]

/-! ### RECEIVE_ERROR and SILENT_DISCARD -/

/-- An uncertain view at one of the causes of R124 that is no power-on or rejoin. -/
theorem Node.uncertain_eq (n : Node) :
    n.uncertain false = { n with rail := { n.rail with
      certain := false, heardSince := [], held := none, heldTimer := none
      certainTimer := n.pres.plan.map fun p => n.mon.now + p.lifetimeCount * p.presencePeriod } } := by
  cases h : n.pres.plan <;>
    simp [Node.uncertain, Node.endOffer, Node.onRail, h, Node.after, Plan.lifetime]

/-- Settles O8: the verdict on the frame decides, and the step ends as it is. -/
theorem receiveErrorAndSilentDiscard : Obligations.ReceiveErrorAndSilentDiscard := by
  intro n w f hsettled hreceives
  have hbusy : n.lineBusy.conclude n = n.lineBusy := Node.conclude_onLine _ hsettled
  refine ⟨fun herror hlive => ?_, fun herror hlive => ?_, fun hsilent => ?_, fun k src hheard hsrc => ⟨fun hnone => ?_, fun hlive hsome => ?_⟩⟩
  · refine State.act_eq (f := fun n => n.receiveError f) ?_
    rw [Node.receiveError, if_pos ⟨hreceives, herror⟩, if_pos hlive, Node.conclude_of_mark (m := n.lineBusy.uncertain false) (before := n) hsettled rfl]
    exact n.lineBusy.uncertain_eq
  · refine State.act_eq (f := fun n => n.receiveError f) ?_
    rw [Node.receiveError, if_pos ⟨hreceives, herror⟩, if_neg (by simp [hlive]), hbusy]
    rfl
  · refine State.act_eq (f := fun n => n.silentDiscard f) ?_
    rw [Node.silentDiscard, if_pos hreceives, hsilent, hbusy]
    rfl
  · refine State.act_eq (f := fun n => n.silentDiscard f) ?_
    rw [Node.silentDiscard, if_pos hreceives, hheard]
    simp only [hsrc, hnone, and_false, if_false, Option.isSome_none, Bool.false_eq_true, hbusy]
    rfl
  · refine State.act_eq (f := fun n => n.silentDiscard f) ?_
    rw [Node.silentDiscard, if_pos hreceives, hheard]
    simp only [hsrc, hsome, hlive, and_false, and_self, if_false, if_true, Node.conclude_self hsettled]

end Sys2Proof.Machine
end

section
/-! PROOFS. READOUT and FAULT of a peer (R52, R139, R159): what a heard notice does before the block that owns its kind takes it. -/

namespace Sys2Proof.Machine

/-- A rebuilt PRESENCE at the end of a step changes the transmit queue alone. -/
theorem Node.withPresence_eq (m before : Node) :
    m.withPresence before = { m with line := { m.line with queue := (m.withPresence before).line.queue } } := by
  unfold Node.withPresence
  split
  · rfl
  · exact m.rebuildPresence_eq

/-- R139: the party silence timer restarts at a notice of the other party, while it runs. -/
theorem Node.railNote_eq (n : Node) (src : Nat) :
    n.railNote src = { n with rail := { n.rail with silenceTimer :=
      match n.rail.own, n.pres.plan with
      | some o, some p => if o.other = src ∧ n.rail.silenceTimer.isSome = true then some (n.mon.now + 2 * p.presencePeriod)
          else n.rail.silenceTimer
      | _, _ => n.rail.silenceTimer } } := by
  unfold Node.railNote
  cases n.rail.own <;> cases n.pres.plan
  case some.some =>
    dsimp only
    split <;> rfl
  all_goals rfl

/-- R159: a notice of the partner of a JOINED or LEAVING couple changes the silence flag and its timer alone. -/
theorem Node.pairNote_eq (n : Node) (src : Nat) : n.pairNote src = { n with pair := (n.pairNote src).pair } := by
  unfold Node.pairNote
  split
  · unfold Node.startSilence
    split <;> rfl
  · rfl

theorem Node.pairNote_of_other {n : Node} {src : Nat}
    (h : ¬((n.pair.state = .joined ∨ n.pair.state = .leaving) ∧ n.pair.partner = some src)) : n.pairNote src = n := if_neg h

theorem Node.pairNote_of_partner {n : Node} {src : Nat} {p : Plan} (hstate : n.pair.state = .joined ∨ n.pair.state = .leaving)
    (hpartner : n.pair.partner = some src) (hplan : n.pres.plan = some p) :
    (n.pairNote src).pair = { n.pair with
      silent := false, silenceTimer := some (n.mon.now + p.lifetimeCount * p.presencePeriod) } := by
  rw [Node.pairNote, if_pos ⟨hstate, hpartner⟩]
  simp [Node.startSilence, Node.onPair, hplan, Node.after, Plan.lifetime]

/-- R52: a notice of a peer changes the age of its entry alone. -/
theorem Node.peerTouch_eq (n : Node) (src : Nat) :
    n.peerTouch src = { n with peers := { n.peers with entries := (n.peerTouch src).peers.entries } } := by
  unfold Node.peerTouch
  split <;> rfl

/-- Storing an entry leaves what is found under another address. -/
theorem find_insertPeer_other {e : Peer} {a : Nat} (h : a ≠ e.address) (l : List Peer) :
    (insertPeer e l).find? (fun x => x.address == a) = l.find? fun x => x.address == a := by
  have he : (e.address == a) = false := by simpa using h.symm
  induction l with
  | nil => simp [insertPeer, he]
  | cons y ys ih =>
    simp only [insertPeer]
    split
    · simp only [List.find?_cons, ih]
    · split
      next hy => simp [hy, he]
      next => simp [List.find?_cons, he]

theorem Node.peerTouch_peer (n : Node) (src a : Nat) :
    (n.peerTouch src).peer a = if a = src then (n.peer a).map fun e => { e with heardAt := n.mon.now } else n.peer a := by
  unfold Node.peerTouch
  split
  next e hsrc =>
    have he : e.address = src := by simpa using List.find?_some hsrc
    subst he
    split
    next h =>
      subst h
      rw [hsrc]
      exact find_insertPeer { e with heardAt := n.mon.now } n.peers.entries
    next h => exact find_insertPeer_other (e := { e with heardAt := n.mon.now }) h _
  next hsrc =>
    split
    next h => rw [h, hsrc]; rfl
    next => rfl

/-- Settles O17: what the notice does first, and no block that owns its kind. -/
theorem readoutAndFaultRestartAges : Obligations.ReadoutAndFaultRestartAges := by
  intro n w h c hsettled hc
  have hexec : exec c ⟨n, w⟩ = .next ⟨(n.heardFrom h.source).conclude n, w⟩ := by
    rcases hc with ⟨k, ⟨hreceives, hlive, hsrc, hdecode⟩, rfl⟩ | ⟨k, x, ⟨hreceives, hlive, hsrc, hdecode⟩, rfl⟩
    all_goals
      refine State.act_eq (f := fun n => n.hear _ h) ?_
      rw [Node.hear, if_pos hreceives, if_pos hlive, if_neg hsrc, hdecode]
      exact congrArg (Node.conclude · n) (if_neg hsrc)
  have hrail := n.lineBusy.railNote_eq h.source
  have hnoted := (n.lineBusy.railNote h.source).pairNote_eq h.source
  have hpair : (n.lineBusy.railNote h.source).pair = n.pair := by rw [hrail]; rfl
  have hpres : (n.lineBusy.railNote h.source).pres = n.pres := by rw [hrail]; rfl
  have hmon : (n.lineBusy.railNote h.source).mon = n.mon := by rw [hrail]; rfl
  have hpeers : ((n.lineBusy.railNote h.source).pairNote h.source).peers = n.peers := by rw [hnoted, hrail]; rfl
  have hnow : ((n.lineBusy.railNote h.source).pairNote h.source).mon = n.mon := by rw [hnoted, hrail]; rfl
  have htouched := ((n.lineBusy.railNote h.source).pairNote h.source).peerTouch_eq h.source
  have hend : (n.heardFrom h.source).Settled := by
    rw [Node.heardFrom, htouched, hnoted, hrail]
    exact hsettled
  have hqueue := (n.heardFrom h.source).withPresence_eq n
  refine ⟨(n.heardFrom h.source).withPresence n, by rw [hexec, Node.conclude_of_settled n hend], fun a => ?_, ?_⟩
  · have hage := ((n.lineBusy.railNote h.source).pairNote h.source).peerTouch_peer h.source a
    simp only [Node.peer, hpeers, hnow] at hage
    simp only [Node.peer]
    rw [hqueue]
    exact hage
  refine ⟨?_, ?_, ?_, ?_, ?_, fun hother => ?_, fun hstate hpartner p hplan => ?_, ?_⟩
  · rw [hqueue, Node.heardFrom, htouched, hpeers]
  · rw [hqueue, Node.heardFrom, htouched, hnoted, hrail]; rfl
  · rw [hqueue, Node.heardFrom, htouched, hnoted, hrail]; rfl
  · rw [hqueue, Node.heardFrom, htouched, hnoted, hrail]; rfl
  · rw [hqueue, Node.heardFrom, htouched, hnoted, hrail]; rfl
  · have hstands : n.heardFrom h.source = (n.lineBusy.railNote h.source).peerTouch h.source := by
      rw [Node.heardFrom, Node.pairNote_of_other (by rwa [hpair])]
    have hmark : (n.heardFrom h.source).mark = n.mark := by
      rw [hstands, Node.peerTouch_eq, hrail]; rfl
    rw [Node.withPresence, if_pos hmark, hstands, Node.peerTouch_eq, hrail]
    exact ⟨rfl, rfl⟩
  · have hsilence := Node.pairNote_of_partner (n := n.lineBusy.railNote h.source) (by rwa [hpair]) (by rwa [hpair])
      (by rwa [hpres])
    rw [hpair, hmon] at hsilence
    rw [hqueue, Node.heardFrom, htouched]
    exact hsilence
  · rw [hqueue, Node.heardFrom, htouched, hnoted, hrail]
    exact ⟨rfl, rfl, rfl, rfl, rfl, rfl⟩

end Sys2Proof.Machine
end

section
/-! PROOFS. QUIET after the eighth abandoned frame (R22, R28, R44), and the address clash (R25, R28, R45, R54, R91, R144): what the
blocks do at an entry into a node state in which none of them starts work. -/

namespace Sys2Proof.Machine

/-! ### Grade, Pairing and Peer Table blocks of a node that is not ACTIVE -/

/-- R93: the regime starts in ACTIVE alone. -/
theorem Node.startRegime_of_inactive {n : Node} (h : n.active = false) : n.startRegime = n := by
  simp [Node.startRegime, Node.mayStart, h]

/-- R146: a node that is not ACTIVE is not eligible. -/
theorem Node.eligible_of_inactive {n : Node} (h : n.active = false) : n.eligible = false := by
  simp [Node.eligible, h]

/-- A node that is not ACTIVE goes to UNPAIRED without the Grade Engine (R93, R107). -/
theorem Node.setPair_unpaired_of_inactive {n : Node} (h : n.active = false) :
    n.setPair .unpaired = { n with pair := (n.setPair .unpaired).pair } := by
  have hreported (f : Pairing → Pairing) (hf : (f n.pair).state = .unpaired) :
      (n.onPair f).pairReported = { n with pair := (n.onPair f).pairReported.pair } := by
    rw [Node.pairReported, if_pos (.inl hf), Node.startRegime_of_inactive (n := n.onPair f) h]
    rfl
  unfold Node.setPair
  split
  · rfl
  · exact hreported _ rfl

/-- R56, R148: without ACTIVE the candidate list is empty, and there is no target to propose to. -/
theorem Node.rederive_of_inactive {n : Node} (h : n.active = false) :
    n.rederive = { n with
      peers := { n.peers with cands := n.rederive.peers.cands }, pair := { n.pair with target := n.rederive.pair.target } } := by
  have hnone : n.derive = [] := by
    unfold Node.derive
    split
    · rw [if_neg (by simp [h])]
    · rfl
  unfold Node.rederive
  split
  · rfl
  · rw [hnone]
    dsimp only
    split <;> rfl

/-- R146: a node that is not ACTIVE seeks no more, and no other block hears of it. -/
theorem Node.testEligible_of_inactive {n : Node} (h : n.active = false) :
    n.testEligible = { n with pair := n.testEligible.pair }
      ∧ (n.live = true → n.pair.state = .seeking ∨ n.pair.state = .proposing → n.testEligible.pair.state = .unpaired) := by
  have hleft (f : Pairing → Pairing) : ((n.onPair f).setPair .unpaired) = { n with pair := ((n.onPair f).setPair .unpaired).pair } := by
    rw [Node.setPair_unpaired_of_inactive (n := n.onPair f) h]
    rfl
  unfold Node.testEligible
  rw [Node.eligible_of_inactive h]
  split
  case isFalse hlive => exact ⟨rfl, fun hn => absurd hn hlive⟩
  case isTrue =>
    split
    case h_2 => exact ⟨hleft id, fun _ _ => Node.setPair_state _ _⟩
    case h_3 => exact ⟨hleft _, fun _ _ => Node.setPair_state _ _⟩
    all_goals
      next hstate => exact ⟨rfl, fun _ h => by simp [hstate] at h⟩

/-! ### FRAME_ABANDONED -/

/-- A code that is not listed, with room in the list, is entered last (R178). -/
theorem takeReport_of_room {n : Node} {code : FaultCode} {detail : Option BreachKind} (h : n.faultRoom code) :
    (takeReport code detail n.seconds n.serv.faults).1 = n.serv.faults ++ [n.newFault code detail] := by
  have hnone : n.serv.faults.find? (fun e => e.code == code) = none := List.find?_eq_none.2 fun e he => by simpa using h.1 e he
  simp only [takeReport, hnone, h.2, if_true]
  rfl

/-- Settles O6: the count, and at the eighth abandonment the entry into QUIET. -/
theorem frameAbandonedCountsToQuiet : Obligations.FrameAbandonedCountsToQuiet := by
  intro n w q hsettled hline hsending
  have habandoned : n.frameAbandoned =
      (let n1 : Node := n.onLine fun l => { l with state := .busy, sending := none, abandons := min 8 (l.abandons + 1) }
       if n1.line.abandons = 8 ∧ n1.pres.state.sends = true then n1.enterQuiet else n1) := by
    simp [Node.frameAbandoned, hline, hsending]
  refine ⟨fun hfew => ?_, fun heighth hstate => ?_⟩
  · refine State.act_eq (f := Node.frameAbandoned) ?_
    have hcount : min 8 (n.line.abandons + 1) = n.line.abandons + 1 := by omega
    have hbelow : n.line.abandons + 1 ≠ 8 := by omega
    simp only [habandoned, Node.onLine_line, hcount, hbelow, false_and, if_false, Node.conclude_onLine _ hsettled]
    simp only [Node.onLine, hcount]
  · have hsends : n.pres.state.sends = true := by rcases hstate with h | h | h <;> simp [h, NodeState.sends]
    let n1 : Node := n.onLine fun l => { l with state := .busy, sending := none, abandons := min 8 (l.abandons + 1) }
    let quiet : Node := ((n1.setState .quiet).emptyQueue).onPres fun q => { q with quietTimer := n1.after 2000 }
    let reported : Node := (quiet.reportFault .lineQuiet).onServ fun s =>
      { s with quietFaultDue := s.quietFaultDue || (takeReport .lineQuiet none quiet.seconds quiet.serv.faults).2.isSome }
    let left : Node := reported.gradeSilent.endOffer
    have hquiet : n.frameAbandoned = left.rederive.testEligible := by
      rw [habandoned]
      exact if_pos ⟨by simp [heighth], hsends⟩
    have hleft : quiet.Works left :=
      (Node.Works.start.reportFault.apart (m' := reported) rfl rfl rfl rfl).onGrade.onRail
    have hinactive : left.active = false := by simp only [Node.active, hleft.pres]; rfl
    have hrederive := Node.rederive_of_inactive hinactive
    have hpres : left.rederive.pres = left.pres := by rw [hrederive]
    obtain ⟨htest, hpair⟩ := Node.testEligible_of_inactive (n := left.rederive) (by rw [Node.active, hpres]; exact hinactive)
    have hreport := quiet.reportFault_eq .lineQuiet none
    have hblocks : left.mon = n.mon ∧ left.duty = n.duty ∧ left.pos = n.pos ∧ left.pair = n.pair ∧ left.peers = n.peers
        ∧ left.rail = { n.rail with held := none, heldTimer := none }
        ∧ left.serv.faults = (takeReport .lineQuiet none n.seconds n.serv.faults).1 := by
      simp only [left, reported, Node.gradeSilent, Node.endOffer, Node.onGrade, Node.onRail, Node.onServ]
      rw [hreport]
      exact ⟨rfl, rfl, rfl, rfl, rfl, rfl, rfl⟩
    obtain ⟨hmon, hduty, hpos, hpairSame, hpeers, hrail, hfaults⟩ := hblocks
    have hend : left.rederive.testEligible.Settled := by
      rw [htest, hrederive, Node.Settled, hduty, hrail]
      exact hsettled
    have hqueue := left.rederive.testEligible.withPresence_eq n
    have hworks : quiet.Works (left.rederive.testEligible.withPresence n) := by
      rw [← Node.conclude_of_settled n hend]
      exact hleft.rederive.testEligible.conclude
    refine ⟨left.rederive.testEligible.withPresence n, State.act_eq (f := Node.frameAbandoned) ?_, hworks.pres, ?_, fun hroom => ?_,
      ?_, fun hstate => ?_, ?_, ?_, ?_, ?_⟩
    · rw [hquiet, Node.conclude_of_settled n hend]
    · rw [hworks.line, hworks.silent rfl rfl]
      simp [quiet, n1, Node.onPres, Node.emptyQueue, Node.setState, Node.onLine, heighth]
    · rw [hqueue, htest, hrederive, hfaults]
      exact takeReport_of_room hroom
    · rw [hqueue, htest, hrederive, hrail]
    · rw [hqueue]
      refine hpair ?_ ?_
      · rw [Node.live, hpres, hleft.pres]
        rfl
      · rw [hrederive, hpairSame]
        exact hstate
    · rw [hqueue, htest, hrederive, hmon]
    · rw [hqueue, htest, hrederive, hduty]
    · rw [hqueue, htest, hrederive, hpos]
    · rw [hqueue, htest, hrederive, hpeers]

/-! ### Levels cleared to zero (R91) -/

theorem Duty.upd_kept (d : Duty) (i j : LevelId) (f : Level → Level) : (d.upd i f).kept j = d.kept j := d.put_kept i j _

theorem Duty.finish_kept (d : Duty) (i j : LevelId) (c : EndCause) : (d.finish i c).kept j = d.kept j := by
  cases i <;> cases j <;> rfl

/-- R89: a cleared level is over, keeps no request, and every other level stands, as the converter does. -/
theorem Duty.clear_spec (d : Duty) (i : LevelId) :
    ((d.clear i).get i).over ∧ (∀ j, j ≠ i → (d.clear i).get j = d.get j) ∧ (d.clear i).conv = d.conv
      ∧ ∀ j, (d.clear i).kept j = if j = i then none else d.kept j := by
  have hkept (j : LevelId) : (d.keep i none).kept j = if j = i then none else d.kept j := by
    cases i <;> cases j <;> rfl
  unfold Duty.clear
  extract_lets d1
  have hget (j : LevelId) : d1.get j = d.get j := d.get_keep i j none
  split
  next h => exact ⟨.inl h, fun j _ => hget j, d.keep_conv i none, hkept⟩
  next =>
    split
    · exact ⟨.inr (by rw [Duty.get_upd]), fun j hj => by rw [Duty.get_upd_other _ _ hj, hget],
        by rw [Duty.upd_conv]; exact d.keep_conv i none, fun j => by rw [Duty.upd_kept]; exact hkept j⟩
    · exact ⟨.inl (by rw [Duty.get_put]; rfl), fun j hj => by rw [Duty.get_put_other _ _ hj, hget],
        by rw [Duty.put_conv]; exact d.keep_conv i none, fun j => by rw [Duty.put_kept]; exact hkept j⟩

/-- The levels that an entry into STRAPFAULT or CLASHED clears (R91). -/
def stopLevels : List LevelId := [.join, .serve, .test, .pulse]

/-- R91: after the clearing PROTECT stands, every other level is over, and no request is kept. -/
theorem Duty.stopLevels_spec (d : Duty) :
    (stopLevels.foldl Duty.clear d).protect = d.protect
      ∧ (∀ i, i ≠ .protect → ((stopLevels.foldl Duty.clear d).get i).over)
      ∧ ∀ i, (stopLevels.foldl Duty.clear d).kept i = none := by
  have hget (d : Duty) (i j : LevelId) (h : j ≠ i) : (d.clear i).get j = d.get j := (d.clear_spec i).2.1 j h
  have hover (d : Duty) (i j : LevelId) (h : (d.get j).over) : ((d.clear i).get j).over := by
    by_cases hj : j = i
    · exact hj ▸ (d.clear_spec j).1
    · rwa [hget d i j hj]
  have hkept (d : Duty) (i j : LevelId) : (d.clear i).kept j = if j = i then none else d.kept j := (d.clear_spec i).2.2.2 j
  simp only [stopLevels, List.foldl_cons, List.foldl_nil]
  refine ⟨?_, fun i hi => ?_, fun i => ?_⟩
  · change Duty.get _ .protect = d.get .protect
    simp only [hget _ _ .protect, ne_eq, reduceCtorEq, not_false_eq_true]
  · cases i with
    | protect => exact absurd rfl hi
    | join => exact hover _ _ _ (hover _ _ _ (hover _ _ _ (d.clear_spec .join).1))
    | serve => exact hover _ _ _ (hover _ _ _ (Duty.clear_spec _ .serve).1)
    | test => exact hover _ _ _ (Duty.clear_spec _ .test).1
    | pulse => exact (Duty.clear_spec _ .pulse).1
  · simp only [hkept]
    cases i <;> rfl

/-- The levels but PROTECT are over, PROTECT drives no current, and the setpoint is 0: what the clearing of R91 leaves. -/
structure Duty.AtZero (d : Duty) : Prop where
  ended : ∀ i, i ≠ .protect → (d.get i).over
  off : d.protect.dir = .off
  zero : d.conv.setpoint = 0

theorem Level.over.not_asks {l : Level} (h : l.over) : l.state.asks = false := by
  rcases h with h | h <;> rw [h] <;> rfl

/-- Ending a context keeps the levels at zero. -/
theorem Duty.AtZero.finish {d : Duty} (h : d.AtZero) (i : LevelId) (c : EndCause) : (d.finish i c).AtZero := by
  obtain ⟨hempty, hothers, hconv⟩ := d.finish_spec i c
  refine ⟨fun j hj => ?_, ?_, by rw [hconv]; exact h.zero⟩
  · by_cases hji : j = i
    · exact .inl (by rw [hji, hempty]; rfl)
    · rw [hothers j hji]
      exact h.ended j hj
  · change ((d.finish i c).get .protect).dir = .off
    by_cases hi : LevelId.protect = i
    · rw [hi, hempty]; rfl
    · rw [hothers _ hi]
      exact h.off

/-- The hand-over leaves the setpoint, or takes that of the READY owner (R78). -/
theorem Duty.handOver_setpoint (d : Duty) :
    d.handOver.conv.setpoint = d.conv.setpoint ∨ ∃ i, d.owner = some i ∧ d.handOver.conv.setpoint = (d.get i).signed := by
  have hown {e : Duty} {i : LevelId} (hsame : ∀ j, e.get j = d.get j) (hsp : e.conv.setpoint = d.conv.setpoint) (ho : d.owner = some i) :
      let r := if (e.get i).state = .ready then (e.upd i Level.start).setpoint (e.get i).signed else e
      r.conv.setpoint = d.conv.setpoint ∨ ∃ i, d.owner = some i ∧ r.conv.setpoint = (d.get i).signed := by
    dsimp only
    split
    · exact .inr ⟨i, ho, by rw [hsame]; rfl⟩
    · exact .inl hsp
  unfold Duty.handOver
  extract_lets conv d1
  have hget (j : LevelId) : d1.get j = d.get j := by
    unfold d1
    split
    · rfl
    · cases j <;> rfl
  have hsetpoint : d1.conv.setpoint = d.conv.setpoint := by
    unfold d1
    split <;> rfl
  have hholder : d1.conv.holder = d.owner := by
    unfold d1
    split
    next h => exact h.symm
    next => rfl
  split
  next i hi => exact hown hget hsetpoint (hholder.symm.trans hi)
  next => exact .inl hsetpoint

/-- The hand-over keeps the levels at zero: only PROTECT can ask. -/
theorem Duty.AtZero.handOver {d : Duty} (h : d.AtZero) : d.handOver.AtZero := by
  refine ⟨fun i hi => ?_, ?_, ?_⟩
  · rw [Duty.handOver_get, if_neg fun hready => by rcases h.ended i hi with ho | ho <;> simp [ho] at hready]
    exact h.ended i hi
  · change (d.handOver.get .protect).dir = .off
    rw [Duty.handOver_get]
    split <;> exact h.off
  · obtain hsame | ⟨i, howner, htaken⟩ := d.handOver_setpoint
    · exact hsame.trans h.zero
    · obtain rfl : i = .protect := by
        by_contra hi
        have hasks := Duty.owner_asks howner
        rw [(h.ended i hi).not_asks] at hasks
        cases hasks
      rw [htaken]
      change d.protect.signed = 0
      rw [Level.signed, h.off]

/-- A ramp-down while no request is kept changes the Duty Level Controller alone, and keeps its levels at zero (R78). -/
theorem Node.rampDown_atZero {n : Node} (hkept : ∀ i, n.duty.kept i = none) (h : n.duty.AtZero) :
    n.rampDown = { n with duty := n.rampDown.duty } ∧ n.rampDown.duty.AtZero := by
  unfold Node.rampDown
  extract_lets n1
  have h1 : n1 = { n with duty := n1.duty } ∧ n1.duty.AtZero := by
    unfold n1
    split
    next i _ =>
      split
      · rw [Node.takeKept]
        simp only [Node.onDuty_duty, Duty.finish_kept, hkept i]
        exact ⟨rfl, h.finish i _⟩
      · exact ⟨rfl, h⟩
    next => exact ⟨rfl, h⟩
  obtain ⟨hnode, hzero⟩ := h1
  refine ⟨?_, hzero.handOver⟩
  rw [hnode]
  rfl

/-- The same for the setpoint's going to 0 (R78). -/
theorem Node.dropSetpoint_atZero {n : Node} (hkept : ∀ i, n.duty.kept i = none) (h : (n.duty.setpoint 0).AtZero) :
    n.dropSetpoint = { n with duty := n.dropSetpoint.duty } ∧ n.dropSetpoint.duty.AtZero := by
  have hkept' : ∀ i, (n.duty.setpoint 0).kept i = none := fun i => by
    rw [← hkept i]
    cases i <;> rfl
  unfold Node.dropSetpoint Node.rampIfIdle
  split
  · obtain ⟨hnode, hzero⟩ := Node.rampDown_atZero (n := n.onDuty fun d => d.setpoint 0) hkept' h
    exact ⟨hnode, hzero⟩
  · exact ⟨rfl, h⟩

theorem Node.clearLevelsToZero_eq {n : Node} {is : List LevelId} {d : Duty} (h : is.foldl Duty.clear n.duty = d) :
    n.clearLevelsToZero is = ({ n with duty := d } : Node).dropSetpoint := by
  subst h
  rfl

/-- R91: an entry into STRAPFAULT or CLASHED changes the levels and the converter alone, and holds them at zero. -/
theorem Node.clearLevelsToZero_stop {n : Node} (hoff : n.ProtectLaw) :
    n.clearLevelsToZero stopLevels = { n with duty := (n.clearLevelsToZero stopLevels).duty }
      ∧ (n.clearLevelsToZero stopLevels).duty.AtZero := by
  obtain ⟨hprotect, hover, hkept⟩ := n.duty.stopLevels_spec
  obtain ⟨cleared, hcleared⟩ : ∃ d, stopLevels.foldl Duty.clear n.duty = d := ⟨_, rfl⟩
  rw [hcleared] at hprotect hover hkept
  rw [Node.clearLevelsToZero_eq hcleared]
  exact Node.dropSetpoint_atZero (n := { n with duty := cleared }) hkept
    ⟨fun i hi => (cleared.get_setpoint 0 i).symm ▸ hover i hi, (congrArg Level.dir hprotect).trans hoff, rfl⟩

/-! ### Address clash -/

/-- In STRAPFAULT and CLASHED, the Rail Allocator's work dropped, no block takes a completion (R45, R101, R136). -/
theorem Node.takeCompletions_of_stopped {n : Node} (hlive : n.live = false) (hown : n.rail.own = none)
    (htest : n.rail.testOrdinary = none) : n.takeCompletions = n.onDuty fun d => { d with reports := [] } := by
  have hnone (exchange : Option Nat) : n.rail.awaitsTest exchange = false := by simp [Rail.awaitsTest, Rail.runsTest, hown, htest]
  have htake (c : Completion) : n.takeCompletion c = n := by
    unfold Node.takeCompletion
    split
    case h_1 => simp [Node.pulseDone, hlive]
    case h_2 | h_3 => simp [Node.testStopped, hnone]
    case h_4 => simp only [Node.onRail, hnone, Bool.or_false]
    all_goals rfl
  have hfold (l : List Completion) : l.foldl Node.takeCompletion n = n := by
    induction l with
    | nil => rfl
    | cons c cs ih => rw [List.foldl_cons, htake, ih]
  rw [Node.takeCompletions, hfold, Node.settleTest, htest]

/-- R25: a frame of the node's own address, whatever command brings it. -/
theorem Node.hear_clash {n : Node} {h : Heard} (k : Kind) (hreceives : n.receives = true) (hlive : n.live = true)
    (hsrc : h.source = n.address) : n.hear k h = n.lineBusy.clash := by
  rw [Node.hear, if_pos hreceives, if_pos hlive, if_pos hsrc]

theorem Node.hearDirective_clash {n : Node} {h : Heard} (kinds : Nat → Bool) (hreceives : n.receives = true)
    (hlive : n.live = true) (hsrc : h.source = n.address) : n.hearDirective kinds h = n.lineBusy.clash := by
  rw [Node.hearDirective, if_pos ⟨hlive, hsrc⟩, Node.hear_clash _ hreceives hlive hsrc]

/-- The node as it enters CLASHED, before any block hears of it: the state, an empty queue and stopped ages (R25, R28, R54). -/
def Node.clashing (n : Node) : Node := ((n.lineBusy.setState .clashed).emptyQueue).stopAges

/-- What the blocks have made of an address clash before the candidate list is derived anew. -/
structure Node.ClashLeft (n left : Node) : Prop where
  works : n.clashing.Works left
  mon : left.mon = n.mon
  pos : left.pos = n.pos
  pair : left.pair = n.pair
  peers : left.peers = { n.peers with stopped := some n.mon.now }
  rail : left.rail = n.rail.dropAll
  faults : left.serv.faults = (takeReport .addressClash none n.seconds n.serv.faults).1
  duty : left.duty.AtZero

theorem Node.clash_spec {n : Node} (hoff : n.ProtectLaw) : ∃ left, n.lineBusy.clash = left.rederive ∧ n.ClashLeft left := by
  obtain ⟨reported, hreported⟩ : ∃ m, n.clashing.reportFault .addressClash = m := ⟨_, rfl⟩
  obtain ⟨zero, hzero⟩ : ∃ m, reported.clearLevelsToZero stopLevels = m := ⟨_, rfl⟩
  have hreport := n.clashing.reportFault_eq .addressClash none
  obtain ⟨hnode, hduty⟩ := Node.clearLevelsToZero_stop (n := reported) (by rw [← hreported, hreport]; exact hoff)
  have hworks : n.clashing.Works zero := by
    rw [← hzero, ← hreported]
    exact Node.Works.start.reportFault.clearLevelsToZero
  rw [hzero] at hnode hduty
  have hblocks : zero = { n.clashing with
      serv := { n.serv with faults := (takeReport .addressClash none n.seconds n.serv.faults).1 }, line := reported.line
      duty := zero.duty } := by
    rw [hnode, ← hreported, hreport]
    rfl
  refine ⟨zero.railStop.gradeSilent, ?_, hworks.onRail.onGrade, ?_, ?_, ?_, ?_, ?_, ?_, hduty⟩
  · rw [← hzero, ← hreported]
    rfl
  all_goals
    rw [hblocks]
    rfl

/-- Settles O9: the entry into CLASHED, block by block, and a step's end at which no block takes anything. -/
theorem addressClashStopsNode : Obligations.AddressClashStopsNode := by
  intro n w h c hsettled hoff hreceives hlive hsrc hc
  have hexec : exec c ⟨n, w⟩ = .next ⟨n.lineBusy.clash.conclude n, w⟩ := by
    have hheard (k : Kind) : State.act ⟨n, w⟩ (fun n => n.hear k h) = .next ⟨n.lineBusy.clash.conclude n, w⟩ :=
      State.act_eq (congrArg (Node.conclude · n) (Node.hear_clash k hreceives hlive hsrc))
    have hdirected (kinds : Nat → Bool) :
        State.act ⟨n, w⟩ (fun n => n.hearDirective kinds h) = .next ⟨n.lineBusy.clash.conclude n, w⟩ :=
      State.act_eq (congrArg (Node.conclude · n) (Node.hearDirective_clash kinds hreceives hlive hsrc))
    obtain hc | ⟨f, k, hverdict, rfl⟩ := hc
    · simp only [List.mem_cons, List.not_mem_nil, or_false] at hc
      rcases hc with rfl | rfl | rfl | rfl | rfl | rfl | rfl | rfl | rfl | rfl | rfl | rfl | rfl | rfl | rfl | rfl | rfl | rfl | hc
      iterate 18 exact hheard _
      rcases hc with rfl | rfl | rfl | rfl | rfl | rfl
      all_goals exact hdirected _
    · refine State.act_eq (f := fun n => n.silentDiscard f) ?_
      rw [Node.silentDiscard, if_pos hreceives, hverdict]
      simp only [hlive, hsrc, and_self, if_true]
  obtain ⟨left, hclash, hleft⟩ := Node.clash_spec hoff
  have hrederive := Node.rederive_of_inactive (n := left) (by simp only [Node.active, hleft.works.pres]; rfl)
  have hpres : left.rederive.pres = n.clashing.pres := hleft.works.rederive.pres
  have htake := Node.takeCompletions_of_stopped (n := left.rederive) (by rw [Node.live, hpres]; rfl)
    (by rw [hrederive, hleft.rail]; rfl) (by rw [hrederive, hleft.rail]; rfl)
  have hqueue := left.rederive.takeCompletions.withPresence_eq n
  have hworks : n.clashing.Works (left.rederive.takeCompletions.withPresence n) := hleft.works.rederive.conclude
  refine ⟨left.rederive.takeCompletions.withPresence n, by rw [hexec, hclash]; rfl, hworks.pres, ?_, fun hroom => ?_, ?_⟩
  · rw [hworks.line, hworks.silent rfl rfl]
    rfl
  · rw [hqueue, htake, hrederive]
    exact hleft.faults.trans (takeReport_of_room hroom)
  · rw [hqueue, htake, hrederive, Node.onDuty]
    dsimp only
    rw [hleft.mon, hleft.pos, hleft.pair, hleft.peers, hleft.rail]
    have hended (i : LevelId) (hi : i ≠ .protect) : (left.duty.get i).over := hleft.duty.ended i hi
    exact ⟨hleft.duty.zero, hended .join (by simp), hended .serve (by simp), hended .test (by simp),
      hended .pulse (by simp), rfl, rfl, rfl, rfl, rfl, rfl, rfl, rfl, rfl, rfl, rfl, rfl, rfl⟩

end Sys2Proof.Machine
end

section
/-! PROOFS. The check sequence (R19, R23): a frame as a node sends it passes every check, and an inverted payload bit fails them. -/

namespace Sys2Proof.Machine

/-! ### The check register -/

/-- The check step feeds its polynomial back exactly where the bit differs from the register's first one. -/
theorem checkStep_lsb (r : BitVec 16) (b : Bool) : (checkStep r b).getLsbD 0 = (b != r.msb) := by
  unfold checkStep
  by_cases h : b = r.msb <;> simp [h]

/-- R19: different registers stay different under one bit. -/
theorem checkStep_injective (b : Bool) {r s : BitVec 16} (h : checkStep r b = checkStep s b) : r = s := by
  have hmsb : r.msb = s.msb := by
    have hlsb := checkStep_lsb r b
    rw [h, checkStep_lsb] at hlsb
    cases b <;> simpa using hlsb.symm
  have hshift : r <<< 1 = s <<< 1 := by
    unfold checkStep at h
    rw [← hmsb] at h
    split at h
    · exact h
    · exact BitVec.xor_left_inj _ |>.1 h
  refine BitVec.eq_of_getLsbD_eq fun i hi => ?_
  by_cases hlast : i = 15
  · subst hlast
    simpa [BitVec.msb_eq_getLsbD_last] using hmsb
  · have hbit := congrArg (fun x => x.getLsbD (i + 1)) hshift
    simp only [BitVec.getLsbD_shiftLeft, show i + 1 < 16 by omega] at hbit
    simpa using hbit

/-- R19: a different bit leads to a different register. -/
theorem checkStep_ne (r : BitVec 16) (b : Bool) : checkStep r (!b) ≠ checkStep r b := by
  intro h
  have hlsb := checkStep_lsb r (!b)
  rw [h, checkStep_lsb] at hlsb
  cases b <;> simp at hlsb

theorem foldl_checkStep_injective (bits : List Bool) {r s : BitVec 16} (h : bits.foldl checkStep r = bits.foldl checkStep s) :
    r = s := by
  induction bits generalizing r s with
  | nil => exact h
  | cons b bs ih => exact checkStep_injective b (ih h)

/-- R19: one inverted bit among the protected ones changes the check. -/
theorem checkOf_flip (pre post : List Bool) (b : Bool) : checkOf (pre ++ (!b) :: post) ≠ checkOf (pre ++ b :: post) := by
  intro h
  unfold checkOf at h
  rw [List.foldl_append, List.foldl_append, List.foldl_cons, List.foldl_cons] at h
  exact checkStep_ne _ b (foldl_checkStep_injective post h)

/-! ### Bits -/

/-- The bits of a number, most significant first: bit `j` is preceded by those above it and followed by those below. -/
theorem bitsOf_split {n j : Nat} (hj : j < n) (v : Nat) :
    bitsOf n v = bitsOf (n - 1 - j) (v / 2 ^ (j + 1)) ++ v.testBit j :: bitsOf j v := by
  induction n with
  | zero => omega
  | succ n ih =>
    have hbit (k : Nat) : (v / 2 ^ k % 2 == 1) = v.testBit k := by
      rw [Nat.testBit_eq_decide_div_mod_eq]
      rfl
    rw [bitsOf, hbit]
    by_cases hlast : j = n
    · subst hlast
      simp [bitsOf]
    · obtain ⟨k, hk⟩ : ∃ k, n - j = k + 1 := ⟨n - j - 1, by omega⟩
      have hn : n = j + 1 + k := by omega
      rw [ih (by omega), show n + 1 - 1 - j = k + 1 by omega, show n - 1 - j = k by omega, bitsOf, Nat.div_div_eq_div_mul,
        ← pow_add, ← hn, hbit]
      rfl

/-- The bits written depend on the bits of the number below their count. -/
theorem bitsOf_congr {n v w : Nat} (h : ∀ k, k < n → v.testBit k = w.testBit k) : bitsOf n v = bitsOf n w := by
  induction n with
  | zero => rfl
  | succ n ih =>
    have hbit := h n (by omega)
    rw [Nat.testBit_eq_decide_div_mod_eq, Nat.testBit_eq_decide_div_mod_eq] at hbit
    rw [bitsOf, bitsOf, ih fun k hk => h k (by omega)]
    exact congrArg (· :: bitsOf n w) hbit

/-- A number with bit `j` inverted has the same bits but for that one. -/
theorem bitsOf_flip {n j : Nat} (hj : j < n) (v : Nat) :
    ∃ pre post, bitsOf n v = pre ++ v.testBit j :: post ∧ bitsOf n (v ^^^ 2 ^ j) = pre ++ (!v.testBit j) :: post := by
  refine ⟨_, _, bitsOf_split hj v, ?_⟩
  have habove : (v ^^^ 2 ^ j) / 2 ^ (j + 1) = v / 2 ^ (j + 1) := by
    refine Nat.eq_of_testBit_eq fun k => ?_
    have hk : j ≠ k + (j + 1) := by omega
    simp [Nat.testBit_div_two_pow, Nat.testBit_xor, hk]
  have hbelow : bitsOf j (v ^^^ 2 ^ j) = bitsOf j v :=
    bitsOf_congr fun k hk => by simp [Nat.testBit_xor, Nat.ne_of_gt hk]
  have hbit : (v ^^^ 2 ^ j).testBit j = !v.testBit j := by simp [Nat.testBit_xor, Nat.testBit_two_pow_self]
  rw [bitsOf_split hj, habove, hbelow, hbit]

/-- Bit `j` of a payload byte inverted. -/
theorem toNat_flip (b : Byte) {j : Nat} (hj : j < 8) : (b ^^^ (1#8 <<< j)).toNat = b.toNat ^^^ 2 ^ j := by
  have hpow : 2 ^ j < 2 ^ 8 := Nat.pow_lt_pow_right (by omega) hj
  have hone : (1#8 <<< j).toNat = 2 ^ j := by
    rw [BitVec.toNat_shiftLeft, Nat.shiftLeft_eq]
    simpa using hpow
  rw [BitVec.toNat_xor, hone]

/-- R19: one inverted payload bit changes the check of a frame. -/
theorem checkOf_protectedBits_flip {priority source kind length i j : Nat} {payload : List Byte} {b : Byte}
    (hb : payload[i]? = some b) (hj : j < 8) :
    checkOf (protectedBits priority source kind length (payload.set i (b ^^^ (1#8 <<< j))))
      ≠ checkOf (protectedBits priority source kind length payload) := by
  obtain ⟨hi, rfl⟩ := List.getElem?_eq_some_iff.1 hb
  obtain ⟨pre, post, hold, hnew⟩ := bitsOf_flip hj payload[i].toNat
  rw [← toNat_flip _ hj] at hnew
  have hset := List.set_eq_take_append_cons_drop (l := payload) (i := i) (a := payload[i] ^^^ (1#8 <<< j))
  rw [if_pos hi] at hset
  have hsplit : payload = payload.take i ++ payload[i] :: payload.drop (i + 1) := by simp
  have hbits (xs : List Byte) (x : Byte) (ys : List Byte) : protectedBits priority source kind length (xs ++ x :: ys)
      = protectedBits priority source kind length xs ++ (bitsOf 8 x.toNat ++ ys.flatMap fun b => bitsOf 8 b.toNat) := by
    simp [protectedBits]
  rw [hset, hbits, hnew]
  conv_rhs => rw [hsplit, hbits, hold]
  have hflip := checkOf_flip (protectedBits priority source kind length (payload.take i) ++ pre)
    (post ++ (payload.drop (i + 1)).flatMap fun b => bitsOf 8 b.toNat) (payload[i].toNat.testBit j)
  simpa only [List.append_assoc, List.cons_append] using hflip

/-! ### The frame of a node -/

theorem kindOf_code (k : Kind) : kindOf k.code = some k := by cases k <;> rfl

theorem Kind.code_lt (k : Kind) : k.code < 32 := by cases k <;> decide

/-- A frame with another check than that of its protected bits is a receive error (R23). -/
theorem verdictOf_of_check {f : RawFrame}
    (h : f.check ≠ checkOf (protectedBits f.priority.toNat f.source.toNat f.kind.toNat f.length.toNat f.payload)) :
    verdictOf f = .error := by
  unfold verdictOf
  rw [if_pos h]
  split
  · rfl
  · split <;> rfl

/-- R19: a frame under its own check fails it with one payload bit inverted. -/
theorem verdictOf_flip {f : RawFrame} {i j : Nat} {b : Byte}
    (hcheck : f.check = checkOf (protectedBits f.priority.toNat f.source.toNat f.kind.toNat f.length.toNat f.payload))
    (hb : f.payload[i]? = some b) (hj : j < 8) :
    verdictOf { f with payload := f.payload.set i (b ^^^ (1#8 <<< j)) } = .error := by
  refine verdictOf_of_check fun h => ?_
  dsimp only at h
  rw [hcheck] at h
  exact checkOf_protectedBits_flip hb hj h.symm

/-- R19: a node sends a frame under its check. -/
theorem Queued.frame_check (q : Queued) (a : Nat) : (q.frame a).check = checkOf (protectedBits (q.frame a).priority.toNat
    (q.frame a).source.toNat (q.frame a).kind.toNat (q.frame a).length.toNat (q.frame a).payload) := rfl

/-- A sent frame passes every check (R23, R24). -/
theorem verdictOf_frame {q : Queued} {a : Nat} (ha : 1 ≤ a) (ha' : a ≤ 48) (hlength : q.payload.length ≤ 40) :
    verdictOf (q.frame a) = .heard q.kind a := by
  have hlen : (q.frame a).length.toNat = q.payload.length := by
    simp only [Queued.frame, BitVec.toNat_ofNat]
    omega
  have hkind : (q.frame a).kind.toNat = q.kind.code := by
    have hcode := q.kind.code_lt
    simp only [Queued.frame, BitVec.toNat_ofNat]
    omega
  have hsource : (q.frame a).source.toNat = 63 - a := by
    simp only [Queued.frame, BitVec.toNat_ofNat]
    omega
  unfold verdictOf
  rw [if_neg (by omega), if_neg (by rw [hlen]; simp [Queued.frame]), if_neg (not_not.2 (q.frame_check a)), hkind, kindOf_code, hsource]
  dsimp only
  rw [if_neg (by omega), show 63 - (63 - a) = a by omega]

/-- Settles O58: the check is that of the frame as sent, and no other's payload with one bit inverted. -/
theorem frameCheckGuards : Obligations.FrameCheckGuards := by
  intro q a ha ha' hlength
  refine ⟨verdictOf_frame ha ha' hlength, fun i j b hb hj => ?_⟩
  exact verdictOf_flip (q.frame_check a) hb hj

end Sys2Proof.Machine
end

section
/-! PROOFS. The Codec reads back what it writes (R30, R31, R32, R34). -/

namespace Sys2Proof.Machine

/-! ### Bytes -/

theorem byte_toNat {n : Nat} (h : n < 256) : (byte n).toNat = n := by simp [byte, Nat.mod_eq_of_lt h]

theorem takeBytes_append (bs rest : List Byte) : takeBytes bs.length (bs ++ rest) = some (bs, rest) := by
  induction bs with
  | nil => rfl
  | cons b bs ih => simp [takeBytes, ih]

/-- R30: a signed byte reads back as its number. -/
theorem signedByte_toInt {i : Int} (hlow : -128 ≤ i) (hhigh : i ≤ 127) : (signedByte i).toInt = i := by
  rw [signedByte, BitVec.toInt_ofInt]
  exact Int.bmod_eq_of_le (by omega) (by omega)

/-! ### Packed figures -/

/-- R31: nibbles packed two to a byte, with none left over, are read back. -/
theorem nibbles_pack : ∀ {ns : List Nat}, ns.length % 2 = 0 → (∀ n ∈ ns, n < 16) → (pack ns).flatMap nibbles = ns
  | [], _, _ => rfl
  | [_], heven, _ => absurd heven (by simp)
  | a :: b :: ns, heven, hsmall => by
    have ha := hsmall a (by simp)
    have hb := hsmall b (by simp)
    have hrest := nibbles_pack (ns := ns) (by simp only [List.length_cons] at heven; omega) fun n hn => hsmall n (by simp [hn])
    have hbyte : nibbles (byte (a * 16 + b)) = [a, b] := by
      rw [nibbles, byte_toNat (by omega)]
      congr 1 <;> [omega; (congr 1; omega)]
    rw [pack, List.flatMap_cons, hbyte, hrest]
    rfl

theorem length_pack : ∀ ns : List Nat, (pack ns).length = (ns.length + 1) / 2
  | [] => rfl
  | [_] => by simp [pack]
  | _ :: _ :: ns => by
    simp only [pack, List.length_cons, length_pack ns]
    omega

theorem length_digitsOf (n m : Nat) : (digitsOf n m).length = n := by
  induction n with
  | zero => rfl
  | succ n ih => simp [digitsOf, ih]

theorem digitsOf_le {n m d : Nat} (h : d ∈ digitsOf n m) : d ≤ 9 := by
  induction n with
  | zero => simp [digitsOf] at h
  | succ n ih =>
    rcases List.mem_cons.1 h with rfl | h
    · omega
    · exact ih h

/-- The digits written are those of the magnitude below their count. -/
theorem digitsOf_mod (n k m : Nat) (h : n ≤ k) : digitsOf n (m % 10 ^ k) = digitsOf n m := by
  induction n with
  | zero => rfl
  | succ n ih =>
    obtain ⟨j, rfl⟩ : ∃ j, k = n + (j + 1) := ⟨k - n - 1, by omega⟩
    have hdigit : m % 10 ^ (n + (j + 1)) / 10 ^ n % 10 = m / 10 ^ n % 10 := by
      rw [pow_add, Nat.mod_mul_right_div_self]
      exact Nat.mod_mod_of_dvd _ (dvd_pow_self 10 (by omega))
    rw [digitsOf, digitsOf, hdigit, ih (by omega)]

theorem readDigits_cons (m d : Nat) {rest : List Nat} (h : rest ≠ []) :
    readDigits m (d :: rest) = if d ≤ 9 then readDigits (10 * m + d) rest else none := by
  cases rest with
  | nil => exact absurd rfl h
  | cons e es => rfl

/-- R31: the digits written after the magnitude `m` and the sign nibble are read back. -/
theorem readDigits_digitsOf (f : Fig) (n m k : Nat) (hk : k < 10 ^ n) :
    readDigits m (digitsOf n k ++ [f.signNibble]) = some (m * 10 ^ n + k, f.neg, f.mark) := by
  induction n generalizing m k with
  | zero =>
    obtain rfl : k = 0 := by simpa using hk
    obtain ⟨neg, digits, point, mag, mark⟩ := f
    cases neg <;> cases mark <;> simp [digitsOf, Fig.signNibble, readDigits]
  | succ n ih =>
    have hpos : 0 < 10 ^ n := by positivity
    have htop : k / 10 ^ n < 10 := Nat.div_lt_of_lt_mul (by rwa [pow_succ] at hk)
    have hsplit := Nat.div_add_mod k (10 ^ n)
    rw [digitsOf, List.cons_append, readDigits_cons _ _ (by simp), Nat.mod_eq_of_lt htop, if_pos (by omega),
      ← digitsOf_mod n n k le_rfl, ih _ _ (Nat.mod_lt k hpos)]
    congr 2
    rw [pow_succ]
    linarith

/-- A figure of a valid shape whose magnitude fills its digits at most (R30). -/
def Fig.InShape (f : Fig) : Prop := 1 ≤ f.digits ∧ f.digits ≤ 7 ∧ f.point ≤ f.digits ∧ f.mag < 10 ^ f.digits

theorem Fig.InShape.mag_lt {f : Fig} (h : f.InShape) : f.mag < 10 ^ f.digits := by
  obtain ⟨-, -, -, hmag⟩ := h
  exact hmag

/-- The pad nibble, the digits and the sign nibble are a whole number of bytes (R31). -/
theorem Fig.length_packed (f : Fig) : f.packed.length = packedLength f.digits := by
  rw [Fig.packed, length_pack, packedLength]
  split <;> simp only [List.length_append, List.length_cons, List.length_nil, length_digitsOf] <;> omega

theorem Fig.signNibble_lt (f : Fig) : f.signNibble < 16 := by
  unfold Fig.signNibble
  split <;> decide

/-- R31: a figure is read back from its packed bytes, whatever its mark. -/
theorem readFig_packed (f : Fig) (hmag : f.mag < 10 ^ f.digits) : readFig f.digits f.point f.packed = some f := by
  have hread := readDigits_digitsOf f f.digits 0 f.mag hmag
  have hsmall (n : Nat) (hn : n ∈ (if f.digits % 2 = 0 then [0] else []) ++ digitsOf f.digits f.mag ++ [f.signNibble]) : n < 16 := by
    have hsign := f.signNibble_lt
    rcases List.mem_append.1 hn with hn | hn
    · rcases List.mem_append.1 hn with hn | hn
      · split at hn <;> simp_all
      · have := digitsOf_le hn
        omega
    · simp_all
  have hnibbles : f.packed.flatMap nibbles
      = (if f.digits % 2 = 0 then [0] else []) ++ digitsOf f.digits f.mag ++ [f.signNibble] := by
    refine nibbles_pack ?_ hsmall
    split <;> simp only [List.length_append, List.length_cons, List.length_nil, length_digitsOf] <;> omega
  unfold readFig
  rw [hnibbles]
  dsimp only
  split
  · simp [hread]
  · simp [hread]

/-- R30, R31: a figure field is read back from its packed bytes. -/
theorem readFigField_packed (shape : Option (Nat × Nat)) (c : Nat) (f : Fig) (rest : List Byte) (hmag : f.mag < 10 ^ f.digits) :
    readFigField shape c f.digits f.point (f.packed ++ rest) = some (shape, some (c, .fig f), rest) := by
  rw [readFigField, ← f.length_packed, takeBytes_append]
  simp [readFig_packed f hmag]

/-- R30: the shape byte of a figure is read back. -/
theorem shapeOf_byte {f : Fig} (h : f.InShape) : shapeOf (byte (f.digits * 16 + f.point)) = some (f.digits, f.point) := by
  obtain ⟨hpos, hseven, hpoint, -⟩ := h
  have hdigits : (f.digits * 16 + f.point) / 16 = f.digits := by omega
  have hmod : (f.digits * 16 + f.point) % 16 = f.point := by omega
  rw [shapeOf, byte_toNat (by omega)]
  simp only [hdigits, hmod]
  exact if_pos ⟨hpos, hseven, hpoint⟩

/-! ### Fields -/

/-- A value that a field can carry (R30). -/
def Value.Writable : Value → Prop
  | .notKnown => True
  | .num k => k < 65536
  | .signed i => -128 ≤ i ∧ i ≤ 127
  | .fig g => g.InShape
  | .list l => l.length ≤ 15 ∧ ∀ a ∈ l, a ≤ 48

/-- A field is written as its descriptor, of this form and field code, and the bytes that read back as its value (R30, R34). -/
def FieldReadsBack (c : Nat) (v : Value) (form : Nat) (bytes : List Byte) : Prop :=
  encodeField c v = byte (form * 16 + c) :: bytes ∧ form < 16
    ∧ ∀ shape rest, readForm shape form c (bytes ++ rest) = some (shape, some (c, v), rest)

/-- A list of station addresses is read back. -/
theorem map_toNat_map_byte {l : List Nat} (h : ∀ a ∈ l, a ≤ 48) : (l.map byte).map (fun b => b.toNat) = l := by
  rw [List.map_map]
  refine (List.map_congr_left (g := id) fun a ha => byte_toNat (n := a) ?_).trans (List.map_id l)
  have hle := h a ha
  omega

/-- R30, R34: every field is read back from the bytes after its descriptor. -/
theorem fieldReadsBack (c : Nat) {v : Value} (hv : v.Writable) : ∃ form bytes, FieldReadsBack c v form bytes := by
  cases v with
  | notKnown => exact ⟨0, [], by simp [encodeField], by decide, fun _ _ => rfl⟩
  | num k =>
    have hk : k < 65536 := hv
    by_cases hsmall : k < 256
    · refine ⟨1, [byte k], by simp [encodeField, hsmall], by decide, fun shape rest => ?_⟩
      simp [readForm, byte_toNat hsmall]
    · refine ⟨7, [byte (k / 256), byte (k % 256)], by simp [encodeField, hsmall], by decide, fun shape rest => ?_⟩
      have hsplit : k / 256 * 256 + k % 256 = k := by omega
      simp [readForm, byte_toNat (show k / 256 < 256 by omega), byte_toNat (show k % 256 < 256 by omega), hsplit]
  | signed i =>
    refine ⟨2, [signedByte i], by simp [encodeField], by decide, fun shape rest => ?_⟩
    simp [readForm, signedByte_toInt hv.1 hv.2]
  | fig f =>
    refine ⟨3, byte (f.digits * 16 + f.point) :: f.packed, by simp [encodeField], by decide, fun shape rest => ?_⟩
    have hshape : f.InShape := hv
    simp [readForm, shapeOf_byte hshape, readFigField_packed shape c f rest hshape.mag_lt]
  | list l =>
    obtain ⟨hlength, hstations⟩ := hv
    refine ⟨6, byte l.length :: l.map byte, by simp [encodeField], by decide, fun shape rest => ?_⟩
    have hback := map_toNat_map_byte hstations
    have hall : (l.map byte).all (fun a => a.toNat ≤ 48) = true := by
      simp only [List.all_map, List.all_eq_true, Function.comp_apply, decide_eq_true_eq]
      intro a ha
      have hle := hstations a ha
      rwa [byte_toNat (by omega)]
    have htake := takeBytes_append (l.map byte) rest
    rw [List.length_map] at htake
    simp only [readForm, List.cons_append, byte_toNat (show l.length < 256 by omega), if_pos hlength, htake, if_pos hall, hback]

/-- R30, R32: a field read from the head of a payload stands before those read from the rest, under any shape and with as much fuel as
there are bytes. -/
theorem readFields_encodeFields {fs : List (Nat × Value)} (h : ∀ f ∈ fs, f.1 ≤ 15 ∧ f.2.Writable) {fuel : Nat}
    (hfuel : (encodeFields fs).length ≤ fuel) (shape : Option (Nat × Nat)) : readFields fuel shape (encodeFields fs) = some fs := by
  induction fs generalizing fuel with
  | nil => cases fuel <;> rfl
  | cons f fs ih =>
    obtain ⟨c, v⟩ := f
    obtain ⟨hcode, hv⟩ := h (c, v) (by simp)
    obtain ⟨form, bytes, hbytes, hform, hread⟩ := fieldReadsBack c hv
    have hpayload : encodeFields ((c, v) :: fs) = byte (form * 16 + c) :: (bytes ++ encodeFields fs) := by
      simp [encodeFields, hbytes]
    rw [hpayload] at hfuel ⊢
    obtain ⟨fuel, rfl⟩ : ∃ k, fuel = k + 1 := ⟨fuel - 1, by simp at hfuel; omega⟩
    have hrest := ih (fun g hg => h g (by simp [hg])) (fuel := fuel) (by simp at hfuel; omega)
    have hdescriptor : (byte (form * 16 + c)).toNat = form * 16 + c := byte_toNat (by dsimp only at hcode; omega)
    have hdiv : (form * 16 + c) / 16 = form := by dsimp only at hcode; omega
    have hmod : (form * 16 + c) % 16 = c := by dsimp only at hcode; omega
    simp [readFields, hdescriptor, hdiv, hmod, hread, hrest]

/-- Settles O57, by induction on the fields. -/
theorem payloadReadsBack : Obligations.PayloadReadsBack := by
  intro fs h
  refine readFields_encodeFields (fun f hf => ?_) le_rfl none
  obtain ⟨hcode, hv⟩ := h f hf
  exact ⟨hcode, by cases hvalue : f.2 <;> rw [hvalue] at hv <;> exact hv⟩

end Sys2Proof.Machine
end

section
/-! PROOFS. What the blocks leave of each other when an own frame is heard (R24): the seeking of a partner and the grading regime, the
slot converter, the test for room, the end of a bond, and the completion reports at the end of the step. -/

namespace Sys2Proof.Machine

/-! ### Seeking and grading (R93, R95, R146-R149) -/

/-- What the seeking of a partner and the grading regime leave: every block but the transmit queue, the Peer Table's candidates, the
Pairing Engine's own seeking, and the Grade Engine with its watch. -/
structure Node.Seeks (n m : Node) : Prop where
  pres : m.pres = n.pres
  mon : m.mon = { n.mon with watchGrade := m.mon.watchGrade }
  duty : m.duty = n.duty
  rail : m.rail = n.rail
  pos : m.pos = n.pos
  serv : m.serv = n.serv
  partner : m.pair.partner = n.pair.partner
  lastCause : m.pair.lastCause = n.pair.lastCause
  state : m.pair.state = n.pair.state ∨ n.pair.state.single ∧ m.pair.state.single

theorem Node.not_bonded_of_single {n : Node} (h : n.pair.state.single) : n.bonded = false := by
  rcases h with hs | hs | hs <;> simp [Node.bonded, hs]

namespace Node.Seeks

variable {n m : Node}

theorem refl (n : Node) : n.Seeks n := ⟨rfl, rfl, rfl, rfl, rfl, rfl, rfl, rfl, .inl rfl⟩

theorem trans {k : Node} (h : n.Seeks m) (hk : m.Seeks k) : n.Seeks k where
  pres := hk.pres.trans h.pres
  mon := by rw [hk.mon, h.mon]
  duty := hk.duty.trans h.duty
  rail := hk.rail.trans h.rail
  pos := hk.pos.trans h.pos
  serv := hk.serv.trans h.serv
  partner := hk.partner.trans h.partner
  lastCause := hk.lastCause.trans h.lastCause
  state := by
    rcases hk.state with hsame | ⟨hm, hk'⟩
    · rw [hsame]; exact h.state
    · rcases h.state with hsame | ⟨hn, -⟩
      · exact .inr ⟨hsame ▸ hm, hk'⟩
      · exact .inr ⟨hn, hk'⟩

theorem single (h : n.Seeks m) (hn : n.pair.state.single) : m.pair.state.single := by
  rcases h.state with hsame | ⟨-, hm⟩
  · rwa [hsame]
  · exact hm

theorem bonded (h : n.Seeks m) (hn : n.bonded = false) : m.bonded = false := by
  rcases h.state with hsame | ⟨-, hm⟩
  · rwa [Node.bonded, hsame]
  · exact Node.not_bonded_of_single hm

/-- A node that seeks is not bonded, and another is left in its pair state. -/
theorem state_of_not_single (h : n.Seeks m) (hn : ¬n.pair.state.single) : m.pair.state = n.pair.state := by
  rcases h.state with hsame | ⟨hs, -⟩
  · exact hsame
  · exact absurd hs hn

theorem ite {c : Prop} [Decidable c] {a b : Node} (ha : n.Seeks a) (hb : n.Seeks b) : n.Seeks (if c then a else b) := by
  split
  · exact ha
  · exact hb

theorem hand {k : Kind} {fields : List (Nat × Value)} (h : n.Seeks m) : n.Seeks (m.hand k fields) :=
  h.trans (by rw [Node.hand_eq]; exact ⟨rfl, rfl, rfl, rfl, rfl, rfl, rfl, rfl, .inl rfl⟩)

theorem onGrade {f : Grader → Grader} (h : n.Seeks m) : n.Seeks (m.onGrade f) := h.trans ⟨rfl, rfl, rfl, rfl, rfl, rfl, rfl, rfl, .inl rfl⟩

theorem onPeers {f : Peers → Peers} (h : n.Seeks m) : n.Seeks (m.onPeers f) := h.trans ⟨rfl, rfl, rfl, rfl, rfl, rfl, rfl, rfl, .inl rfl⟩

/-- The Pairing Engine's own seeking: neither pair state nor partner nor cause. -/
theorem onPair {f : Pairing → Pairing} (hsame : ((f m.pair).state, (f m.pair).partner, (f m.pair).lastCause)
    = (m.pair.state, m.pair.partner, m.pair.lastCause)) (h : n.Seeks m) : n.Seeks (m.onPair f) := by
  simp only [Prod.mk.injEq] at hsame
  obtain ⟨hstate, hpartner, hcause⟩ := hsame
  exact h.trans ⟨rfl, rfl, rfl, rfl, rfl, rfl, hpartner, hcause, .inl hstate⟩

theorem retarget (h : n.Seeks m) : n.Seeks m.retarget := h.onPair rfl

theorem bar {x : Nat} (h : n.Seeks m) : n.Seeks (m.bar x) := by
  unfold Node.bar
  split
  · exact (h.onPair rfl).retarget
  · exact h

theorem endProposal (h : n.Seeks m) : n.Seeks m.endProposal := h.onPair rfl

theorem openRest (h : n.Seeks m) : n.Seeks m.openRest := by
  unfold Node.openRest
  split
  · exact h.trans ⟨rfl, rfl, rfl, rfl, rfl, rfl, rfl, rfl, .inl rfl⟩
  · exact h

theorem enterRestA (h : n.Seeks m) : n.Seeks m.enterRestA := h.onGrade.openRest

theorem pairReported (h : n.Seeks m) : n.Seeks m.pairReported :=
  h.trans (by rw [Node.pairReported_eq]; exact ⟨rfl, rfl, rfl, rfl, rfl, rfl, rfl, rfl, .inl rfl⟩)

/-- Between UNPAIRED, SEEKING and PROPOSING the pair state changes by seeking. -/
theorem setPair {s : PairState} (hm : m.pair.state.single) (hs : s.single) (h : n.Seeks m) : n.Seeks (m.setPair s) := by
  refine h.trans ?_
  unfold Node.setPair
  split
  · exact refl m
  next hne =>
    have hstep : m.Seeks (m.onPair fun q =>
        if s = .joined ∨ s = .leaving then { q with state := s } else { q with state := s, silent := false, silenceTimer := none }) := by
      refine ⟨rfl, rfl, rfl, rfl, rfl, rfl, ?_, ?_, .inr ⟨hm, ?_⟩⟩ <;> rw [Node.onPair_pair] <;> split
      · rfl
      · rfl
      · rfl
      · rfl
      · exact hs
      · exact hs
    exact hstep.pairReported

theorem propose {t : Nat} (hm : m.pair.state.single) (h : n.Seeks m) : n.Seeks (m.propose t) := by
  unfold Node.propose
  split
  · refine setPair ?_ (.inr (.inr rfl)) (h.hand.onPair rfl)
    simpa using hm
  · exact h

theorem seekOn (h : n.Seeks m) : n.Seeks m.seekOn := by
  unfold Node.seekOn
  split
  · split
    next hseeking => exact h.propose (.inr (.inl hseeking))
    next => exact h
  · exact h

theorem testEligible (h : n.Seeks m) : n.Seeks m.testEligible := by
  unfold Node.testEligible
  split
  · split
    next hstate => exact (setPair (.inl hstate) (.inr (.inl rfl)) h).seekOn.ite h
    next hstate => exact h.ite (setPair (.inr (.inl hstate)) (.inl rfl) h)
    next hstate => exact h.ite (setPair (.inr (.inr hstate)) (.inl rfl) h.endProposal)
    all_goals exact h
  · exact h

theorem rederive (h : n.Seeks m) : n.Seeks m.rederive := h.ite (h.onPeers.retarget.seekOn.ite h.onPeers)

theorem gradeTo {s : GradeState} (h : n.Seeks m) : n.Seeks (m.gradeTo s) := h.onGrade.testEligible

theorem handGrade (h : n.Seeks m) : n.Seeks m.handGrade := h.hand.onGrade

/-- A node without a bond publishes without testing one (R95, R155). -/
theorem publish {r : Record} (hm : m.bonded = false) (h : n.Seeks m) : n.Seeks (m.publish r) := by
  have hsought : m.Seeks (((m.onGrade fun g => { g with published := r, generation := (g.generation + 1) % 256 }).handGrade).rederive) :=
    (refl m).onGrade.handGrade.rederive
  have hbonded : (((m.onGrade fun g => { g with published := r, generation := (g.generation + 1) % 256 }).handGrade).rederive).bonded
      = false := hsought.bonded hm
  refine h.trans (testEligible ?_)
  unfold Node.testBond
  split
  · rw [if_neg (by simp [hbonded])]
    exact hsought
  · exact hsought


end Node.Seeks

/-- A change of the row view reported to the Pairing Engine leaves the Position Manager but for the view (R165). -/
theorem Node.setView_seeks (n : Node) (v : List PosRecord) : (n.onPos fun q => { q with view := some v }).Seeks (n.setView v) :=
  (Node.Seeks.refl _).ite (Node.Seeks.refl _).testEligible

/-! ### The slot converter (R78, R79, R81, R84) -/

/-- What the levels' operations leave: every block but the Duty Level Controller, the transmit queue, and a SUSPEND under repeat. -/
structure Node.Converts (n m : Node) : Prop where
  pres : m.pres = n.pres
  peers : m.peers = n.peers
  mon : m.mon = n.mon
  grade : m.grade = n.grade
  pair : m.pair = n.pair
  pos : m.pos = n.pos
  rail : n.rail.sameBut m.rail
  repeats : ∀ z ∈ m.rail.repeats, z ∈ n.rail.repeats ∨ ∃ id, z.1 = .suspend id

namespace Node.Converts

variable {n m : Node}

theorem refl (n : Node) : n.Converts n := ⟨rfl, rfl, rfl, rfl, rfl, rfl, rfl, fun _ hz => .inl hz⟩

theorem trans {k : Node} (h : n.Converts m) (hk : m.Converts k) : n.Converts k where
  pres := hk.pres.trans h.pres
  peers := hk.peers.trans h.peers
  mon := hk.mon.trans h.mon
  grade := hk.grade.trans h.grade
  pair := hk.pair.trans h.pair
  pos := hk.pos.trans h.pos
  rail := by
    have hn : m.rail = { n.rail with repeats := m.rail.repeats } := h.rail
    have hm : k.rail = { m.rail with repeats := k.rail.repeats } := hk.rail
    change k.rail = { n.rail with repeats := k.rail.repeats }
    rw [hm, hn]
  repeats z hz := (hk.repeats z hz).elim (h.repeats z) .inr

theorem ite {c : Prop} [Decidable c] {a b : Node} (ha : n.Converts a) (hb : n.Converts b) : n.Converts (if c then a else b) := by
  split
  · exact ha
  · exact hb

theorem onDuty {f : Duty → Duty} (h : n.Converts m) : n.Converts (m.onDuty f) :=
  h.trans ⟨rfl, rfl, rfl, rfl, rfl, rfl, rfl, fun _ hz => .inl hz⟩

theorem handSuspend {id : Nat} (h : n.Converts m) : n.Converts (m.handRail (.suspend id)) := by
  refine h.trans ⟨?_, ?_, ?_, ?_, ?_, ?_, m.handRail_rail _, fun z hz => ?_⟩
  all_goals rw [Node.handRail_eq] at *
  rcases List.mem_append.1 hz with hnew | hold
  · split at hnew
    · exact .inr ⟨id, by rw [List.mem_singleton.1 hnew]⟩
    · cases hnew
  · exact .inl (List.mem_filter.1 hold).1

theorem localSuspension {id : Option Nat} (h : n.Converts m) : n.Converts (m.localSuspension id) := by
  unfold Node.localSuspension
  split
  · exact h.handSuspend.ite h
  · exact h

theorem suspendHere {i : LevelId} (h : n.Converts m) : n.Converts (m.suspendHere i) := h.onDuty.localSuspension.ite h

theorem accept {i : LevelId} {r : LevelRequest} (h : n.Converts m) : n.Converts (m.accept i r) := by
  unfold Node.accept
  extract_lets n1 n2
  have h2 : n.Converts n2 := h.onDuty.onDuty.ite h.onDuty
  exact (h2.suspendHere.ite h2).ite h.onDuty

theorem takeKept {i : LevelId} (h : n.Converts m) : n.Converts (m.takeKept i) := by
  unfold Node.takeKept
  split
  · exact h.onDuty.accept
  · exact h

theorem rampDown (h : n.Converts m) : n.Converts m.rampDown := by
  unfold Node.rampDown
  refine onDuty ?_
  split
  · exact h.onDuty.takeKept.ite h
  · exact h

theorem settle {old : Option LevelId} (h : n.Converts m) : n.Converts (m.settle old) := h.ite (h.onDuty.rampDown.ite h.onDuty)

theorem endLevel {i : LevelId} (h : n.Converts m) : n.Converts (m.endLevel i) := by
  unfold Node.endLevel
  split
  · exact h.onDuty.settle
  · exact h.onDuty.settle
  · exact h.onDuty.settle
  · exact h
  · exact h

end Node.Converts

/-! ### The test for room (R126, R128, R133) -/

/-- What a test for room leaves of the rail block; the side goes on from WAITING alone. -/
structure Rail.Asks (r r' : Rail) : Prop where
  own : r'.own = r.own
  view : r'.view = r.view
  repeats : r'.repeats = r.repeats
  wait : r'.wait = r.wait
  request : r'.request = r.request
  testEnded : r'.testEnded = r.testEnded
  testOrdinary : r'.testOrdinary = r.testOrdinary
  side : r'.side = r.side ∨ r.side = .waiting ∧ (r'.side = .needing ∨ r'.side = .agreeing)

theorem Rail.Asks.refl (r : Rail) : r.Asks r := ⟨rfl, rfl, rfl, rfl, rfl, rfl, rfl, .inl rfl⟩

theorem Node.handAgree_rail (n : Node) (p : Plan) (id c k : Nat) (d : Dir) (u : Nat) (e : Option Fig) :
    (n.handAgree p id c k d u e).rail = { n.rail with
      side := .agreeing, current := some id, asked := u, needTimer := none, windowTimer := none, agreeTimer := n.after 1000 } := by
  rw [Node.handAgree, Node.onRail_rail, Node.handPart_eq]

theorem Node.handNeed_rail (n : Node) (p : Plan) (d : Dir) (u : Nat) (e : Fig) :
    (n.handNeed p d u e).rail = { n.rail with
      side := .needing, current := some n.nextId, asked := u, serial := (n.rail.serial + 1) % 16, offers := []
      needTimer := n.after 1000 } := by
  rw [Node.handNeed, Node.onRail_rail, Node.handPart_eq]

theorem Node.roomTest_asks (n : Node) : n.rail.Asks n.roomTest.rail := by
  unfold Node.roomTest
  split
  · split
    next hroom =>
      split
      · rw [Node.handNeed_rail]
        exact ⟨rfl, rfl, rfl, rfl, rfl, rfl, rfl, .inr ⟨hroom.1, .inl rfl⟩⟩
      · unfold Node.handJoin
        split
        · rw [Node.onRail_rail, Node.handAgree_rail]
          exact ⟨rfl, rfl, rfl, rfl, rfl, rfl, rfl, .inr ⟨hroom.1, .inr rfl⟩⟩
        · exact .refl _
    next => exact .refl _
  · exact .refl _

theorem Node.roomTest_of_side {n : Node} (h : n.rail.side ≠ .waiting) : n.roomTest = n := by
  unfold Node.roomTest
  split
  · rw [if_neg fun hroom => h hroom.1]
  · rfl

theorem Node.roomTest_of_noRequest {n : Node} (h : n.rail.request = none) : n.roomTest = n := by
  unfold Node.roomTest
  rw [h]
  cases n.pres.plan <;> rfl

/-- The room of R126 in the statement's words. -/
theorem Node.room_iff (n : Node) (p : Plan) (units : Nat) : n.room p units = true ↔ n.hasRoom p units := by
  simp only [Node.room, Node.active, Node.congested, Bool.and_eq_true, beq_iff_eq, Option.isNone_iff_eq_none, Bool.not_eq_true',
    Bool.or_eq_false_iff, decide_eq_false_iff_not, not_le, not_lt, and_assoc]
  exact Iff.rfl

end Sys2Proof.Machine
end

section
/-! PROOFS. The end of a bond as the other blocks see it (R154, R157, R176), with an own exchange and without one (R135). -/

namespace Sys2Proof.Machine

/-! ### The JOIN withdrawn (R133, R135) -/

/-- What the withdrawal of a JOIN leaves: the Rail Allocator's view, and every other block but the transmit queue, the levels and the
timer of the live reports. -/
structure Node.Withdraws (n m : Node) : Prop where
  pres : m.pres = n.pres
  peers : m.peers = n.peers
  mon : m.mon = n.mon
  grade : m.grade = n.grade
  pair : m.pair = n.pair
  pos : m.pos = { n.pos with liveTimer := m.pos.liveTimer }
  view : m.rail.view = n.rail.view

namespace Node.Withdraws

variable {n m : Node}

theorem refl (n : Node) : n.Withdraws n := ⟨rfl, rfl, rfl, rfl, rfl, rfl, rfl⟩

theorem trans {k : Node} (h : n.Withdraws m) (hk : m.Withdraws k) : n.Withdraws k where
  pres := hk.pres.trans h.pres
  peers := hk.peers.trans h.peers
  mon := hk.mon.trans h.mon
  grade := hk.grade.trans h.grade
  pair := hk.pair.trans h.pair
  pos := by rw [hk.pos, h.pos]
  view := hk.view.trans h.view

theorem ite {c : Prop} [Decidable c] {a b : Node} (ha : n.Withdraws a) (hb : n.Withdraws b) : n.Withdraws (if c then a else b) := by
  split
  · exact ha
  · exact hb

theorem onRail {f : Rail → Rail} (hview : (f m.rail).view = m.rail.view) (h : n.Withdraws m) : n.Withdraws (m.onRail f) :=
  h.trans ⟨rfl, rfl, rfl, rfl, rfl, rfl, hview⟩

theorem handRail {x : RailNotice} (h : n.Withdraws m) : n.Withdraws (m.handRail x) :=
  h.trans (by rw [Node.handRail_eq]; exact ⟨rfl, rfl, rfl, rfl, rfl, rfl, rfl⟩)

theorem endLevel {i : LevelId} (h : n.Withdraws m) : n.Withdraws (m.endLevel i) := by
  have hends := (Node.Converts.refl m).endLevel (i := i)
  have hrail : (m.endLevel i).rail = { m.rail with repeats := (m.endLevel i).rail.repeats } := hends.rail
  exact h.trans ⟨hends.pres, hends.peers, hends.mon, hends.grade, hends.pair, by rw [hends.pos], by rw [hrail]⟩

theorem releaseOwn {cause : Nat} (h : n.Withdraws m) : n.Withdraws (m.releaseOwn cause) := by
  unfold Node.releaseOwn
  split
  · exact (h.handRail.onRail rfl).endLevel.ite (h.handRail.onRail rfl)
  · exact h

theorem withdrawJoin {release : Bool} (h : n.Withdraws m) : n.Withdraws (m.withdrawJoin release) := by
  have hreleased : n.Withdraws (if release = true then m.releaseOwn causeStop else m) := h.releaseOwn.ite h
  unfold Node.withdrawJoin
  extract_lets n0 n1
  have h1 : n.Withdraws n1 := by
    change n.Withdraws (match m.rail.own with | some o => _ | none => _)
    split
    · refine ite (ite ?_ (hreleased.onRail rfl)) h
      exact (hreleased.onRail rfl).trans ⟨rfl, rfl, rfl, rfl, rfl, rfl, rfl⟩
    · exact ((h.onRail rfl).onRail rfl).ite h
  exact (h1.onRail rfl).ite h1

end Node.Withdraws

/-! ### The end of a bond (R176) -/

/-- The Position Manager after the end of a bond: contactor open, a lead in bypass, no reports, and at most a withdrawn claim under
repeat. -/
structure Positions.Unbound (q q' : Positions) : Prop where
  contactor : q'.contactor.drive = false
  engageLine : q.lead = true → q'.engageLine = false
  switch : q.lead = true → q'.switch.drive = false
  ownReport : q'.ownReport = none
  partnerReport : q'.partnerReport = none
  repeats : ∀ z ∈ q'.repeats, ∃ k, z.1 = .vacate k 3 6

/-- What the end of a bond leaves of the other blocks. -/
structure Node.Unbonds (n m : Node) : Prop where
  pres : m.pres = n.pres
  peers : m.peers = n.peers
  grade : m.grade = n.grade
  pair : m.pair = n.pair
  view : m.rail.view = n.rail.view
  rows : m.pos.view = n.pos.view
  pos : m.pos = n.pos ∨ n.pos.Unbound m.pos

/-- A lead's claims withdrawn change the transmit queue and what the Position Manager repeats. -/
theorem Node.withdrawClaim_spec (n : Node) (lead : Bool) (partner : Option Nat) :
    ∃ queue repeats, n.withdrawClaim lead partner = { n with
        line := { n.line with queue := queue }, pos := { n.pos with repeats := repeats } }
      ∧ ∀ z ∈ repeats, z ∈ n.pos.repeats ∨ ∃ k, z.1 = .vacate k 3 6 := by
  have hfold (l : List Nat) (m : Node) : ∃ queue repeats, l.foldl (fun m p => m.handPos (.vacate p 3 Reason.ended.code)) m = { m with
      line := { m.line with queue := queue }, pos := { m.pos with repeats := repeats } }
      ∧ ∀ z ∈ repeats, z ∈ m.pos.repeats ∨ ∃ k, z.1 = .vacate k 3 6 := by
    induction l generalizing m with
    | nil => exact ⟨_, _, rfl, fun z hz => .inl hz⟩
    | cons p ps ih =>
      obtain ⟨queue, repeats, heq, hmem⟩ := ih (m.handPos (.vacate p 3 Reason.ended.code))
      refine ⟨queue, repeats, by rw [List.foldl_cons, heq, Node.handPos_eq], fun z hz => ?_⟩
      rcases hmem z hz with hold | hnew
      · rw [Node.handPos_eq] at hold
        rcases List.mem_cons.1 hold with rfl | hold
        · exact .inr ⟨p, rfl⟩
        · exact .inl (List.mem_filter.1 hold).1
      · exact .inr hnew
  unfold Node.withdrawClaim
  split
  · exact hfold _ n
  · exact ⟨_, _, rfl, fun z hz => .inl hz⟩

/-- The contactor driven open, and a lead in bypass (R174, R176): what else of the Position Manager stands. -/
structure Node.Opens (n m : Node) : Prop where
  eq : m = { n with pos := m.pos }
  contactor : m.pos.contactor.drive = false
  engageLine : n.pos.lead = true → m.pos.engageLine = false
  switch : n.pos.lead = true → m.pos.switch.drive = false
  view : m.pos.view = n.pos.view
  phase : m.pos.phase = n.pos.phase
  attempts : m.pos.attempts = n.pos.attempts
  repeats : m.pos.repeats = n.pos.repeats

theorem Node.opens (n : Node) : n.Opens ((n.driveContactor false none).bypass none) := by
  have hdrive : ((n.driveContactor false none).pos.contactor).drive = false := Actuator.move_drive _ _ _
  unfold Node.bypass
  split
  · exact ⟨rfl, hdrive, fun _ => rfl, fun _ => Actuator.move_drive _ _ _, rfl, rfl, rfl, rfl⟩
  next hlead => exact ⟨rfl, hdrive, fun h => absurd h hlead, fun h => absurd h hlead, rfl, rfl, rfl, rfl⟩

theorem Node.endBond_unbonds (n : Node) (release : Bool) : n.Unbonds (n.endBond release) := by
  unfold Node.endBond
  split
  next hbonds =>
    extract_lets n1 n2
    have hopens := n.opens
    have hwithdrawn := (Node.Withdraws.refl ((n.driveContactor false none).bypass none)).withdrawJoin (release := release)
    obtain ⟨queue, repeats, hclaims, hrepeats⟩ := n2.withdrawClaim_spec n.pos.lead n.pos.partner
    have hphase : n1.pos.phase ≠ .none := by
      have hsame : n1.pos.phase = n.pos.phase := by
        change ((_ : Node).withdrawJoin release).pos.phase = _
        rw [hwithdrawn.pos]
        exact hopens.phase
      rw [hsame]
      intro hnone
      simp [hnone, Phase.bonds] at hbonds
    have hempty : n2.pos.repeats = [] := if_neg hphase
    have hpos (α : Type) (f : Positions → α) (hf : ∀ (q : Positions) t, f { q with liveTimer := t } = f q) :
        f n1.pos = f ((n.driveContactor false none).bypass none).pos := by
      change f ((_ : Node).withdrawJoin release).pos = _
      rw [hwithdrawn.pos, hf]
    rw [hclaims]
    have hcontactor := hpos _ Positions.contactor fun _ _ => rfl
    have hline := hpos _ Positions.engageLine fun _ _ => rfl
    have hswitch := hpos _ Positions.switch fun _ _ => rfl
    have hview := hpos _ Positions.view fun _ _ => rfl
    refine ⟨?_, ?_, ?_, ?_, ?_, ?_, .inr ⟨?_, fun hlead => ?_, fun hlead => ?_, rfl, rfl, fun z hz => ?_⟩⟩
    · exact hwithdrawn.pres.trans (by rw [hopens.eq])
    · exact hwithdrawn.peers.trans (by rw [hopens.eq])
    · exact hwithdrawn.grade.trans (by rw [hopens.eq])
    · exact hwithdrawn.pair.trans (by rw [hopens.eq])
    · exact hwithdrawn.view.trans (by rw [hopens.eq])
    · exact hview.trans hopens.view
    · exact (congrArg Actuator.drive hcontactor).trans hopens.contactor
    · exact hline.trans (hopens.engageLine hlead)
    · exact (congrArg Actuator.drive hswitch).trans (hopens.switch hlead)
    · rcases hrepeats z hz with hold | hnew
      · rw [hempty] at hold
        cases hold
      · exact hnew
  · exact ⟨rfl, rfl, rfl, rfl, rfl, rfl, .inl rfl⟩

/-! ### Dissolution (R154, R157) -/

/-- What the dissolution of a bond makes of the Pairing Engine and the Position Manager, and what it leaves. -/
structure Node.Dissolves (n m : Node) (cause : Nat) : Prop where
  pres : m.pres = n.pres
  partner : m.pair.partner = none
  state : m.pair.state.single
  lastCause : m.pair.lastCause = some cause
  view : m.rail.view = n.rail.view
  rows : m.pos.view = n.pos.view
  pos : m.pos = n.pos ∨ n.pos.Unbound m.pos

/-- The node that has told its partner, cleared its bond and barred it, before any other block hears of it (R154, R157). -/
def Node.unbinding (n : Node) (x cause : Nat) (send : Bool) : Node :=
  let n1 : Node := if send then n.hand .unbind (twoFields x cause) else n
  let n2 : Node := n1.onPair fun q => { q with lastCause := some cause, partner := none, frames := 0 }
  if barring cause then n2.bar x else n2

theorem Node.dissolve_of_bonded {n : Node} {x : Nat} (hbonded : n.bonded = true) (hpartner : n.pair.partner = some x) (cause : Nat)
    (send release : Bool) : n.dissolve cause send release
      = (((n.unbinding x cause send).endBond release).setPair .unpaired).testEligible := by
  unfold Node.dissolve
  rw [hpartner]
  dsimp only
  rw [if_pos hbonded]
  rfl

/-- The Pairing Engine clears its bond before any other block hears of it. -/
theorem Node.unbinding_seeks (n : Node) (x cause : Nat) (send : Bool) :
    ∃ k : Node, n.Seeks k ∧ (k.onPair fun q => { q with lastCause := some cause, partner := none, frames := 0 }).Seeks
      (n.unbinding x cause send) :=
  ⟨if send then n.hand .unbind (twoFields x cause) else n, (Node.Seeks.refl n).hand.ite (Node.Seeks.refl n),
    (Node.Seeks.refl _).bar.ite (Node.Seeks.refl _)⟩

theorem Node.dissolve_dissolves {n : Node} {x : Nat} (hbonded : n.bonded = true) (hpartner : n.pair.partner = some x) (cause : Nat)
    (send release : Bool) : n.Dissolves (n.dissolve cause send release) cause := by
  rw [Node.dissolve_of_bonded hbonded hpartner]
  obtain ⟨k, hk, hcleared⟩ := n.unbinding_seeks x cause send
  have hends := (n.unbinding x cause send).endBond_unbonds release
  generalize hm : (n.unbinding x cause send).endBond release = m at hends
  have hpair := m.setPair_eq .unpaired
  have hlast := (Node.Seeks.refl (m.setPair .unpaired)).testEligible
  have hset : (m.setPair .unpaired).pair.partner = m.pair.partner ∧ (m.setPair .unpaired).pair.lastCause = m.pair.lastCause := by
    unfold Node.setPair
    split
    · exact ⟨rfl, rfl⟩
    · rw [Node.pairReported_eq]
      exact ⟨rfl, rfl⟩
  refine ⟨?_, ?_, ?_, ?_, ?_, ?_, ?_⟩
  · rw [hlast.pres, hpair, hends.pres, hcleared.pres]
    exact hk.pres
  · rw [hlast.partner, hset.1, hends.pair, hcleared.partner]
    rfl
  · exact hlast.single (by rw [Node.setPair_state]; exact .inl rfl)
  · rw [hlast.lastCause, hset.2, hends.pair, hcleared.lastCause]
    rfl
  · rw [hlast.rail, hpair, hends.view, hcleared.rail]
    exact congrArg Rail.view hk.rail
  · rw [hlast.pos, hpair, hends.rows, hcleared.pos]
    exact congrArg Positions.view hk.pos
  · have hn : (n.unbinding x cause send).pos = n.pos := hcleared.pos.trans hk.pos
    rw [hlast.pos, hpair, ← hn]
    exact hends.pos

theorem Node.dissolve_of_not_bonded {n : Node} (h : n.bonded = false) (cause : Nat) (send release : Bool) :
    n.dissolve cause send release = n := by
  unfold Node.dissolve
  split
  · rw [if_neg (by simp [h])]
  · rfl

/-- However a bond ends or does not, the Position Manager stands or is unbound. -/
theorem Node.dissolve_pos (n : Node) (cause : Nat) (send release : Bool) :
    (n.dissolve cause send release).pos = n.pos ∨ n.pos.Unbound (n.dissolve cause send release).pos := by
  cases hbonded : n.bonded with
  | false => exact .inl (by rw [Node.dissolve_of_not_bonded hbonded])
  | true =>
    cases hpartner : n.pair.partner with
    | none =>
      refine .inl ?_
      unfold Node.dissolve
      rw [hpartner]
    | some x => exact (Node.dissolve_dissolves hbonded hpartner cause send release).pos

end Sys2Proof.Machine
end

section
/-! PROOFS. The own exchange that has left the rail view (R135, R136): what the Rail Allocator does then without an own record, and the
completion reports at the end of the step (R83, R101). -/

namespace Sys2Proof.Machine

/-! ### A rail block without an own exchange -/

/-- What a rail block without an own exchange keeps: it stays without one, its view and its notices under repeat stand, it comes to no
PARTY and no STARTING, and a test requested goes on. -/
structure Rail.Frees (r r' : Rail) : Prop where
  own : r'.own = none
  view : r'.view = r.view
  repeats : r'.repeats = r.repeats
  party : r.side ≠ .party → r'.side ≠ .party
  starting : r.side ≠ .starting → r'.side ≠ .starting
  testing : r.testing = true → r.side ≠ .idle → r'.testing = true ∧ r'.side ≠ .idle

namespace Rail.Frees

theorem refl {r : Rail} (h : r.own = none) : r.Frees r := ⟨h, rfl, rfl, id, id, fun ht hs => ⟨ht, hs⟩⟩

theorem trans {r r' r'' : Rail} (h : r.Frees r') (h' : r'.Frees r'') : r.Frees r'' where
  own := h'.own
  view := h'.view.trans h.view
  repeats := h'.repeats.trans h.repeats
  party := h'.party ∘ h.party
  starting := h'.starting ∘ h.starting
  testing ht hs := h'.testing (h.testing ht hs).1 (h.testing ht hs).2

theorem of_asks {r r' : Rail} (h : r.Asks r') (hown : r.own = none) : r.Frees r' where
  own := h.own.trans hown
  view := h.view
  repeats := h.repeats
  party hs := by rcases h.side with hsame | ⟨-, hnew | hnew⟩ <;> simp_all
  starting hs := by rcases h.side with hsame | ⟨-, hnew | hnew⟩ <;> simp_all
  testing ht hs := by
    refine ⟨by rw [Rail.testing, h.request]; exact ht, ?_⟩
    rcases h.side with hsame | ⟨-, hnew | hnew⟩ <;> simp_all

end Rail.Frees

theorem Rail.not_testing_of_joining {r : Rail} (h : r.joining = true) : r.testing = false := by
  unfold Rail.joining at h
  unfold Rail.testing
  split
  · simp_all
  · rfl

/-- What comes of a rail block without an own exchange: it stands where no JOIN is requested, and the levels stand. -/
structure Node.Stands (n m : Node) : Prop where
  rail : n.rail.joining = false → m.rail = n.rail
  frees : n.rail.Frees m.rail
  duty : m.duty = n.duty

theorem Node.Stands.of_eq {n m : Node} (hown : n.rail.own = none) (hrail : m.rail = n.rail) (hduty : m.duty = n.duty) : n.Stands m :=
  ⟨fun _ => hrail, by rw [hrail]; exact .refl hown, hduty⟩

/-- Without an own exchange the withdrawal of a JOIN takes back a request for one alone (R133). -/
theorem Node.withdrawJoin_stands {n : Node} (hown : n.rail.own = none) (release : Bool) : n.Stands (n.withdrawJoin release) := by
  have hreleased : n.releaseOwn causeStop = n := by
    unfold Node.releaseOwn
    rw [hown]
  have heq : n.withdrawJoin release = if n.rail.joining then
      (if n.rail.side.asking then n.backToWaiting.onRail fun r => { r with side := .idle } else n).onRail Rail.dropRequest else n := by
    unfold Node.withdrawJoin
    rw [hown]
    cases n.rail.joining <;> simp
  rw [heq]
  cases hjoining : n.rail.joining with
  | false => exact .of_eq hown rfl rfl
  | true =>
    have htesting := Rail.not_testing_of_joining hjoining
    rw [if_pos rfl]
    split
    · refine ⟨fun h => by simp [h] at hjoining, ?_, rfl⟩
      exact ⟨by simp [Rail.dropRequest, Node.backToWaiting, hown], rfl, rfl, fun _ => nofun, fun _ => nofun, fun h => by simp [htesting] at h⟩
    · refine ⟨fun h => by simp [h] at hjoining, ?_, rfl⟩
      exact ⟨by simp [Rail.dropRequest, hown], rfl, rfl, id, id, fun h => by simp [htesting] at h⟩

/-- The end of a bond reaches the rail block and the levels by the withdrawal of a JOIN alone (R176). -/
theorem Node.endBond_stands {n : Node} (hown : n.rail.own = none) (release : Bool) : n.Stands (n.endBond release) := by
  unfold Node.endBond
  split
  · extract_lets n1 n2
    obtain ⟨queue, repeats, hclaims, -⟩ := n2.withdrawClaim_spec n.pos.lead n.pos.partner
    have hopened : ((n.driveContactor false none).bypass none).rail = n.rail := by rw [n.opens.eq]
    have hlevels : ((n.driveContactor false none).bypass none).duty = n.duty := by rw [n.opens.eq]
    obtain ⟨hrail, hfrees, hduty⟩ := Node.withdrawJoin_stands (n := (n.driveContactor false none).bypass none) (by rw [hopened, hown]) release
    rw [hopened] at hrail hfrees
    rw [hclaims]
    exact ⟨hrail, hfrees, hduty.trans hlevels⟩
  · exact .of_eq hown rfl rfl

theorem Node.dissolve_stands {n : Node} (hown : n.rail.own = none) (cause : Nat) (send release : Bool) :
    n.Stands (n.dissolve cause send release) := by
  cases hbonded : n.bonded with
  | false =>
    rw [Node.dissolve_of_not_bonded hbonded]
    exact .of_eq hown rfl rfl
  | true =>
    cases hpartner : n.pair.partner with
    | none =>
      have hsame : n.dissolve cause send release = n := by
        unfold Node.dissolve
        rw [hpartner]
      rw [hsame]
      exact .of_eq hown rfl rfl
    | some x =>
      obtain ⟨k, hk, hcleared⟩ := n.unbinding_seeks x cause send
      have hunbound : (n.unbinding x cause send).rail = n.rail := hcleared.rail.trans hk.rail
      obtain ⟨hrail, hfrees, hduty⟩ := Node.endBond_stands (n := n.unbinding x cause send) (by rw [hunbound, hown]) release
      rw [hunbound] at hrail hfrees
      have hlast := (Node.Seeks.refl (((n.unbinding x cause send).endBond release).setPair .unpaired)).testEligible
      have hset := ((n.unbinding x cause send).endBond release).setPair_eq .unpaired
      rw [Node.dissolve_of_bonded hbonded hpartner]
      refine ⟨?_, ?_, ?_⟩
      · rw [hlast.rail, hset]; exact hrail
      · rw [hlast.rail, hset]; exact hfrees
      · rw [hlast.duty, hset]; exact hduty.trans (hcleared.duty.trans hk.duty)

theorem Node.beginRound_of_plan {n : Node} {p : Plan} (h : n.pres.plan = some p) : n.beginRound = { n with
    pos := { n.pos with
      phase := .settleWait, repeats := if n.pos.phase = .settleWait then n.pos.repeats else [], ownReport := none, partnerReport := none }
    mon := { n.mon with watchPosition := some { duration := p.joinSettle * 1000, sampled := false } } } := by
  unfold Node.beginRound
  rw [h]
  rfl

/-- A round begins in the Position Manager and its rest watch alone (R170). -/
theorem Node.beginRound_eq (n : Node) : n.beginRound = { n with pos := n.beginRound.pos, mon := n.beginRound.mon } := by
  cases h : n.pres.plan with
  | none =>
    have hstands : n.beginRound = n := by unfold Node.beginRound; rw [h]
    rw [hstands]
  | some p => rw [Node.beginRound_of_plan h]

/-- The end of a JOIN reaches a node without an own exchange by the withdrawal of a JOIN alone (R136, R172). -/
theorem Node.joinEnded_stands {n : Node} (hown : n.rail.own = none) (ordinary : Bool) : n.Stands (n.joinEnded ordinary) := by
  have hround (k : Node) (hrail : k.rail = n.rail) (hduty : k.duty = n.duty) : n.Stands k.beginRound := by
    refine .of_eq hown ?_ ?_
    · rw [Node.beginRound_eq]; exact hrail
    · rw [Node.beginRound_eq]; exact hduty
  unfold Node.joinEnded
  extract_lets n1
  split
  · split
    · exact hround n1 rfl rfl
    · unfold Node.countAttempt
      extract_lets n2
      split
      · obtain ⟨hrail, hfrees, hduty⟩ := Node.dissolve_stands (n := n2) hown unbindEqualize true true
        unfold Node.equalizeFail
        rw [Node.reportFault_eq]
        exact ⟨hrail, hfrees, hduty⟩
      · exact hround n2 rfl rfl
  · exact .of_eq hown rfl rfl

theorem Node.freedTest_of_noRequest {n : Node} (h : n.rail.request = none) : n.freedTest = n := by
  unfold Node.freedTest
  rw [h]
  cases n.pres.plan <;> rfl

theorem Node.freedTest_frees {n : Node} (hown : n.rail.own = none) : n.rail.Frees n.freedTest.rail := by
  unfold Node.freedTest
  split
  · split
    · exact ⟨hown, rfl, rfl, id, id, fun ht hs => ⟨ht, hs⟩⟩
    · exact .of_asks n.roomTest_asks hown
  · exact .refl hown

end Sys2Proof.Machine
end

section
/-! PROOFS. The completion reports at the end of a step (R83, R101, R136): what their taking leaves of the other blocks. -/

namespace Sys2Proof.Machine

/-- A bonded node is graded (R146): the part of `PairLaw` that the taking of completions needs and keeps. -/
abbrev Node.BondGraded (n : Node) : Prop := n.bonded = true → n.grade.state = .graded ∨ n.grade.state = .selfRest

theorem Node.bondGraded_of_pairLaw {n : Node} (h : n.PairLaw) (hlive : n.live = true) : n.BondGraded := fun hbonded => by
  obtain ⟨-, hgraded⟩ := h
  refine hgraded hlive ?_
  simp only [Node.bonded, Bool.or_eq_true, beq_iff_eq] at hbonded
  rcases hbonded with h | h
  · exact .inr (.inr (.inl h))
  · exact .inr (.inr (.inr h))

/-- What the taking of completion reports leaves: Presence Controller and Position Manager, the bond, the rail view and the notices
under repeat; and a rail block without an own exchange is so still. -/
structure Node.Reports (n m : Node) : Prop where
  pres : m.pres = n.pres
  pos : m.pos = n.pos
  watch : m.mon.watchPosition = n.mon.watchPosition
  view : m.rail.view = n.rail.view
  repeats : m.rail.repeats = n.rail.repeats
  partner : m.pair.partner = n.pair.partner
  lastCause : m.pair.lastCause = n.pair.lastCause
  single : n.pair.state.single → m.pair.state.single
  frees : n.rail.own = none → n.rail.Frees m.rail
  graded : m.BondGraded

namespace Node.Reports

variable {n m : Node}

theorem refl (h : n.BondGraded) : n.Reports n := ⟨rfl, rfl, rfl, rfl, rfl, rfl, rfl, id, .refl, h⟩

theorem trans {k : Node} (h : n.Reports m) (hk : m.Reports k) : n.Reports k where
  pres := hk.pres.trans h.pres
  pos := hk.pos.trans h.pos
  watch := hk.watch.trans h.watch
  view := hk.view.trans h.view
  repeats := hk.repeats.trans h.repeats
  partner := hk.partner.trans h.partner
  lastCause := hk.lastCause.trans h.lastCause
  single := hk.single ∘ h.single
  frees hown := (h.frees hown).trans (hk.frees (h.frees hown).own)
  graded := hk.graded

/-- Without a bond the node seeks and grades as it likes. -/
theorem of_seeks (h : n.Seeks m) (hbonded : n.bonded = false) : n.Reports m where
  pres := h.pres
  pos := h.pos
  watch := by rw [h.mon]
  view := by rw [h.rail]
  repeats := by rw [h.rail]
  partner := h.partner
  lastCause := h.lastCause
  single := h.single
  frees hown := by rw [h.rail]; exact .refl hown
  graded hm := by simp [h.bonded hbonded] at hm

theorem ite {c : Prop} [Decidable c] {a b : Node} (ha : n.Reports a) (hb : n.Reports b) : n.Reports (if c then a else b) := by
  split
  · exact ha
  · exact hb

theorem reportFault {code : FaultCode} (h : n.Reports m) : n.Reports (m.reportFault code) :=
  h.trans (by rw [Node.reportFault_eq]; exact ⟨rfl, rfl, rfl, rfl, rfl, rfl, rfl, id, .refl, h.graded⟩)

/-- A change of the rail block that keeps view and notices under repeat. -/
theorem onRail {f : Rail → Rail} (hview : (f m.rail).view = m.rail.view) (hrepeats : (f m.rail).repeats = m.rail.repeats)
    (hfrees : m.rail.own = none → m.rail.Frees (f m.rail)) (h : n.Reports m) : n.Reports (m.onRail f) :=
  h.trans ⟨rfl, rfl, rfl, hview, hrepeats, rfl, rfl, id, hfrees, h.graded⟩

theorem roomTest (h : n.Reports m) : n.Reports m.roomTest := by
  have hasks := m.roomTest_asks
  refine h.trans ?_
  rw [Node.roomTest_eq]
  exact ⟨rfl, rfl, rfl, hasks.view, hasks.repeats, rfl, rfl, id, .of_asks hasks, h.graded⟩

theorem backToWaiting (h : n.Reports m) : n.Reports m.backToWaiting :=
  h.onRail rfl rfl fun hown => ⟨hown, rfl, rfl, fun _ => nofun, fun _ => nofun, fun ht _ => ⟨ht, nofun⟩⟩

/-- A test asked for waits for room, or for the node's other exchange (R125). -/
theorem beginTest {q : Request} (hq : q.isTest = true) (h : n.Reports m) : n.Reports (m.beginRequest q) := by
  unfold Node.beginRequest
  extract_lets n1
  have h1 : n.Reports n1 := h.onRail rfl rfl fun hown => ⟨hown, rfl, rfl, id, id, fun _ hs => ⟨hq, hs⟩⟩
  exact h1.backToWaiting.roomTest.ite h1

end Node.Reports

/-! ### Who takes a completion -/

/-- A pulse takes the Grade Engine to its capacity test (R100). -/
theorem Node.enterCapTest_reports {n : Node} (hbonded : n.bonded = false) : n.Reports n.enterCapTest := by
  unfold Node.enterCapTest
  split
  · exact (Node.Reports.of_seeks (Node.Seeks.refl n).onGrade hbonded).beginTest rfl
  · exact .of_seeks (.refl n) hbonded

theorem Node.not_bonded_of_grade {n : Node} (h : n.BondGraded) (hgraded : n.grade.state ≠ .graded) (hrest : n.grade.state ≠ .selfRest) :
    n.bonded = false := by
  by_contra hbonded
  rcases h (by simpa using hbonded) with hstate | hstate
  · exact hgraded hstate
  · exact hrest hstate

/-- R98, R99: a PULSE completion. -/
theorem Node.pulseDone_reports {n : Node} (h : n.BondGraded) (c : Completion) : n.Reports (n.pulseDone c) := by
  unfold Node.pulseDone
  split
  next hpulse =>
    have hbonded := Node.not_bonded_of_grade h (by simp [hpulse.2]) (by simp [hpulse.2])
    have hrest : n.Reports n.enterRestA := .of_seeks (Node.Seeks.refl n).enterRestA hbonded
    split
    · split
      · exact (Node.Reports.of_seeks (Node.Seeks.refl n).onGrade hbonded).trans (Node.enterCapTest_reports hbonded)
      · exact hrest
    · exact hrest
  next => exact .refl h

/-- R105: a failed attempt of a node without a bond asks the Rail Allocator for nothing. -/
theorem Node.failAttempt_spec {n : Node} (hbonded : n.bonded = false) : n.Reports n.failAttempt ∧ n.failAttempt.rail = n.rail := by
  unfold Node.failAttempt
  split
  · have hrest := (Node.Seeks.refl n).onGrade (f := fun g => { g with attempts := g.attempts + 1 }).enterRestA
    exact ⟨.of_seeks hrest hbonded, hrest.rail⟩
  · extract_lets n1
    have hfailed : n.Seeks n1 := (Node.Seeks.refl n).onGrade.gradeTo
    have hreported : (n1.reportFault .gradeFail).bonded = false := by
      rw [Node.reportFault_eq]
      exact hfailed.bonded hbonded
    have hpublished := (Node.Seeks.refl (n1.reportFault .gradeFail)).publish (r := { n1.freshRecord with attempts := 3 }) hreported
    refine ⟨(Node.Reports.of_seeks hfailed hbonded).reportFault.trans (.of_seeks hpublished hreported), ?_⟩
    rw [hpublished.rail, Node.reportFault_eq]
    exact hfailed.rail

/-- R101: the end of the test asks the Rail Allocator for nothing. -/
theorem Node.testDone_spec {n : Node} (h : n.BondGraded) (ordinary : Bool) :
    n.Reports (n.testDone ordinary) ∧ (n.testDone ordinary).rail = n.rail := by
  unfold Node.testDone
  split
  next htest =>
    have hbonded := Node.not_bonded_of_grade h (by simp [htest.2]) (by simp [htest.2])
    split
    · have hrest : n.Seeks n.stopTest := (Node.Seeks.refl n).onGrade.openRest
      exact ⟨.of_seeks hrest hbonded, hrest.rail⟩
    · exact Node.failAttempt_spec hbonded
  next => exact ⟨.refl h, rfl⟩

theorem Rail.runsTest_of_free {r : Rail} (h : r.own = none) (exchange : Option Nat) : r.runsTest exchange = false := by
  rw [Rail.runsTest, h]

/-- R101: a test taken that is not that of an own exchange leaves the request. -/
theorem Rail.testTaken_frees {r : Rail} (h : r.own = none) (exchange : Option Nat) : r.Frees (r.testTaken exchange) := by
  rw [Rail.testTaken, Rail.runsTest_of_free h]
  exact ⟨h, rfl, rfl, id, id, fun ht hs => ⟨ht, hs⟩⟩

theorem Rail.testTaken_view (r : Rail) (exchange : Option Nat) :
    (r.testTaken exchange).view = r.view ∧ (r.testTaken exchange).repeats = r.repeats := by
  unfold Rail.testTaken
  split <;> exact ⟨rfl, rfl⟩

theorem Node.testStopped_reports {n : Node} (h : n.BondGraded) (exchange : Option Nat) : n.Reports (n.testStopped exchange) := by
  unfold Node.testStopped
  split
  · obtain ⟨hview, hrepeats⟩ := n.rail.testTaken_view exchange
    have htaken : n.Reports (n.onRail fun r => r.testTaken exchange) :=
      (Node.Reports.refl h).onRail hview hrepeats fun hown => Rail.testTaken_frees hown exchange
    exact htaken.trans (Node.testDone_spec htaken.graded true).1
  · exact .refl h

theorem Node.takeCompletion_reports {n : Node} (h : n.BondGraded) (c : Completion) : n.Reports (n.takeCompletion c) := by
  unfold Node.takeCompletion
  split
  · exact Node.pulseDone_reports h c
  · exact Node.testStopped_reports h _
  · exact Node.testStopped_reports h _
  · exact (Node.Reports.refl h).onRail rfl rfl fun hown => ⟨hown, rfl, rfl, id, id, fun ht hs => ⟨ht, hs⟩⟩
  all_goals exact .refl h

theorem Node.settleTest_reports {n : Node} (h : n.BondGraded) : n.Reports n.settleTest := by
  unfold Node.settleTest
  split
  next c _ =>
    have hcleared : n.Reports (n.onRail fun r => { r with testOrdinary := none, testEnded := false }) :=
      (Node.Reports.refl h).onRail rfl rfl fun hown => ⟨hown, rfl, rfl, id, id, fun ht hs => ⟨ht, hs⟩⟩
    exact (hcleared.trans (Node.testDone_spec hcleared.graded c).1).ite (.refl h)
  next => exact .refl h

/-- The completion reports of a step (R83, R101, R136). -/
theorem Node.takeCompletions_reports {n : Node} (h : n.BondGraded) : n.Reports n.takeCompletions := by
  have hfold (cs : List Completion) (m : Node) (hm : m.BondGraded) : m.Reports (cs.foldl Node.takeCompletion m) := by
    induction cs generalizing m with
    | nil => exact .refl hm
    | cons c cs ih =>
      have hfirst := Node.takeCompletion_reports hm c
      exact hfirst.trans (ih _ hfirst.graded)
  have htaken := hfold n.duty.reports n h
  have hsettled := htaken.trans (Node.settleTest_reports htaken.graded)
  exact hsettled.trans ⟨rfl, rfl, rfl, rfl, rfl, rfl, rfl, id, .refl, hsettled.graded⟩

/-! ### Completions without a valid pulse -/

/-- No pulse of these completions met its time limit: each was ended by another level (R88, R98). -/
def Duty.PulseInvalid (d : Duty) : Prop := ∀ c ∈ d.reports, c.level = .pulse → c.cause = .invalid

/-- The Rail Allocator is asked for nothing and has no exchange. -/
structure Rail.Unasked (r : Rail) : Prop where
  own : r.own = none
  request : r.request = none
  side : r.side = .idle

theorem Node.pulseDone_of_invalid {n : Node} {c : Completion} (h : c.cause = .invalid) : (n.pulseDone c).rail = n.rail := by
  unfold Node.pulseDone
  split
  · split
    next htime _ => simp [h] at htime
    next => exact (Node.Seeks.refl n).enterRestA.rail
  · rfl

theorem Rail.Unasked.testTaken {r : Rail} (h : r.Unasked) (exchange : Option Nat) : (r.testTaken exchange).Unasked := by
  rw [Rail.testTaken, Rail.runsTest_of_free h.own]
  exact ⟨h.own, h.request, h.side⟩

theorem Node.takeCompletion_unasked {n : Node} (hgraded : n.BondGraded) (h : n.rail.Unasked) {c : Completion}
    (hc : c.level = .pulse → c.cause = .invalid) : (n.takeCompletion c).rail.Unasked := by
  have hstopped : (n.testStopped c.exchange).rail.Unasked := by
    unfold Node.testStopped
    split
    · obtain ⟨hview, hrepeats⟩ := n.rail.testTaken_view c.exchange
      have htaken : n.Reports (n.onRail fun r => r.testTaken c.exchange) :=
        (Node.Reports.refl hgraded).onRail hview hrepeats fun hown => Rail.testTaken_frees hown c.exchange
      rw [(Node.testDone_spec htaken.graded true).2]
      exact h.testTaken c.exchange
    · exact h
  unfold Node.takeCompletion
  split
  next hpulse =>
    rw [Node.pulseDone_of_invalid (hc hpulse)]
    exact h
  next => exact hstopped
  next => exact hstopped
  next => exact ⟨h.own, h.request, h.side⟩
  all_goals exact h

/-- Without a valid pulse the completions of a step ask the Rail Allocator for nothing. -/
theorem Node.takeCompletions_unasked {n : Node} (hgraded : n.BondGraded) (hpulse : n.duty.PulseInvalid) (h : n.rail.Unasked) :
    n.takeCompletions.rail.Unasked := by
  have hfold (cs : List Completion) (hcs : ∀ c ∈ cs, c.level = .pulse → c.cause = .invalid) (m : Node) (hm : m.BondGraded)
      (hu : m.rail.Unasked) : (cs.foldl Node.takeCompletion m).rail.Unasked := by
    induction cs generalizing m with
    | nil => exact hu
    | cons c cs ih =>
      exact ih (fun d hd => hcs d (List.mem_cons_of_mem _ hd)) _ (Node.takeCompletion_reports hm c).graded
        (Node.takeCompletion_unasked hm hu (hcs c List.mem_cons_self))
  have htaken := hfold n.duty.reports hpulse n hgraded h
  have hkept : (n.duty.reports.foldl Node.takeCompletion n).BondGraded := by
    have hgradedFold (cs : List Completion) (m : Node) (hm : m.BondGraded) : (cs.foldl Node.takeCompletion m).BondGraded := by
      induction cs generalizing m with
      | nil => exact hm
      | cons c cs ih => exact ih _ (Node.takeCompletion_reports hm c).graded
    exact hgradedFold _ n hgraded
  change (Node.settleTest _).rail.Unasked
  unfold Node.settleTest
  split
  next c _ =>
    split
    · have hcleared : ((n.duty.reports.foldl Node.takeCompletion n).onRail fun r =>
          { r with testOrdinary := none, testEnded := false }).BondGraded := hkept
      rw [(Node.testDone_spec hcleared c).2]
      exact ⟨htaken.own, htaken.request, htaken.side⟩
    · exact htaken
  next => exact htaken

/-! ### The levels that a final RELEASE ends (R81, R88) -/

namespace Duty.PulseInvalid

variable {d : Duty}

theorem of_none (h : d.reports = []) : d.PulseInvalid := fun c hc => by
  rw [h] at hc
  cases hc

theorem of_reports {e : Duty} (h : d.PulseInvalid) (hreports : e.reports = d.reports) : e.PulseInvalid := fun c hc => h c (hreports ▸ hc)

theorem finish {i : LevelId} {cause : EndCause} (h : d.PulseInvalid) (hi : i = .pulse → cause = .invalid) :
    (d.finish i cause).PulseInvalid := by
  intro c hc hlevel
  simp only [Duty.finish] at hc
  split at hc
  · rcases List.mem_append.1 hc with hold | hnew
    · exact h c hold hlevel
    · obtain rfl := List.mem_singleton.1 hnew
      exact hi hlevel
  · exact h c hc hlevel

theorem leave {i : LevelId} {cause : EndCause} (h : d.PulseInvalid) (hi : i = .pulse → cause = .invalid) :
    (d.leave i cause).PulseInvalid := by
  unfold Duty.leave
  split
  · exact h.of_reports (d.upd_reports i _)
  · exact h.finish hi

end Duty.PulseInvalid

theorem Duty.keep_reports (d : Duty) (i : LevelId) (r : Option LevelRequest) : (d.keep i r).reports = d.reports := by cases i <;> rfl

theorem Duty.handOver_reports (d : Duty) : d.handOver.reports = d.reports := by
  have hruns (e : Duty) : Duty.reports (match e.conv.holder with
      | some i => if (e.get i).state = .ready then (e.upd i Level.start).setpoint (e.get i).signed else e
      | none => e) = e.reports := by
    split
    · split
      · exact e.upd_reports _ _
      · rfl
    · rfl
  refine (hruns _).trans ?_
  split <;> rfl

theorem Node.suspendHere_reports (n : Node) (i : LevelId) : (n.suspendHere i).duty.reports = n.duty.reports := by
  unfold Node.suspendHere
  extract_lets l
  split
  · unfold Node.localSuspension
    split
    · split
      · rw [Node.handRail_eq]
        exact Duty.upd_reports _ _ _
      · exact Duty.upd_reports _ _ _
    · exact Duty.upd_reports _ _ _
  · rfl

/-- R88: a request that ends a PULSE ends it as invalid. -/
theorem Node.accept_pulseInvalid {n : Node} (h : n.duty.PulseInvalid) (i : LevelId) (r : LevelRequest) :
    (n.accept i r).duty.PulseInvalid := by
  unfold Node.accept
  extract_lets n1 n2
  have h1 : n1.duty.PulseInvalid := h.of_reports (n.duty.put_reports i _)
  have h2 : n2.duty.PulseInvalid := by
    change (if _ then _ else n1 : Node).duty.PulseInvalid
    split
    · exact h1.leave fun _ => rfl
    · exact h1
  split
  · split
    · exact h2.of_reports (n2.suspendHere_reports i)
    · exact h2
  · exact h1

/-- A ramp-down of a holder that is no ENDING pulse (R78). -/
theorem Node.rampDown_pulseInvalid {n : Node} (h : n.duty.PulseInvalid)
    (hpulse : n.duty.conv.holder = some .pulse → (n.duty.get .pulse).state ≠ .ending) : n.rampDown.duty.PulseInvalid := by
  have htaken (i : LevelId) (m : Node) (hm : m.duty.PulseInvalid) : (m.takeKept i).duty.PulseInvalid := by
    unfold Node.takeKept
    split
    · refine Node.accept_pulseInvalid (n := m.onDuty _) ?_ i _
      exact hm.of_reports (m.duty.keep_reports i none)
    · exact hm
  unfold Node.rampDown
  refine Duty.PulseInvalid.of_reports ?_ (Duty.handOver_reports _)
  split
  next i hholder =>
    split
    next hending =>
      refine htaken i _ (h.finish fun hi => ?_)
      subst hi
      exact absurd hending (hpulse hholder)
    next => exact h
  next => exact h

theorem Node.settle_pulseInvalid {n : Node} (h : n.duty.PulseInvalid)
    (hpulse : n.duty.conv.holder = some .pulse → (n.duty.get .pulse).state ≠ .ending) (old : Option LevelId) :
    (n.settle old).duty.PulseInvalid := by
  unfold Node.settle Node.dropSetpoint Node.rampIfIdle
  split
  · exact h
  · split
    · exact Node.rampDown_pulseInvalid (n := n.onDuty fun d => d.setpoint 0) h hpulse
    · exact h

/-- The end of another level leaves no pulse that met its time limit, where the holder is not ENDING. -/
theorem Node.endLevel_pulseInvalid {n : Node} (h : n.duty.PulseInvalid) (hending : n.notEnding) {i : LevelId} (hi : i ≠ .pulse) :
    (n.endLevel i).duty.PulseInvalid := by
  have hleave : ((n.onDuty fun d => d.leave i .ended).settle n.duty.owner).duty.PulseInvalid := by
    have hleft : (n.duty.leave i .ended).PulseInvalid := h.leave fun hpulse => absurd hpulse hi
    refine Node.settle_pulseInvalid (n := n.onDuty fun d => d.leave i .ended) hleft (fun hholder => ?_) _
    obtain ⟨hheld, hother, hlevels⟩ := n.duty.leave_spec i .ended
    rw [Node.onDuty_duty, hlevels .pulse hi.symm]
    refine hending .pulse ?_
    by_cases hself : n.duty.conv.holder = some i
    · rw [Node.onDuty_duty, (hheld hself).2] at hholder
      exact hholder
    · rw [Node.onDuty_duty, (hother hself).2] at hholder
      exact hholder
  unfold Node.endLevel
  split
  · refine Node.settle_pulseInvalid (n := n.onDuty _) ?_ (fun hholder => ?_) _
    · dsimp only [Node.onDuty]
      split
      · exact h.of_reports (n.duty.upd_reports i _)
      · exact h.of_reports (n.duty.upd_reports i _)
    · dsimp only [Node.onDuty] at hholder ⊢
      have hconv : n.duty.conv.holder = some .pulse := by
        split at hholder
        · simpa using hholder
        · simpa using hholder
      have hget : ∀ (d : Duty) (x : Int), (d.setpoint x).get .pulse = d.get .pulse := fun d x => d.get_setpoint x .pulse
      split
      · rw [hget, Duty.get_upd_other _ _ hi.symm]
        exact hending .pulse hconv
      · rw [Duty.get_upd_other _ _ hi.symm]
        exact hending .pulse hconv
  · exact hleave
  · exact hleave
  · exact h
  · exact h

end Sys2Proof.Machine
end

section
/-! PROOFS. FRAME_COMPLETE_CLEAN (R22, R24): the transmission ends and the node hears its own frame. What every own notice does first,
and the own NEED, SUSPEND and RESUME (R85, R121, R129, R138). -/

namespace Sys2Proof.Machine

/-! ### The end of a step, block by block -/

theorem Node.conclude_eq (m before : Node) : m.conclude before
    = { m.takeCompletions with line := { m.takeCompletions.line with queue := (m.conclude before).line.queue } } :=
  m.takeCompletions.withPresence_eq before

@[simp] theorem Node.conclude_pres (m before : Node) : (m.conclude before).pres = m.takeCompletions.pres := by rw [Node.conclude_eq]
@[simp] theorem Node.conclude_peers (m before : Node) : (m.conclude before).peers = m.takeCompletions.peers := by rw [Node.conclude_eq]
@[simp] theorem Node.conclude_mon (m before : Node) : (m.conclude before).mon = m.takeCompletions.mon := by rw [Node.conclude_eq]
@[simp] theorem Node.conclude_duty (m before : Node) : (m.conclude before).duty = m.takeCompletions.duty := by rw [Node.conclude_eq]
@[simp] theorem Node.conclude_grade (m before : Node) : (m.conclude before).grade = m.takeCompletions.grade := by rw [Node.conclude_eq]
@[simp] theorem Node.conclude_rail (m before : Node) : (m.conclude before).rail = m.takeCompletions.rail := by rw [Node.conclude_eq]
@[simp] theorem Node.conclude_pair (m before : Node) : (m.conclude before).pair = m.takeCompletions.pair := by rw [Node.conclude_eq]
@[simp] theorem Node.conclude_pos (m before : Node) : (m.conclude before).pos = m.takeCompletions.pos := by rw [Node.conclude_eq]
@[simp] theorem Node.conclude_serv (m before : Node) : (m.conclude before).serv = m.takeCompletions.serv := by rw [Node.conclude_eq]

/-! ### The transmission ends -/

/-- The node at the clean completion of its frame, before it hears it (R22, log entry 6). -/
def Node.sent (n : Node) : Node :=
  let n1 : Node := n.onLine fun l => { l with state := .busy, sending := none, abandons := 0, cleanDue := false }
  if n.line.cleanDue then n1.latchFault .lineQuiet else n1

theorem Node.frameCompleteClean_of_sending {n : Node} {q : Queued} (hline : n.line.state = .sending) (hsending : n.line.sending = some q) :
    n.frameCompleteClean = n.sent.hearOwn q := by
  unfold Node.frameCompleteClean
  rw [hline, hsending]
  rfl

/-- The fault list after the completion: LINE QUIET latches at the first clean frame after a line rejoin. -/
def Node.sentServ (n : Node) : Service :=
  if n.line.cleanDue then
    { n.serv with faults := n.serv.faults.map fun e => if e.code = .lineQuiet then { e with active := false } else e }
  else n.serv

/-- The completion changes the line and the fault list alone. -/
theorem Node.sent_eq (n : Node) : n.sent = { n with
    line := { n.line with state := .busy, sending := none, abandons := 0, cleanDue := false }, serv := n.sentServ } := by
  unfold Node.sent Node.sentServ
  extract_lets n1
  split
  · rw [Node.latchFault_eq]
    rfl
  · rfl

/-- The node that has heard its own frame, before the block that owns its kind takes it (R24, R139, R159). -/
def Node.noted (n : Node) : Node := (n.sent.railNote n.address).pairNote n.address

/-- A node with these silence timers, flag, line and fault list: what the hearing of an own frame changes first. -/
def Node.retimed (n : Node) (line : Line) (serv : Service) (party : Timer) (silent : Bool) (partner : Timer) : Node :=
  { n with line := line, serv := serv, rail := { n.rail with silenceTimer := party }
           pair := { n.pair with silent := silent, silenceTimer := partner } }

/-- Hearing an own frame changes line, fault list and silence timers before the block that owns its kind takes it; the Pairing Engine's
only where the node is its own partner. -/
theorem Node.noted_eq (n : Node) : ∃ party silent partner, n.noted = n.retimed n.sent.line n.sentServ party silent partner
    ∧ (n.pair.partner ≠ some n.address → silent = n.pair.silent ∧ partner = n.pair.silenceTimer) := by
  have hrail := n.sent.railNote_eq n.address
  have hpair : (n.sent.railNote n.address).pair = n.pair := by rw [hrail, Node.sent_eq]
  have hline : (n.sent.railNote n.address).line = n.sent.line := by rw [hrail]
  obtain ⟨silent, partner, hsilence⟩ : ∃ silent partner, ((n.sent.railNote n.address).pairNote n.address).pair
      = { n.pair with silent := silent, silenceTimer := partner } := by
    rw [← hpair]
    unfold Node.pairNote Node.startSilence
    split
    · split <;> exact ⟨_, _, rfl⟩
    · exact ⟨_, _, rfl⟩
  refine ⟨(n.sent.railNote n.address).rail.silenceTimer, silent, partner, ?_, fun hother => ?_⟩
  · unfold Node.noted Node.retimed
    rw [Node.pairNote_eq, hsilence, hrail, Node.sent_eq]
  · rw [Node.pairNote_of_other (by rw [hpair]; exact fun h => hother h.2), hpair] at hsilence
    rw [hsilence]
    exact ⟨rfl, rfl⟩

/-- The node after its own notice `x` is heard and the step has ended. -/
def Node.heardSelf (n : Node) (x : Notice) : Node := (n.sent.deliver n.address x).conclude n

theorem Node.sent_address (n : Node) : n.sent.address = n.address := by rw [Node.sent_eq]; rfl

/-- What every own notice does first comes before the block that owns its kind. -/
theorem Node.noted_first (n : Node) : (if n.address = n.sent.address then (n.sent.railNote n.address).pairNote n.address
    else ((n.sent.railNote n.address).pairNote n.address).peerTouch n.address) = n.noted := if_pos n.sent_address.symm

theorem Node.noted_address (n : Node) : n.noted.address = n.address := by
  obtain ⟨party, silent, partner, hnoted, -⟩ := n.noted_eq
  rw [hnoted]
  rfl

theorem Node.heardSelf_need (n : Node) (id dir units : Nat) (e : Fig) :
    n.heardSelf (.need id dir units e) = (n.noted.heardNeed n.noted.address id dir e).conclude n := by
  rw [n.noted_address]
  exact congrArg (fun k : Node => (k.heardNeed n.address id dir e).conclude n) n.noted_first

theorem Node.heardSelf_agree (n : Node) (t : AgreeTerms) :
    n.heardSelf (.agree t.id t.counterpart t.kind t.dir t.units t.draw t.expected) = (n.noted.heardAgree n.noted.address t).conclude n := by
  rw [n.noted_address]
  exact congrArg (fun k : Node => (k.heardAgree n.address t).conclude n) n.noted_first

theorem Node.heardSelf_release (n : Node) (id units cause : Nat) :
    n.heardSelf (.release id units cause) = (n.noted.heardRelease n.noted.address id units cause).conclude n := by
  rw [n.noted_address]
  exact congrArg (fun k : Node => (k.heardRelease n.address id units cause).conclude n) n.noted_first

theorem Node.heardSelf_suspend (n : Node) (id : Nat) :
    n.heardSelf (.suspend id) = (n.noted.heardSuspend n.noted.address id).conclude n := by
  rw [n.noted_address]
  exact congrArg (fun k : Node => (k.heardSuspend n.address id).conclude n) n.noted_first

theorem Node.heardSelf_resume (n : Node) (id : Nat) :
    n.heardSelf (.resume id) = (n.noted.heardResume n.noted.address id).conclude n := by
  rw [n.noted_address]
  exact congrArg (fun k : Node => (k.heardResume n.address id).conclude n) n.noted_first

theorem Node.heardSelf_bind (n : Node) (x : Nat) :
    n.heardSelf (.bind x) = (n.noted.heardBind n.noted.address x).conclude n := by
  rw [n.noted_address]
  exact congrArg (fun k : Node => (k.heardBind n.address x).conclude n) n.noted_first

theorem Node.heardSelf_claim (n : Node) (k y : Nat) :
    n.heardSelf (.claim k y) = (n.noted.heardClaim n.noted.address k y).conclude n := by
  rw [n.noted_address]
  exact congrArg (fun m : Node => (m.heardClaim n.address k y).conclude n) n.noted_first

theorem Node.heardSelf_engage (n : Node) (k step : Nat) (soc volt : Option Fig) :
    n.heardSelf (.engage k step soc volt) = (n.noted.heardEngage n.noted.address k step soc volt).conclude n := by
  rw [n.noted_address]
  exact congrArg (fun m : Node => (m.heardEngage n.address k step soc volt).conclude n) n.noted_first

theorem Node.heardSelf_vacate (n : Node) (k step reason : Nat) :
    n.heardSelf (.vacate k step reason) = (n.noted.heardVacate n.noted.address k step reason).conclude n := by
  rw [n.noted_address]
  exact congrArg (fun m : Node => (m.heardVacate n.address k step reason).conclude n) n.noted_first

/-- Its own READOUT, FAULT and GRADE reach no block of the node (R24). -/
theorem Node.heardSelf_table {n : Node} {k : Kind} {payload : List Byte} {x : Notice} (hk : k = .readout ∨ k = .fault ∨ k = .grade)
    (hx : decode k n.address payload = some x) : n.heardSelf x = n.noted.conclude n := by
  obtain ⟨-, fs, rfl⟩ := decode_spec hx
  rcases hk with rfl | rfl | rfl
  · exact congrArg (Node.conclude · n) n.noted_first
  · exact congrArg (Node.conclude · n) n.noted_first
  · exact congrArg (Node.conclude · n) (if_pos n.sent_address.symm)

theorem Node.noted_settled {n : Node} (h : n.Settled) : n.noted.Settled := by
  obtain ⟨party, silent, partner, hnoted, -⟩ := n.noted_eq
  rw [hnoted]
  exact h

/-! ### The own NEED (R129) -/

theorem Node.heardNeed_own {n : Node} {p : Plan} {id : Nat} (hplan : n.pres.plan = some p) (hside : n.rail.side = .needing)
    (hcurrent : n.rail.current = some id) (dir : Nat) (e : Fig) : n.heardNeed n.address id dir e
      = n.onRail fun r => { r with side := .window, needTimer := none, offers := [], windowTimer := some (n.mon.now + p.offerWindow) } := by
  unfold Node.heardNeed
  rw [hplan]
  dsimp only
  rw [if_pos rfl, if_pos ⟨hside, hcurrent⟩]
  rfl

/-- R129: the own NEED opens the offer window. -/
theorem Node.ownNeed_opensWindow {n : Node} (hsettled : n.Settled) {p : Plan} {id : Nat} (hplan : n.pres.plan = some p)
    (hside : n.rail.side = .needing) (hcurrent : n.rail.current = some id) (dir : Nat) (e : Fig) (before : Node) :
    ((n.heardNeed n.address id dir e).conclude before).rail = { n.rail with
      side := .window, needTimer := none, offers := [], windowTimer := some (n.mon.now + p.offerWindow) } := by
  have hopens := Node.heardNeed_own hplan hside hcurrent dir e
  have hend : (n.heardNeed n.address id dir e).Settled := by rw [hopens]; exact hsettled
  rw [Node.conclude_rail, Node.takeCompletions_of_settled hend, hopens]
  rfl

/-! ### The own SUSPEND and RESUME (R85, R121, R138) -/

theorem partyInView_of_mem {id a : Nat} {v : List Exchange} (h : ∃ e ∈ v, e.id = id ∧ (e.initiator = a ∨ e.counterpart = a)) :
    partyInView id a v = true := by
  obtain ⟨e, he, hid, hparty⟩ := h
  refine List.any_eq_true.2 ⟨e, he, ?_⟩
  simpa [Exchange.has, hid] using hparty

theorem Node.heardSuspend_own {n : Node} {o : OwnRecord} {p : Plan} (hown : n.rail.own = some o) (hplan : n.pres.plan = some p)
    (hview : partyInView o.id n.address n.rail.view = true) :
    n.heardSuspend n.address o.id = n.onRail fun r => { r with
      view := takeState r.view n.address o.id true
      repeats := (r.repeats.filter fun y => y.1 != .suspend o.id).filter
        fun x => inView (railNoticeExchange x.1) (takeState r.view n.address o.id true)
      own := some { o with flagOwn := true }, suspendTimer := some (n.mon.now + p.suspendHold * 1000) } := by
  simp [Node.heardSuspend, hview, Node.stopRail, Node.setRail, hown, Node.startHold, hplan, Node.onRail, Node.after]

/-- R121, R138: the own SUSPEND sets the node's own flag and starts the suspend hold timer; the levels stand. -/
theorem Node.ownSuspend_holds {n : Node} (hsettled : n.Settled) {o : OwnRecord} {p : Plan} (hown : n.rail.own = some o)
    (hplan : n.pres.plan = some p) (hview : partyInView o.id n.address n.rail.view = true) (before : Node) :
    let m := (n.heardSuspend n.address o.id).conclude before
    m.rail.own = some { o with flagOwn := true } ∧ m.rail.suspendTimer = some (n.mon.now + p.suspendHold * 1000) ∧ m.duty = n.duty := by
  have hholds := Node.heardSuspend_own hown hplan hview
  have hend : (n.heardSuspend n.address o.id).Settled := by rw [hholds]; exact hsettled
  dsimp only
  rw [Node.conclude_rail, Node.conclude_duty, Node.takeCompletions_of_settled hend, hholds]
  exact ⟨rfl, rfl, rfl⟩

/-- R86: a level returns under the owner that it has, so that no ramp-down is due. -/
theorem Node.returnLevel_eq (n : Node) (i : LevelId) : n.returnLevel i = n.onDuty fun d =>
    if (d.get i).state = .suspended ∧ (d.get i).heldHere = false ∧ (d.get i).heldThere = false ∧ (d.get i).resumeOut = false then
      if d.conv.holder = some i ∧ d.owner = some i then (d.upd i Level.start).setpoint (d.get i).signed
      else d.upd i fun l => { l with state := .ready }
    else d := by
  unfold Node.returnLevel
  extract_lets l
  by_cases hreturns : l.state = .suspended ∧ l.heldHere = false ∧ l.heldThere = false ∧ l.resumeOut = false
  · rw [if_pos hreturns]
    have howner : (n.onDuty fun d => d.upd i fun l => { l with state := .ready }).duty.owner = n.duty.owner := by
      refine Duty.owner_congr fun j => ?_
      by_cases hj : j = i
      · subst hj
        simp [show (n.duty.get j).state = .suspended from hreturns.1, LevelState.asks]
      · simp [hj]
    rw [Node.settle_of_owner howner]
    simp only [Node.onDuty, show (n.duty.get i).state = .suspended ∧ (n.duty.get i).heldHere = false ∧ (n.duty.get i).heldThere = false
      ∧ (n.duty.get i).resumeOut = false from hreturns, and_self, if_true]
    split <;> rfl
  · rw [if_neg hreturns]
    simp only [Node.onDuty, show ¬((n.duty.get i).state = .suspended ∧ (n.duty.get i).heldHere = false ∧ (n.duty.get i).heldThere = false
      ∧ (n.duty.get i).resumeOut = false) from hreturns, if_false]

/-- The levels after the node's own RESUME is heard (R85). -/
def Duty.ownResumed (d : Duty) (i : LevelId) : Duty :=
  if (d.get i).state = .suspended then
    let d1 : Duty := d.upd i fun l => { l with resumeOut := false }
    if (d.get i).heldHere = false ∧ (d.get i).heldThere = false then
      if d1.conv.holder = some i ∧ d1.owner = some i then (d1.upd i Level.start).setpoint (d1.get i).signed
      else d1.upd i fun l => { l with state := .ready }
    else d1
  else d

theorem Node.ownResumeHeard_eq (n : Node) (i : LevelId) : n.ownResumeHeard i = n.onDuty fun d => d.ownResumed i := by
  unfold Node.ownResumeHeard Duty.ownResumed
  by_cases hsuspended : (n.duty.get i).state = .suspended
  · rw [if_pos hsuspended, Node.returnLevel_eq]
    simp [Node.onDuty, hsuspended]
  · simp [Node.onDuty, hsuspended]

theorem Duty.ownResumed_reports (d : Duty) (i : LevelId) : (d.ownResumed i).reports = d.reports := by
  unfold Duty.ownResumed
  extract_lets d1
  have h1 : d1.reports = d.reports := d.upd_reports i _
  split
  · split
    · split
      · exact (d1.upd_reports i _).trans h1
      · exact (d1.upd_reports i _).trans h1
    · exact h1
  · rfl

/-- R85, R86: the level that waited for its own RESUME waits no more, and returns where neither party holds it. -/
theorem Duty.ownResumed_get {d : Duty} {i : LevelId} (hsuspended : (d.get i).state = .suspended) :
    ((d.ownResumed i).get i).resumeOut = false
      ∧ ((d.get i).heldHere = false → (d.get i).heldThere = false →
          ((d.ownResumed i).get i).state = .ready ∨ ((d.ownResumed i).get i).state = .running)
      ∧ ((d.get i).heldHere = true ∨ (d.get i).heldThere = true → ((d.ownResumed i).get i).state = .suspended) := by
  unfold Duty.ownResumed
  extract_lets d1
  have h1 : d1.get i = { d.get i with resumeOut := false } := d.get_upd i _
  rw [if_pos hsuspended]
  split
  next hfree =>
    have hheld : ¬((d.get i).heldHere = true ∨ (d.get i).heldThere = true) := by simp [hfree]
    split
    · rw [Duty.get_setpoint, Duty.get_upd, h1]
      exact ⟨rfl, fun _ _ => .inr rfl, fun h => absurd h hheld⟩
    · rw [Duty.get_upd, h1]
      exact ⟨rfl, fun _ _ => .inl rfl, fun h => absurd h hheld⟩
  next hheld =>
    rw [h1]
    exact ⟨rfl, fun hhere hthere => absurd ⟨hhere, hthere⟩ hheld, fun _ => hsuspended⟩

theorem Node.heardResume_own {n : Node} {o : OwnRecord} (hown : n.rail.own = some o)
    (hview : partyInView o.id n.address n.rail.view = true) : ∃ view repeats, n.heardResume n.address o.id = { n with
      rail := { n.rail with
        view := view, repeats := repeats, own := some { o with flagOwn := false }
        suspendTimer := if o.flagOther = true then n.rail.suspendTimer else none },
      duty := if n.rail.side = .party then n.duty.ownResumed o.level else n.duty } := by
  refine ⟨takeState n.rail.view n.address o.id false, (n.rail.repeats.filter fun y => y.1 != .resume o.id).filter
    fun x => inView (railNoticeExchange x.1) (takeState n.rail.view n.address o.id false), ?_⟩
  by_cases hparty : n.rail.side = .party <;>
    simp [Node.heardResume, hview, Node.stopRail, Node.setRail, hown, Node.onRail, hparty, Node.ownResumeHeard_eq, Node.onDuty]

/-- R86, R121, R138: the own RESUME clears the node's own flag, and with the other's the suspend hold timer, and its level returns. -/
theorem Node.ownResume_returns {n : Node} (hsettled : n.Settled) {o : OwnRecord} (hown : n.rail.own = some o)
    (hview : partyInView o.id n.address n.rail.view = true) (before : Node) :
    let m := (n.heardResume n.address o.id).conclude before
    m.rail.own = some { o with flagOwn := false }
      ∧ m.rail.suspendTimer = (if o.flagOther = true then n.rail.suspendTimer else none)
      ∧ (n.rail.side = .party → m.duty = n.duty.ownResumed o.level) := by
  obtain ⟨view, repeats, hresumes⟩ := Node.heardResume_own hown hview
  have hend : (n.heardResume n.address o.id).Settled := by
    rw [hresumes]
    refine ⟨?_, hsettled.2⟩
    dsimp only
    split
    · exact (Duty.ownResumed_reports _ _).trans hsettled.1
    · exact hsettled.1
  dsimp only
  rw [Node.conclude_rail, Node.conclude_duty, Node.takeCompletions_of_settled hend, hresumes]
  exact ⟨rfl, rfl, fun hparty => if_pos hparty⟩

end Sys2Proof.Machine
end

section
/-! PROOFS. The own AGREE (R119, R126, R132-R134). -/

namespace Sys2Proof.Machine

/-! ### The judgement of an AGREE (R119) -/

theorem busy_iff {a : Nat} {v : List Exchange} : busy a v = true ↔ a ≠ 0 ∧ ∃ e ∈ v, e.initiator = a ∨ e.counterpart = a := by
  simp [busy, Exchange.has]

theorem not_busy_iff {a : Nat} {v : List Exchange} :
    ¬busy a v = true ↔ ∀ e ∈ v, a ≠ 0 → e.initiator ≠ a ∧ e.counterpart ≠ a := by
  rw [busy_iff]
  constructor
  · intro h e he ha
    exact ⟨fun hi => h ⟨ha, e, he, .inl hi⟩, fun hc => h ⟨ha, e, he, .inr hc⟩⟩
  · rintro h ⟨ha, e, he, hi | hc⟩
    · exact (h e he ha).1 hi
    · exact (h e he ha).2 hc

theorem judgeAgree_of_fits {p : Plan} {v : List Exchange} {src : Nat} {t : AgreeTerms} (h : t.fits p v src) :
    judgeAgree p v src t = .valid := by
  obtain ⟨hsound, hslots, hpool, hdraw, hsrc, hcounterpart⟩ := h
  unfold judgeAgree
  rw [if_neg (by rw [inView_iff]; exact hsound), if_neg]
  rintro (h | h | h | h | h)
  · omega
  · exact absurd h (Nat.not_lt.2 hpool)
  · exact h hdraw
  · exact not_busy_iff.2 hsrc h
  · exact not_busy_iff.2 hcounterpart h

theorem judgeAgree_of_not_fits {p : Plan} {v : List Exchange} {src : Nat} {t : AgreeTerms} (hsound : ¬t.unsound v src)
    (h : ¬t.fits p v src) : judgeAgree p v src t = .void := by
  unfold judgeAgree
  rw [if_neg (by rw [inView_iff]; exact hsound), if_pos]
  by_contra hroom
  simp only [not_or, not_le, not_lt, ne_eq, not_not] at hroom
  obtain ⟨hslots, hpool, hdraw, hsrc, hcounterpart⟩ := hroom
  exact h ⟨hsound, hslots, hpool, hdraw, not_busy_iff.1 hsrc, not_busy_iff.1 hcounterpart⟩

/-! ### The end of a step that handed at most a notice of the Rail Allocator -/

/-- A test for room leaves a settled node settled. -/
theorem Node.roomTest_settled {n : Node} (h : n.Settled) : n.roomTest.Settled := by
  have hasks := n.roomTest_asks
  refine ⟨by rw [Node.roomTest_eq]; exact h.1, ?_⟩
  rw [hasks.testEnded, hasks.testOrdinary]
  exact h.2

/-! ### A valid own AGREE -/

theorem Node.ownAgree_rail (n : Node) (p : Plan) (t : AgreeTerms) :
    (n.rail.side = .agreeing ∧ n.rail.current = some t.id →
        (n.ownAgree p t true).rail.own = some (t.own true n.rail.dir 0) ∧ (n.ownAgree p t true).rail.side = .starting
          ∧ (n.ownAgree p t true).rail.startTimer = some (n.mon.now + 50)
          ∧ (n.ownAgree p t true).rail.silenceTimer = some (n.mon.now + 2 * p.presencePeriod))
      ∧ (¬(n.rail.side = .agreeing ∧ n.rail.current = some t.id) → (n.ownAgree p t true).rail.own = n.rail.own
          ∧ (inView t.id n.rail.view = true → (.release t.id 0 4, n.mon.now + 1000) ∈ (n.ownAgree p t true).rail.repeats))
      ∧ (n.ownAgree p t true).rail.wait = 0 ∧ (n.ownAgree p t true).rail.view = n.rail.view
      ∧ (n.Settled → (n.ownAgree p t true).Settled) := by
  unfold Node.ownAgree
  rw [if_pos rfl]
  by_cases hmine : n.rail.side = .agreeing ∧ n.rail.current = some t.id
  · rw [if_pos hmine]
    exact ⟨fun _ => ⟨rfl, rfl, rfl, rfl⟩, fun h => absurd hmine h, rfl, rfl, id⟩
  · rw [if_neg hmine, Node.handRail_eq]
    refine ⟨fun h => absurd h hmine, fun _ => ⟨rfl, fun hview => ?_⟩, rfl, rfl, id⟩
    simp [Node.onRail, railNoticeExchange, hview, causeDeclined]

/-- R126, R132: the own AGREE that fits the view. -/
theorem Node.ownAgree_valid {n : Node} (hsettled : n.Settled) {p : Plan} (hplan : n.pres.plan = some p) {t : AgreeTerms}
    (hfits : t.fits p n.rail.view n.address) (before : Node) :
    let m := (n.heardAgree n.address t).conclude before
    let mine : Prop := n.rail.side = .agreeing ∧ n.rail.current = some t.id
    m.rail.wait = 0
      ∧ (∀ e, e ∈ m.rail.view ↔ e ∈ n.rail.view ∨ e = { id := t.id, initiator := n.address, counterpart := t.counterpart
                                                        units := t.units, draw := t.draw, suspended := false })
      ∧ (mine → m.rail.side = .starting ∧ m.rail.own = some (t.own true n.rail.dir 0) ∧ m.rail.startTimer = some (n.mon.now + 50)
          ∧ m.rail.silenceTimer = some (n.mon.now + 2 * p.presencePeriod))
      ∧ (¬mine → m.rail.own = n.rail.own ∧ (.release t.id 0 4, n.mon.now + 1000) ∈ m.rail.repeats) := by
  intro m mine
  have hinitiator : t.id / 16 = n.address := by
    by_contra hother
    exact hfits.1 (.inr (.inl hother))
  have hheard : n.heardAgree n.address t = ((n.setRail (insertExchange t.record n.rail.view)).ownAgree p t true).roomTest := by
    unfold Node.heardAgree
    rw [hplan]
    dsimp only
    rw [judgeAgree_of_fits hfits]
    dsimp only
    rw [if_pos rfl]
  obtain ⟨hstarts, hdeclines, hwait, hview, hkept⟩ := (n.setRail (insertExchange t.record n.rail.view)).ownAgree_rail p t
  generalize hk : (n.setRail (insertExchange t.record n.rail.view)).ownAgree p t true = k at hheard hstarts hdeclines hwait hview hkept
  have hm : m.rail = k.roomTest.rail := by
    have hend : (n.heardAgree n.address t).Settled := by rw [hheard]; exact Node.roomTest_settled (hkept hsettled)
    rw [← hheard, ← Node.takeCompletions_of_settled hend]
    exact Node.conclude_rail _ _
  have hasks := k.roomTest_asks
  rw [hm]
  refine ⟨hasks.wait.trans hwait, fun e => ?_, fun hmine => ?_, fun hother => ⟨?_, ?_⟩⟩
  · rw [hasks.view, hview, Node.setRail, Node.onRail_rail, mem_insertExchange, or_comm, AgreeTerms.record, hinitiator]
  · obtain ⟨hown, hside, hstart, hsilence⟩ := hstarts hmine
    rw [Node.roomTest_of_side (by rw [hside]; nofun)]
    exact ⟨hside, hown, hstart, hsilence⟩
  · exact hasks.own.trans (hdeclines hother).1
  · rw [hasks.repeats]
    exact (hdeclines hother).2 (inView_iff.2 ⟨t.record, mem_insertExchange.2 (.inl rfl), rfl⟩)

/-! ### A void own AGREE -/

/-- The node that waits again with the wait count raised (R126, R132). -/
def Node.waitsAgain (n : Node) : Node := n.backToWaiting.raiseWait

theorem Node.waitsAgain_asked (n : Node) (p : Plan) (q : Request) : n.waitsAgain.askedUnits p q
    = if p.weight n.address = 0 then (if p.share = 0 then 1 else min q.units p.share) else q.units := by
  have hwait : 0 < n.waitsAgain.rail.wait := by
    change 0 < min 255 (n.rail.wait + 1)
    omega
  unfold Node.askedUnits
  simp only [hwait, and_true]
  rfl

theorem Node.roomTest_of_noRoom {n : Node} {p : Plan} {q : Request} (hplan : n.pres.plan = some p) (hrequest : n.rail.request = some q)
    (h : n.rail.retryTimer.isSome = true ∨ ¬n.hasRoom p (n.askedUnits p q)) : n.roomTest = n := by
  unfold Node.roomTest
  rw [hplan, hrequest]
  dsimp only
  rw [if_neg]
  rintro ⟨-, hretry, hroom⟩
  rcases h with h | h
  · simp [hretry] at h
  · exact h ((n.room_iff p _).1 hroom)

theorem Node.roomTest_of_room {n : Node} {p : Plan} {q : Request} (hplan : n.pres.plan = some p) (hrequest : n.rail.request = some q)
    (hside : n.rail.side = .waiting) (hretry : n.rail.retryTimer = none) (hroom : n.hasRoom p (n.askedUnits p q)) :
    (q.isTest = true → n.roomTest.rail.side = .needing ∧ n.roomTest.rail.current = some n.nextId
        ∧ n.roomTest.rail.asked = n.askedUnits p q)
      ∧ (q.isTest = false → n.pair.partner.isSome = true → n.roomTest.rail.side = .agreeing
          ∧ n.roomTest.rail.current = some n.nextId ∧ n.roomTest.rail.asked = n.askedUnits p q) := by
  unfold Node.roomTest
  rw [hplan, hrequest]
  dsimp only
  rw [if_pos ⟨hside, hretry, (n.room_iff p _).2 hroom⟩]
  cases q with
  | test dir units target bound expected =>
    refine ⟨fun _ => ?_, nofun⟩
    rw [Node.handNeed_rail]
    exact ⟨rfl, rfl, rfl⟩
  | join units =>
    refine ⟨nofun, fun _ hpartner => ?_⟩
    obtain ⟨x, hx⟩ := Option.isSome_iff_exists.1 hpartner
    have hjoin : n.handJoin p (n.askedUnits p (.join units))
        = (n.handAgree p n.nextId x 1 .source (n.askedUnits p (.join units)) none).onRail fun r => { r with serial := (r.serial + 1) % 16 } := by
      unfold Node.handJoin
      rw [hx]
    dsimp only
    rw [hjoin, Node.onRail_rail, Node.handAgree_rail]
    exact ⟨rfl, rfl, rfl⟩

/-- R126, R132: the own AGREE that does not fit the view is void, and a request held tests for room anew. -/
theorem Node.ownAgree_void {n : Node} (hsettled : n.Settled) {p : Plan} (hplan : n.pres.plan = some p) {t : AgreeTerms}
    (hsound : ¬t.unsound n.rail.view n.address) (hnot : ¬t.fits p n.rail.view n.address) (before : Node) :
    let m := (n.heardAgree n.address t).conclude before
    let mine : Prop := n.rail.side = .agreeing ∧ n.rail.current = some t.id
    m.rail.view = n.rail.view ∧ m.rail.own = n.rail.own ∧ m.rail.wait = min 255 (n.rail.wait + 1)
      ∧ (mine → m.rail = n.waitsAgain.roomTest.rail) := by
  intro m mine
  have hheard : n.heardAgree n.address t = (if n.rail.side = .agreeing ∧ n.rail.current = some t.id then n.waitsAgain
      else n.raiseWait).roomTest := by
    unfold Node.heardAgree
    rw [hplan]
    dsimp only
    rw [judgeAgree_of_not_fits hsound hnot]
    dsimp only
    rw [if_pos rfl]
    rfl
  have hbefore : ∃ k : Node, n.heardAgree n.address t = k.roomTest ∧ k.Settled ∧ k.rail.view = n.rail.view ∧ k.rail.own = n.rail.own
      ∧ k.rail.wait = min 255 (n.rail.wait + 1) ∧ (mine → k = n.waitsAgain) := by
    by_cases hmine : n.rail.side = .agreeing ∧ n.rail.current = some t.id
    · rw [if_pos hmine] at hheard
      exact ⟨_, hheard, hsettled, rfl, rfl, rfl, fun _ => rfl⟩
    · rw [if_neg hmine] at hheard
      exact ⟨_, hheard, hsettled, rfl, rfl, rfl, fun h => absurd h hmine⟩
  obtain ⟨k, hk, hkept, hview, hown, hwait, hagain⟩ := hbefore
  have hm : m.rail = k.roomTest.rail := by
    have hend : (n.heardAgree n.address t).Settled := by rw [hk]; exact Node.roomTest_settled hkept
    rw [← hk, ← Node.takeCompletions_of_settled hend]
    exact Node.conclude_rail _ _
  have hasks := k.roomTest_asks
  rw [hm]
  exact ⟨hasks.view.trans hview, hasks.own.trans hown, hasks.wait.trans hwait, fun hmine => by rw [hagain hmine]⟩

end Sys2Proof.Machine
end

section
/-! PROOFS. The own RELEASE (R120, R135-R137). -/

namespace Sys2Proof.Machine

/-! ### The view after an own RELEASE (R120) -/

/-- The record of an id in a view without doubles. -/
theorem eq_of_id {v : List Exchange} (hnodup : (v.map Exchange.id).Nodup) {e f : Exchange} (he : e ∈ v) (hf : f ∈ v) (hid : e.id = f.id) :
    e = f := List.inj_on_of_nodup_map hnodup he hf hid

theorem takeRelease_final {p : Plan} {v : List Exchange} {a id : Nat} (h : ∀ e ∈ v, e.id = id → e.has a = true) :
    takeRelease p v a id 0 = v.filter fun e => e.id != id := by
  rw [← List.filterMap_eq_filter]
  refine List.filterMap_congr fun e he => ?_
  by_cases hid : e.id = id
  · simp [hid, h e he hid, Option.guard]
  · simp [hid, Option.guard]

theorem takeRelease_partial {p : Plan} {v : List Exchange} {a id units : Nat} (hunits : 0 < units)
    (h : ∀ e ∈ v, e.id = id → e.has a = true) : takeRelease p v a id units = v.map fun e =>
      if e.id = id ∧ units < e.units then { e with units := units, draw := units - min units p.share + 1 } else e := by
  rw [← List.filterMap_eq_map]
  refine List.filterMap_congr fun e he => ?_
  by_cases hid : e.id = id
  · by_cases hlower : units < e.units <;> simp [hid, h e he hid, hlower, hunits.ne', drawOf]
  · simp [hid]

theorem unitsInView_of_mem {v : List Exchange} (hnodup : (v.map Exchange.id).Nodup) {e : Exchange} (he : e ∈ v) :
    unitsInView e.id v = e.units := by
  unfold unitsInView
  cases hfind : v.find? fun f => f.id == e.id with
  | none => exact absurd (List.find?_eq_none.1 hfind e he) (by simp)
  | some f =>
    have hid : f.id = e.id := by simpa using List.find?_some hfind
    rw [eq_of_id hnodup (List.mem_of_find?_eq_some hfind) he hid]
    rfl

/-! ### What the test for room after a RELEASE leaves (R126) -/

/-- A wait count raised, or a test for room: what stands of the rail block, and every other block but the transmit queue. -/
structure Node.Retries (n m : Node) : Prop where
  eq : m = { n with line := { n.line with queue := m.line.queue }, rail := m.rail }
  own : m.rail.own = n.rail.own
  view : m.rail.view = n.rail.view
  repeats : m.rail.repeats = n.rail.repeats
  settled : n.Settled → m.Settled

theorem Node.Retries.refl (n : Node) : n.Retries n := ⟨rfl, rfl, rfl, rfl, id⟩

theorem Node.freedTest_retries (n : Node) : n.Retries n.freedTest := by
  unfold Node.freedTest
  split
  · split
    · exact ⟨rfl, rfl, rfl, rfl, id⟩
    · have hasks := n.roomTest_asks
      exact ⟨n.roomTest_eq, hasks.own, hasks.view, hasks.repeats, Node.roomTest_settled⟩
  · exact .refl n

/-! ### A partial RELEASE (R120, R137) -/

/-- The notice heard is repeated no more (R140). -/
theorem Node.stopRail_own (n : Node) (x : RailNotice) :
    n.stopRail n.address x = n.onRail fun r => { r with repeats := r.repeats.filter fun y => y.1 != x } := if_pos rfl

theorem Node.setUnits_eq (n : Node) (i : LevelId) (k : Nat) :
    ∃ duty : Duty, n.setUnits i k = { n with duty := duty } ∧ duty.reports = n.duty.reports := by
  unfold Node.setUnits
  split
  · refine ⟨_, rfl, ?_⟩
    dsimp only
    split
    · exact n.duty.upd_reports i _
    · exact n.duty.upd_reports i _
  · exact ⟨n.duty, rfl, rfl⟩

/-- The own record follows the other party's RELEASE alone (R137). -/
theorem Node.lowerOwn_eq (n : Node) (src id units : Nat) :
    ∃ (duty : Duty) (own : Option OwnRecord), n.lowerOwn src id units = { n with duty := duty, rail := { n.rail with own := own } }
      ∧ duty.reports = n.duty.reports ∧ ∀ o, n.rail.own = some o → o.other ≠ src → own = some o := by
  unfold Node.lowerOwn
  split
  next o hown =>
    split
    next hlower =>
      obtain ⟨duty, heq, hreports⟩ := Node.setUnits_eq
        (n.onRail fun r => { r with own := some { o with units := units, driven := min o.driven units } }) o.level units
      refine ⟨duty, _, heq, hreports, fun o' ho' hother => ?_⟩
      rw [hown] at ho'
      cases ho'
      exact absurd hlower.2.1 hother
    next => exact ⟨n.duty, n.rail.own, rfl, rfl, fun o' ho' _ => ho'⟩
  next hown => exact ⟨n.duty, n.rail.own, rfl, rfl, fun o' ho' _ => ho'⟩

/-- The view after an own RELEASE, whose notice is repeated no more, before any block hears of it (R120, R140). -/
def Node.releases (n : Node) (x : RailNotice) (v : List Exchange) : Node := (n.stopRail n.address x).setRail v

theorem Node.releases_eq (n : Node) (x : RailNotice) (v : List Exchange) : n.releases x v = n.onRail fun r => { r with
    view := v
    repeats := (r.repeats.filter fun y => y.1 != x).filter fun y => inView (railNoticeExchange y.1) v } := by
  rw [Node.releases, Node.stopRail_own]
  rfl

theorem Node.releases_repeats {n : Node} {x : RailNotice} {v : List Exchange} {z : RailNotice × Nat}
    (hz : z ∈ (n.releases x v).rail.repeats) : z.1 ≠ x := by
  rw [Node.releases_eq] at hz
  simpa using (List.mem_filter.1 (List.mem_filter.1 hz).1).2

/-- The end of a settled step, as the rail block sees it. -/
theorem Node.conclude_rail_of_settled {m : Node} (before : Node) (h : m.Settled) : (m.conclude before).rail = m.rail := by
  rw [Node.conclude_rail, Node.takeCompletions_of_settled h]

/-- R120: the own partial RELEASE lowers the record in view; the own record stands. -/
theorem Node.ownRelease_lowers {n : Node} (hsettled : n.Settled) {p : Plan} (hplan : n.pres.plan = some p) {id units cause : Nat}
    (hview : ∃ e ∈ n.rail.view, e.id = id ∧ (e.initiator = n.address ∨ e.counterpart = n.address))
    (hnodup : (n.rail.view.map Exchange.id).Nodup) (hunits : 0 < units) (before : Node) :
    let m := (n.heardRelease n.address id units cause).conclude before
    (∀ z ∈ m.rail.repeats, z.1 ≠ .release id units cause)
      ∧ (∀ o, n.rail.own = some o → o.other ≠ n.address → m.rail.own = some o)
      ∧ m.rail.view = n.rail.view.map fun e =>
          if e.id = id ∧ units < e.units then { e with units := units, draw := units - min units p.share + 1 } else e := by
  intro m
  have hmineInView := partyInView_of_mem hview
  obtain ⟨e, he, hid, hparty⟩ := hview
  have hmine (f : Exchange) (hf : f ∈ n.rail.view) (hfid : f.id = id) : f.has n.address = true := by
    rw [eq_of_id hnodup hf he (hfid.trans hid.symm)]
    simpa [Exchange.has] using hparty
  have hheld := unitsInView_of_mem hnodup he
  rw [hid] at hheld
  have hheard : n.heardRelease n.address id units cause = if units < e.units then
      ((n.releases (.release id units cause) (takeRelease p n.rail.view n.address id units)).lowerOwn n.address id units).freedTest
      else n.stopRail n.address (.release id units cause) := by
    unfold Node.heardRelease
    rw [hplan]
    dsimp only
    rw [if_pos hmineInView, if_neg hunits.ne', hheld]
    rfl
  by_cases hlower : units < e.units
  · rw [if_pos hlower] at hheard
    generalize hs : n.releases (.release id units cause) (takeRelease p n.rail.view n.address id units) = s at hheard
    obtain ⟨duty, own, hlowers, hreports, hown⟩ := s.lowerOwn_eq n.address id units
    obtain ⟨-, hkeptOwn, hkeptView, hkeptRepeats, hkept⟩ := (s.lowerOwn n.address id units).freedTest_retries
    have hsame : s = n.onRail fun r => { r with
        view := takeRelease p n.rail.view n.address id units
        repeats := (r.repeats.filter fun y => y.1 != .release id units cause).filter
          fun y => inView (railNoticeExchange y.1) (takeRelease p n.rail.view n.address id units) } := hs.symm.trans (n.releases_eq _ _)
    have hend : (n.heardRelease n.address id units cause).Settled := by
      rw [hheard]
      refine hkept ?_
      rw [hlowers, hsame]
      refine ⟨hreports.trans ?_, hsettled.2⟩
      rw [hsame]
      exact hsettled.1
    have hm : m.rail = (s.lowerOwn n.address id units).freedTest.rail := by
      rw [← hheard]
      exact Node.conclude_rail_of_settled before hend
    rw [hm]
    refine ⟨fun z hz => ?_, fun o ho hother => ?_, ?_⟩
    · rw [hkeptRepeats, hlowers, ← hs] at hz
      exact Node.releases_repeats hz
    · rw [hkeptOwn, hlowers]
      refine hown o ?_ hother
      rw [hsame]
      exact ho
    · rw [hkeptView, hlowers, hsame]
      exact takeRelease_partial hunits hmine
  · rw [if_neg hlower, Node.stopRail_own] at hheard
    have hend : (n.heardRelease n.address id units cause).Settled := by rw [hheard]; exact hsettled
    have hm : m.rail = (n.heardRelease n.address id units cause).rail := Node.conclude_rail_of_settled before hend
    rw [hm, hheard]
    refine ⟨fun z hz => by simpa using (List.mem_filter.1 hz).2, fun o ho _ => ho, ?_⟩
    refine (List.map_id _).symm.trans (List.map_congr_left fun f hf => ?_)
    rw [if_neg]
    · rfl
    · rintro ⟨hfid, hfunits⟩
      rw [eq_of_id hnodup hf he (hfid.trans hid.symm)] at hfunits
      exact hlower hfunits

end Sys2Proof.Machine
end

section
/-! PROOFS. The own final RELEASE: the own exchange leaves the view, and with it the own record, its level and its request
(R120, R135, R136). -/

namespace Sys2Proof.Machine

/-! ### The own record ends (R135) -/

/-- The end of the own record leaves every block but the levels, the transmit queue and the rail block. -/
theorem Node.dropOwn_leaves {n : Node} {o : OwnRecord} (h : n.rail.own = some o) (ordinary : Bool) :
    (n.dropOwn ordinary).pres = n.pres ∧ (n.dropOwn ordinary).mon = n.mon ∧ (n.dropOwn ordinary).grade = n.grade
      ∧ (n.dropOwn ordinary).pair = n.pair ∧ (n.dropOwn ordinary).pos = n.pos
      ∧ (∀ z ∈ (n.dropOwn ordinary).rail.repeats, z ∈ n.rail.repeats ∨ ∃ id, z.1 = .suspend id)
      ∧ (n.dropOwn ordinary).duty = (if n.rail.side = .party then n.endLevel o.level else n).duty := by
  have hends : n.Converts (if n.rail.side = .party then n.endLevel o.level else n) := (Node.Converts.refl n).endLevel.ite (.refl n)
  have hdrop : n.dropOwn ordinary = (if n.rail.side = .party then n.endLevel o.level else n).onRail fun r =>
      { r.endOwn with
        testOrdinary := if o.servesTest && r.side == .party then some ordinary else r.testOrdinary
        request := if o.spends n.rail.side then none else r.request
        side := if !(o.spends n.rail.side) && r.request.isSome then .waiting else .idle
        current := none } := by
    unfold Node.dropOwn
    rw [h]
  rw [hdrop]
  exact ⟨hends.pres, hends.mon, hends.grade, hends.pair, hends.pos, hends.repeats, rfl⟩

theorem Node.dissolve_bondGraded {n : Node} (h : n.BondGraded) (cause : Nat) (send release : Bool) :
    (n.dissolve cause send release).BondGraded := by
  cases hbonded : n.bonded with
  | false => rw [Node.dissolve_of_not_bonded hbonded]; exact h
  | true =>
    cases hpartner : n.pair.partner with
    | none =>
      have hsame : n.dissolve cause send release = n := by
        unfold Node.dissolve
        rw [hpartner]
      rw [hsame]
      exact h
    | some x =>
      intro hstill
      rw [Node.not_bonded_of_single (Node.dissolve_dissolves hbonded hpartner cause send release).state] at hstill
      cases hstill

theorem Node.joinEnded_bondGraded {n : Node} (h : n.BondGraded) (ordinary : Bool) : (n.joinEnded ordinary).BondGraded := by
  have hround (k : Node) (hk : k.BondGraded) : k.beginRound.BondGraded := by rw [Node.beginRound_eq]; exact hk
  unfold Node.joinEnded
  extract_lets n1
  split
  · split
    · exact hround n1 h
    · unfold Node.countAttempt
      extract_lets n2
      split
      · unfold Node.equalizeFail
        rw [Node.reportFault_eq]
        exact Node.dissolve_bondGraded (n := n2) h _ _ _
      · exact hround n2 h
  · exact h

/-- R172: an attempt more, and what follows while there are fewer than 3. -/
theorem Node.countAttempt_of_few {n : Node} (h : n.pos.attempts < 2) (next : Node → Node) :
    n.countAttempt next = next (n.onPos fun q => { q with attempts := q.attempts + 1 }) :=
  if_neg (show ¬3 ≤ n.pos.attempts + 1 by omega)

/-- R172: EQUALIZE FAIL at the third. -/
theorem Node.countAttempt_of_many {n : Node} (h : 2 ≤ n.pos.attempts) (next : Node → Node) :
    n.countAttempt next = (n.onPos fun q => { q with attempts := q.attempts + 1 }).equalizeFail :=
  if_pos (show 3 ≤ n.pos.attempts + 1 by omega)

/-- R136, R170, R171: a JOIN's end in TRANSFER begins a round, with one attempt more where it was no stop. -/
theorem Node.joinEnded_rounds {n : Node} {p : Plan} (hplan : n.pres.plan = some p) (hphase : n.pos.phase = .transfer)
    (hattempts : n.pos.attempts < 2) (ordinary : Bool) :
    (n.joinEnded ordinary).pos.phase = .settleWait
      ∧ (n.joinEnded ordinary).pos.attempts = n.pos.attempts + (if ordinary = true then 0 else 1)
      ∧ (n.joinEnded ordinary).mon.watchPosition = some { duration := p.joinSettle * 1000, sampled := false } := by
  unfold Node.joinEnded
  extract_lets n1
  rw [if_pos (.inr (.inr hphase))]
  split
  · rw [Node.beginRound_of_plan (n := n1) hplan]
    exact ⟨rfl, rfl, rfl⟩
  · rw [Node.countAttempt_of_few (n := n1) hattempts,
      Node.beginRound_of_plan (n := n1.onPos fun q => { q with attempts := q.attempts + 1 }) hplan]
    exact ⟨rfl, rfl, rfl⟩

/-! ### The own exchange gone -/

theorem Node.ownLeft_of_gone {n : Node} {o : OwnRecord} (hown : n.rail.own = some o) (hgone : inView o.id n.rail.view = false)
    (ordinary : Bool) : n.ownLeft ordinary = if o.join then
      (if o.dropped then (n.dropOwn ordinary).onPos fun q => { q with liveTimer := none } else (n.dropOwn ordinary).joinEnded ordinary)
      else n.dropOwn ordinary := by
  unfold Node.ownLeft
  rw [hown]
  dsimp only
  rw [if_neg (by simp [hgone])]

theorem Node.ownLeft_stands {n : Node} {o : OwnRecord} (hown : n.rail.own = some o) (hgone : inView o.id n.rail.view = false)
    (ordinary : Bool) : (n.dropOwn ordinary).Stands (n.ownLeft ordinary) := by
  obtain ⟨hfree, -⟩ := Node.dropOwn_spec hown ordinary
  rw [Node.ownLeft_of_gone hown hgone]
  split
  · split
    · exact .of_eq hfree rfl rfl
    · exact Node.joinEnded_stands hfree ordinary
  · exact .of_eq hfree rfl rfl

theorem Node.ownLeft_bondGraded {n : Node} {o : OwnRecord} (hown : n.rail.own = some o) (hgone : inView o.id n.rail.view = false)
    (hgraded : n.BondGraded) (ordinary : Bool) : (n.ownLeft ordinary).BondGraded := by
  obtain ⟨-, -, hgrade, hpair, -⟩ := Node.dropOwn_leaves hown ordinary
  have hdropped : (n.dropOwn ordinary).BondGraded := fun hbonded => by
    rw [hgrade]
    exact hgraded (by rwa [Node.bonded, hpair] at hbonded)
  rw [Node.ownLeft_of_gone hown hgone]
  split
  · split
    · exact hdropped
    · exact Node.joinEnded_bondGraded hdropped ordinary
  · exact hdropped

theorem Node.Retries.bondGraded {n m : Node} (h : n.Retries m) (hgraded : n.BondGraded) : m.BondGraded := by
  rw [h.eq]
  exact hgraded

/-- Where the own exchange has left the view, the end of the step keeps the rail block free, and the Position Manager as the end of a
JOIN left it. -/
theorem Node.gone_concludes {n : Node} {o : OwnRecord} (hown : n.rail.own = some o) (hgone : inView o.id n.rail.view = false)
    (hgraded : n.BondGraded) (ordinary : Bool) (before : Node) :
    let m := ((n.ownLeft ordinary).freedTest).conclude before
    (n.dropOwn ordinary).rail.Frees m.rail ∧ m.pos = (n.ownLeft ordinary).pos
      ∧ m.mon.watchPosition = (n.ownLeft ordinary).mon.watchPosition := by
  intro m
  have hstands := Node.ownLeft_stands hown hgone ordinary
  have hretries := (n.ownLeft ordinary).freedTest_retries
  have hreports := Node.takeCompletions_reports (hretries.bondGraded (Node.ownLeft_bondGraded hown hgone hgraded ordinary))
  have hfreed := Node.freedTest_frees hstands.frees.own
  rw [Node.conclude_rail, Node.conclude_pos, Node.conclude_mon]
  refine ⟨(hstands.frees.trans hfreed).trans (hreports.frees hfreed.own), ?_, ?_⟩
  · rw [hreports.pos, hretries.eq]
  · rw [hreports.watch, hretries.eq]

/-- Nothing is asked of the Rail Allocator any more where the own exchange took its request with it and no pulse has completed. -/
theorem Node.gone_unasked {n : Node} {o : OwnRecord} (hown : n.rail.own = some o) (hgone : inView o.id n.rail.view = false)
    (hgraded : n.BondGraded) (hspent : o.spends n.rail.side = true) (hpulse : n.duty.PulseInvalid) (hending : n.notEnding)
    (ordinary : Bool) (before : Node) : (((n.ownLeft ordinary).freedTest).conclude before).rail.Unasked := by
  obtain ⟨hfree, -, hrequest, hside, -⟩ := Node.dropOwn_spec hown ordinary
  rw [hspent, if_pos rfl] at hrequest
  rw [hspent] at hside
  obtain ⟨-, -, -, -, -, -, hduty⟩ := Node.dropOwn_leaves hown ordinary
  have hstands := Node.ownLeft_stands hown hgone ordinary
  have hrail := hstands.rail (by rw [Rail.joining, hrequest])
  have hidle : (n.ownLeft ordinary).freedTest = n.ownLeft ordinary := Node.freedTest_of_noRequest (by rw [hrail, hrequest])
  have hlevel : o.level ≠ .pulse := by
    unfold OwnRecord.level
    split
    · nofun
    · split <;> nofun
  have hreports : (n.ownLeft ordinary).duty.PulseInvalid := by
    rw [hstands.duty, hduty]
    split
    · exact Node.endLevel_pulseInvalid hpulse hending hlevel
    · exact hpulse
  rw [hidle, Node.conclude_rail]
  refine Node.takeCompletions_unasked (Node.ownLeft_bondGraded hown hgone hgraded ordinary) hreports ?_
  rw [hrail]
  exact ⟨hfree, hrequest, hside⟩

/-! ### The own final RELEASE -/

/-- R120, R126: an own final RELEASE takes the record out of the view, and tests for room. -/
theorem Node.heardRelease_final {n : Node} {p : Plan} (hplan : n.pres.plan = some p) {id : Nat} (cause : Nat)
    (hview : ∃ e ∈ n.rail.view, e.id = id ∧ (e.initiator = n.address ∨ e.counterpart = n.address))
    (hnodup : (n.rail.view.map Exchange.id).Nodup) : n.heardRelease n.address id 0 cause
      = ((n.releases (.release id 0 cause) (n.rail.view.filter fun e => e.id != id)).ownLeft (cause == 0)).freedTest := by
  have hmineInView := partyInView_of_mem hview
  obtain ⟨e, he, hid, hparty⟩ := hview
  have hfinal : takeRelease p n.rail.view n.address id 0 = n.rail.view.filter fun e => e.id != id :=
    takeRelease_final fun f hf hfid => by
      rw [eq_of_id hnodup hf he (hfid.trans hid.symm)]
      simpa [Exchange.has] using hparty
  unfold Node.heardRelease
  rw [hplan]
  dsimp only
  rw [if_pos hmineInView, if_pos rfl, hfinal]
  rfl

/-- R120, R135, R136: what an own final RELEASE leaves, whosever exchange it ends. -/
theorem Node.ownRelease_frees {n : Node} (hsettled : n.Settled) (hgraded : n.BondGraded) {p : Plan} (hplan : n.pres.plan = some p)
    {id cause : Nat} (hview : ∃ e ∈ n.rail.view, e.id = id ∧ (e.initiator = n.address ∨ e.counterpart = n.address))
    (hnodup : (n.rail.view.map Exchange.id).Nodup) (before : Node) :
    let m := (n.heardRelease n.address id 0 cause).conclude before
    (∀ z ∈ m.rail.repeats, z.1 ≠ .release id 0 cause) ∧ m.rail.view = n.rail.view.filter fun e => e.id != id := by
  intro m
  have hheard := Node.heardRelease_final hplan cause hview hnodup
  generalize hs : n.releases (.release id 0 cause) (n.rail.view.filter fun e => e.id != id) = s at hheard
  have hrepeats (z : RailNotice × Nat) (hz : z ∈ s.rail.repeats) : z.1 ≠ .release id 0 cause := by
    rw [← hs] at hz
    exact Node.releases_repeats hz
  have hsame := (n.releases_eq (.release id 0 cause) (n.rail.view.filter fun e => e.id != id)).symm.trans hs
  have hsview : s.rail.view = n.rail.view.filter fun e => e.id != id := by rw [← hsame]; rfl
  by_cases hgone : ∃ o, s.rail.own = some o ∧ inView o.id s.rail.view = false
  · obtain ⟨o, hown, hgone⟩ := hgone
    have hsgraded : s.BondGraded := by rw [← hsame]; exact hgraded
    obtain ⟨hfrees, -, -⟩ := Node.gone_concludes hown hgone hsgraded (cause == 0) before
    obtain ⟨-, hdropView, -⟩ := Node.dropOwn_spec hown (cause == 0)
    obtain ⟨-, -, -, -, -, hdropRepeats, -⟩ := Node.dropOwn_leaves hown (cause == 0)
    rw [← hheard] at hfrees
    refine ⟨fun z hz => ?_, hfrees.view.trans (hdropView.trans hsview)⟩
    rw [hfrees.repeats] at hz
    rcases hdropRepeats z hz with hold | ⟨k, hsuspend⟩
    · exact hrepeats z hold
    · rw [hsuspend]
      nofun
  · have hstays : s.ownLeft (cause == 0) = s := by
      unfold Node.ownLeft
      split
      next o hown =>
        rw [if_pos]
        by_contra hout
        exact hgone ⟨o, hown, by simpa using hout⟩
      next => rfl
    rw [hstays] at hheard
    have hretries := s.freedTest_retries
    have hend : (n.heardRelease n.address id 0 cause).Settled := by
      rw [hheard]
      exact hretries.settled (by rw [← hsame]; exact hsettled)
    have hm : m.rail = s.freedTest.rail := by
      rw [← hheard]
      exact Node.conclude_rail_of_settled before hend
    rw [hm, hretries.repeats, hretries.view]
    exact ⟨hrepeats, hsview⟩

/-- R135, R136: an own final RELEASE of the own exchange ends the own record, and its request where it was agreed for it. -/
theorem Node.ownRelease_ends {n : Node} (hsettled : n.Settled) (hgraded : n.BondGraded) {p : Plan} (hplan : n.pres.plan = some p)
    {cause : Nat} {o : OwnRecord} (hown : n.rail.own = some o)
    (hview : ∃ e ∈ n.rail.view, e.id = o.id ∧ (e.initiator = n.address ∨ e.counterpart = n.address))
    (hnodup : (n.rail.view.map Exchange.id).Nodup) (before : Node) :
    let m := (n.heardRelease n.address o.id 0 cause).conclude before
    m.rail.own = none ∧ m.rail.side ≠ .party ∧ m.rail.side ≠ .starting
      ∧ (o.spends n.rail.side = false → n.rail.testing = true → m.rail.testing = true ∧ m.rail.side ≠ .idle)
      ∧ (o.spends n.rail.side = true → n.notEnding → m.rail.request = none ∧ m.rail.side = .idle)
      ∧ (o.join = true → o.dropped = false → n.pos.phase = .transfer → n.pos.attempts < 2 →
          m.pos.phase = .settleWait ∧ m.pos.attempts = n.pos.attempts + (if cause = 0 then 0 else 1)
            ∧ m.mon.watchPosition = some { duration := p.joinSettle * 1000, sampled := false }) := by
  intro m
  have hheard := Node.heardRelease_final hplan cause hview hnodup
  generalize hs : n.releases (.release o.id 0 cause) (n.rail.view.filter fun e => e.id != o.id) = s at hheard
  have hsame := (n.releases_eq (.release o.id 0 cause) (n.rail.view.filter fun e => e.id != o.id)).symm.trans hs
  have hsown : s.rail.own = some o := by rw [← hsame]; exact hown
  have hsside : s.rail.side = n.rail.side := by rw [← hsame]; rfl
  have hsrequest : s.rail.request = n.rail.request := by rw [← hsame]; rfl
  have hsgraded : s.BondGraded := by rw [← hsame]; exact hgraded
  have hspos : s.pos = n.pos := by rw [← hsame]; rfl
  have hgone : inView o.id s.rail.view = false := by
    rw [← hsame]
    simp [inView, Node.onRail]
  obtain ⟨hfree, -, hrequest, hside, -⟩ := Node.dropOwn_spec hsown (cause == 0)
  obtain ⟨hpres, -, -, -, hpos, -, -⟩ := Node.dropOwn_leaves hsown (cause == 0)
  rw [hsside] at hrequest hside
  rw [hsrequest] at hrequest hside
  obtain ⟨hfrees, hmpos, hmwatch⟩ := Node.gone_concludes hsown hgone hsgraded (cause == 0) before
  rw [← hheard] at hfrees hmpos hmwatch
  have hsides : (s.dropOwn (cause == 0)).rail.side = .waiting ∨ (s.dropOwn (cause == 0)).rail.side = .idle := by
    rw [hside]
    split
    · exact .inl rfl
    · exact .inr rfl
  refine ⟨hfrees.own, hfrees.party ?_, hfrees.starting ?_, fun hspent htesting => hfrees.testing ?_ ?_, fun hspent hending => ?_,
    fun hjoin hdropped hphase hattempts => ?_⟩
  · rcases hsides with h | h <;> rw [h] <;> nofun
  · rcases hsides with h | h <;> rw [h] <;> nofun
  · rw [hspent] at hrequest
    rw [Rail.testing, hrequest]
    exact htesting
  · have hsome : n.rail.request.isSome = true := by
      unfold Rail.testing at htesting
      split at htesting
      next h => simp [h]
      next => cases htesting
    rw [hside, hspent, hsome]
    nofun
  · have hunasked := Node.gone_unasked hsown hgone hsgraded (by rwa [hsside])
      (by rw [← hsame]; exact .of_none hsettled.1)
      (by rw [← hsame]; exact hending) (cause == 0) before
    rw [← hheard] at hunasked
    exact ⟨hunasked.request, hunasked.side⟩
  · have hleft : s.ownLeft (cause == 0) = (s.dropOwn (cause == 0)).joinEnded (cause == 0) := by
      rw [Node.ownLeft_of_gone hsown hgone, if_pos hjoin, if_neg (by simp [hdropped])]
    obtain ⟨hnext, hcount, hwatch⟩ := Node.joinEnded_rounds (n := s.dropOwn (cause == 0)) (p := p)
      (by rw [hpres, ← hsame]; exact hplan) (by rw [hpos, hspos, hphase]) (by rw [hpos, hspos]; exact hattempts) (cause == 0)
    rw [hmpos, hmwatch, hleft]
    refine ⟨hnext, ?_, hwatch⟩
    rw [hcount, hpos, hspos]
    simp

end Sys2Proof.Machine
end

section
/-! PROOFS. The own BIND: the bond, its failure, and the answer to a BIND without a proposal (R151, R153, R168). -/

namespace Sys2Proof.Machine

/-! ### Claiming (R168) -/

/-- R168: the lead in ACTIVE claims the lowest-numbered FREE position. -/
theorem Node.chooseClaim_claims {n : Node} (hactive : n.pres.state = .active) {v : List PosRecord} (hview : n.pos.view = some v)
    {k y : Nat} (hfree : lowestFree 1 v = some k) (hpartner : n.pos.partner = some y) : ∃ queue repeats, n.chooseClaim = { n with
      line := { n.line with queue := queue }
      pos := { n.pos with
        phase := .claiming, position := none, claims := n.pos.claims + 1, claimed := some k, windowTimer := none
        repeats := (.claim k y, n.mon.now + 1000) :: repeats } } := by
  have hclaims : n.chooseClaim = (((n.onPos fun q => { q with position := none, claimed := none, windowTimer := none }).setPhase
      .claiming).onPos fun q => { q with claims := q.claims + 1, claimed := some k }).handPos (.claim k y) := by
    unfold Node.chooseClaim
    extract_lets n1
    rw [if_pos (by simp [Node.active, hactive]), hview, hpartner, Option.bind_some, hfree]
  rw [hclaims, Node.handPos_eq]
  exact ⟨_, _, rfl⟩

/-! ### A bond entered (R151, R153) -/

/-- R93, R107: a graded node takes a report of the pair state without an effect. -/
theorem Node.pairReported_of_graded {n : Node} (h : n.grade.state = .graded) : n.pairReported = n := by
  have hregime : n.startRegime = n := if_neg (by simp [Node.mayStart, h])
  have hrest : n.abortSelfRest = n := if_neg (by simp [h])
  unfold Node.pairReported
  rw [hrest, ite_self, hregime]

theorem Node.setPair_of_graded {n : Node} (h : n.grade.state = .graded) {s : PairState} (hs : n.pair.state ≠ s)
    (hsilent : ¬(s = .joined ∨ s = .leaving)) :
    n.setPair s = n.onPair fun q => { q with state := s, silent := false, silenceTimer := none } := by
  unfold Node.setPair
  rw [if_neg hs]
  simp only [if_neg hsilent]
  exact Node.pairReported_of_graded h

/-- The node as it enters BOUND with `x`, before a lead claims (R151, R153). -/
def Node.boundWith (n : Node) (x : Nat) : Node :=
  { n with
    pair := { n.pair with
      state := .bound, partner := some x, proposed := none, proposalTimer := none, frames := 0, silent := false, silenceTimer := none }
    pos := { n.pos with
      phase := .bonded, repeats := if n.pos.phase = .bonded then n.pos.repeats else [], lead := Decidable.decide (n.address < x), partner := some x
      position := none, claims := 0, attempts := 0, claimed := none, ownReport := none, partnerReport := none, leaveStep := 0
      liveTimer := none } }

theorem Node.enterBound_of_graded {n : Node} (hgraded : n.grade.state = .graded) (hproposing : n.pair.state = .proposing) (x : Nat) :
    n.enterBound x = (n.boundWith x).claimIfLead := by
  have hbound := Node.setPair_of_graded (n := n.onPair fun q =>
    { q with partner := some x, proposed := none, proposalTimer := none, frames := 0 }) hgraded (s := .bound)
    (by rw [Node.onPair_pair, hproposing]; nofun) (by simp)
  unfold Node.enterBound
  extract_lets n1
  rw [show n1 = _ from hbound]
  rfl

theorem Node.boundWith_claimIfLead_partner {n : Node} {x : Nat} (h : x < n.address) : (n.boundWith x).claimIfLead = n.boundWith x := by
  refine if_neg ?_
  rintro ⟨-, hlead, -⟩
  have hlower : n.address < x := by simpa [Node.boundWith] using hlead
  omega

/-! ### The own BIND -/

theorem Node.takeBind_of_proposed {n : Node} {x : Nat} (h : n.pair.state = .proposing ∧ n.pair.proposed = some x) :
    n.heardBind n.address x = (if n.bondTest x then n.enterBound x else n.bindFails x).rebuildPresence := by
  unfold Node.heardBind
  rw [if_pos rfl]
  exact if_pos h

/-- R151, R153: the partner of a bond that passes its test waits in BONDED. -/
theorem Node.ownBind_partner {n : Node} (hsettled : n.Settled) {x : Nat} (h : n.pair.state = .proposing ∧ n.pair.proposed = some x)
    (htest : n.bondTest x = true) (hgraded : n.grade.state = .graded) (hlower : x < n.address) (before : Node) :
    let m := (n.heardBind n.address x).conclude before
    m.pair = (n.boundWith x).pair ∧ m.pos = (n.boundWith x).pos := by
  have hheard : n.heardBind n.address x = (n.boundWith x).rebuildPresence := by
    rw [Node.takeBind_of_proposed h, htest, if_pos rfl, Node.enterBound_of_graded hgraded h.1, Node.boundWith_claimIfLead_partner hlower]
  have hend : (n.heardBind n.address x).Settled := by rw [hheard]; exact hsettled
  dsimp only
  rw [Node.conclude_pair, Node.conclude_pos, Node.takeCompletions_of_settled hend, hheard]
  exact ⟨rfl, rfl⟩

/-- R151, R153, R168: the lead of a bond that passes its test claims the lowest-numbered FREE position. -/
theorem Node.ownBind_lead {n : Node} (hsettled : n.Settled) {x : Nat} (h : n.pair.state = .proposing ∧ n.pair.proposed = some x)
    (htest : n.bondTest x = true) (hgraded : n.grade.state = .graded) (hlead : n.address < x) (hactive : n.pres.state = .active)
    {v : List PosRecord} (hview : n.pos.view = some v) {k : Nat} (hfree : lowestFree 1 v = some k) (before : Node) :
    let m := (n.heardBind n.address x).conclude before
    m.pair = (n.boundWith x).pair ∧ m.pos.phase = .claiming ∧ m.pos.lead = true ∧ m.pos.claims = 1 ∧ m.pos.claimed = some k
      ∧ (.claim k x, n.mon.now + 1000) ∈ m.pos.repeats := by
  have hislead : (n.boundWith x).pos.lead = true := by simpa [Node.boundWith] using hlead
  have hclaims : (n.boundWith x).claimIfLead = (n.boundWith x).chooseClaim :=
    if_pos ⟨rfl, hislead, by simpa [Node.active, Node.boundWith] using hactive⟩
  obtain ⟨queue, repeats, hchosen⟩ := Node.chooseClaim_claims (n := n.boundWith x) hactive hview hfree rfl
  have hheard : n.heardBind n.address x = (n.boundWith x).chooseClaim.rebuildPresence := by
    rw [Node.takeBind_of_proposed h, htest, if_pos rfl, Node.enterBound_of_graded hgraded h.1, hclaims]
  have hend : (n.heardBind n.address x).Settled := by rw [hheard, hchosen]; exact hsettled
  dsimp only
  rw [Node.conclude_pair, Node.conclude_pos, Node.takeCompletions_of_settled hend, hheard, hchosen]
  exact ⟨rfl, rfl, hislead, rfl, rfl, List.mem_cons_self⟩

/-- R151, R154: a bond that fails its test. -/
theorem Node.ownBind_fails {n : Node} (hsettled : n.Settled) {x : Nat} (h : n.pair.state = .proposing ∧ n.pair.proposed = some x)
    (htest : n.bondTest x = false) (before : Node) :
    let m := (n.heardBind n.address x).conclude before
    m.pair.state.single ∧ m.pair.lastCause = some 2 := by
  have hfails : ((n.hand .unbind (twoFields x unbindGrade)).onPair fun q => { q with lastCause := some unbindGrade }).Seeks
      (n.bindFails x) := by
    refine (Node.Seeks.setPair ?_ (.inl rfl) (Node.Seeks.refl _).endProposal).testEligible
    rw [Node.endProposal, Node.onPair_pair, Node.onPair_pair, Node.hand_pair]
    exact .inr (.inr h.1)
  have hheard : n.heardBind n.address x = (n.bindFails x).rebuildPresence := by
    rw [Node.takeBind_of_proposed h, htest]
    rfl
  have hend : (n.heardBind n.address x).Settled := by
    have hkept : (n.bindFails x).Settled := by
      refine ⟨?_, ?_⟩
      · rw [hfails.duty, Node.onPair_duty, Node.hand_duty]
        exact hsettled.1
      · rw [hfails.rail, Node.onPair_rail, Node.hand_rail]
        exact hsettled.2
    rw [hheard]
    exact hkept
  dsimp only
  rw [Node.conclude_pair, Node.takeCompletions_of_settled hend, hheard]
  refine ⟨hfails.single ?_, hfails.lastCause⟩
  rw [Node.onPair_pair, Node.hand_pair]
  exact .inr (.inr h.1)

theorem Node.heardBind_of_partner {n : Node} {x : Nat} (h : ¬(n.pair.state = .proposing ∧ n.pair.proposed = some x))
    (hpartner : n.pair.partner = some x) : n.heardBind n.address x = n := by
  unfold Node.heardBind
  rw [if_pos rfl]
  exact (if_neg h).trans (if_pos hpartner)

theorem Node.heardBind_of_other {n : Node} {x : Nat} (h : ¬(n.pair.state = .proposing ∧ n.pair.proposed = some x))
    (hpartner : n.pair.partner ≠ some x) : n.heardBind n.address x = n.hand .unbind (twoFields x unbindAnswer) := by
  unfold Node.heardBind
  rw [if_pos rfl]
  exact (if_neg h).trans (if_neg hpartner)

/-- R151, R152: a BIND without a proposal and without a bond is answered. -/
theorem Node.ownBind_answered {n : Node} (hsettled : n.Settled) {x : Nat} (h : ¬(n.pair.state = .proposing ∧ n.pair.proposed = some x))
    (hpartner : n.pair.partner ≠ some x) {before : Node} (hmark : n.mark = before.mark) :
    let m := (n.heardBind n.address x).conclude before
    m.pair = n.pair ∧ m.line.queue = n.offered (noticeOf .unbind 142 [(0, .num x), (1, .num 0)]) := by
  have hheard := Node.heardBind_of_other h hpartner
  have hend : (n.heardBind n.address x).Settled := by rw [hheard, Node.hand_eq]; exact hsettled
  have hsame : (n.heardBind n.address x).mark = before.mark := by rw [hheard, Node.hand_eq]; exact hmark
  dsimp only
  rw [Node.conclude_of_mark hend hsame, hheard]
  exact ⟨Node.hand_pair _ _ _, n.handPart_queue _ _ _ _⟩

end Sys2Proof.Machine
end

section
/-! PROOFS. The own CLAIM: the record taken in the row view, the position won, a void claim, and a late one (R166, R168, R169). -/

namespace Sys2Proof.Machine

/-! ### The row view (R165, R166) -/

theorem freeLead_length (x but : Nat) (v : List PosRecord) (k : Nat) : (freeLead x but k v).length = v.length := by
  induction v generalizing k with
  | nil => rfl
  | cons r rs ih => simp [freeLead, ih]

theorem freeLead_getElem? (x but : Nat) (v : List PosRecord) (k i : Nat) :
    (freeLead x but k v)[i]? = v[i]?.map fun r => if r.lead = some x ∧ k + i ≠ but then PosRecord.free else r := by
  induction v generalizing k i with
  | nil => rfl
  | cons r rs ih =>
    cases i with
    | zero => rfl
    | succ i =>
      rw [freeLead, List.getElem?_cons_succ, List.getElem?_cons_succ, ih, Nat.add_assoc, Nat.add_comm 1 i]

theorem recordAt_freeLead (x but : Nat) (v : List PosRecord) (j : Nat) : recordAt (freeLead x but 1 v) j
    = (recordAt v j).map fun r => if r.lead = some x ∧ j ≠ but then PosRecord.free else r := by
  unfold recordAt
  split
  · rfl
  next hj => rw [freeLead_getElem?, show 1 + (j - 1) = j by omega]

theorem recordAt_some {v : List PosRecord} {k : Nat} {r : PosRecord} (h : recordAt v k = some r) : k ≠ 0 ∧ k ≤ v.length := by
  unfold recordAt at h
  split at h
  · cases h
  next hk =>
    have hlt := (List.getElem?_eq_some_iff.1 h).1
    omega

theorem setRecord_length (v : List PosRecord) (k : Nat) (r : PosRecord) : (setRecord v k r).length = v.length := by
  unfold setRecord
  split
  · rfl
  · exact List.length_set

theorem recordAt_setRecord_other (v : List PosRecord) {j k : Nat} (h : j ≠ k) (r : PosRecord) :
    recordAt (setRecord v k r) j = recordAt v j := by
  unfold recordAt setRecord
  split
  · rfl
  next hj =>
    split
    · rfl
    · exact List.getElem?_set_ne (by omega)

theorem recordAt_setRecord_same {v : List PosRecord} {k : Nat} {old : PosRecord} (h : recordAt v k = some old) (r : PosRecord) :
    recordAt (setRecord v k r) k = some r := by
  obtain ⟨hk, hlength⟩ := recordAt_some h
  unfold recordAt setRecord
  rw [if_neg hk, if_neg hk]
  exact List.getElem?_set_self (by omega)

/-! ### A CLAIM taken (R166) -/

theorem holds_of_record {v : List PosRecord} {k x y : Nat} {r : PosRecord} (h : recordAt v k = some r) :
    holds v k x y = (r.couple == some (x, y)) := by
  rw [holds, h]

/-- R166: a CLAIM of a couple recorded already changes nothing. -/
theorem takeClaim_recorded {v : List PosRecord} {x k y : Nat} {r : PosRecord} (h : recordAt v k = some r)
    (hcouple : r.couple = some (x, y)) : takeClaim v x k y = v :=
  if_pos (.inr (.inr (.inr (by rw [holds_of_record h, hcouple, beq_self_eq_true]))))

/-- R166: another CLAIM frees the lead's other records, and takes the one that it names where that is FREE. -/
theorem takeClaim_new {v : List PosRecord} {x k y : Nat} {r : PosRecord} (h : recordAt v k = some r) (hcouple : r.couple ≠ some (x, y))
    (hlower : x < y) : recordAt (freeLead x k 1 v) k = some r ∧ takeClaim v x k y = if r.state = .free then
      setRecord (freeLead x k 1 v) k { state := .claimed, couple := some (x, y) } else freeLead x k 1 v := by
  obtain ⟨hk, hlength⟩ := recordAt_some h
  have hsame : recordAt (freeLead x k 1 v) k = some r := by
    rw [recordAt_freeLead, h, Option.map_some, if_neg fun hother => hother.2 rfl]
  refine ⟨hsame, ?_⟩
  unfold takeClaim
  extract_lets w
  rw [if_neg, show recordAt w k = some r from hsame]
  rintro (hzero | hlong | hnot | hheld)
  · exact hk hzero
  · omega
  · omega
  · rw [holds_of_record h] at hheld
    exact hcouple (by simpa using hheld)

theorem takeClaim_moves {v : List PosRecord} {x k y : Nat} {r : PosRecord} (h : recordAt v k = some r) (hcouple : r.couple ≠ some (x, y))
    (hlower : x < y) : (takeClaim v x k y).length = v.length
      ∧ (∀ j, j ≠ k → recordAt (takeClaim v x k y) j
          = (recordAt v j).map fun r => if r.lead = some x then { state := .free, couple := none } else r)
      ∧ recordAt (takeClaim v x k y) k = some (if r.state = .free then { state := .claimed, couple := some (x, y) } else r) := by
  obtain ⟨hsame, htaken⟩ := takeClaim_new h hcouple hlower
  have hothers (j : Nat) (hj : j ≠ k) : recordAt (freeLead x k 1 v) j
      = (recordAt v j).map fun r => if r.lead = some x then { state := .free, couple := none } else r := by
    rw [recordAt_freeLead]
    simp only [ne_eq, hj, not_false_eq_true, and_true]
    rfl
  rw [htaken]
  split
  · exact ⟨(setRecord_length _ _ _).trans (freeLead_length _ _ _ _),
      fun j hj => (recordAt_setRecord_other _ hj _).trans (hothers j hj), recordAt_setRecord_same hsame _⟩
  · exact ⟨freeLead_length _ _ _ _, hothers, hsame⟩

theorem holds_takeClaim {v : List PosRecord} {x k y : Nat} {r : PosRecord} (h : recordAt v k = some r) (hlower : x < y) :
    holds (takeClaim v x k y) k x y = true ↔ r.state = .free ∨ r.couple = some (x, y) := by
  by_cases hcouple : r.couple = some (x, y)
  · rw [takeClaim_recorded h hcouple, holds_of_record h]
    simp [hcouple]
  · obtain ⟨-, -, hrecord⟩ := takeClaim_moves h hcouple hlower
    rw [holds_of_record hrecord]
    by_cases hfree : r.state = .free <;> simp [hfree, hcouple]

/-! ### What a node does with its bond and its view -/

theorem Node.setView_pos (n : Node) (v : List PosRecord) : (n.setView v).pos = { n.pos with view := some v } := (n.setView_seeks v).pos

theorem Node.testEligible_of_bonded {n : Node} (h : n.bonded = true) : n.testEligible = n := by
  unfold Node.testEligible
  split
  · split
    next hstate => simp [Node.bonded, hstate] at h
    next hstate => simp [Node.bonded, hstate] at h
    next hstate => simp [Node.bonded, hstate] at h
    all_goals rfl
  · rfl

theorem Node.setView_bondGraded {n : Node} (h : n.BondGraded) (v : List PosRecord) : (n.setView v).BondGraded := by
  cases hbonded : n.bonded with
  | true =>
    have hsame : n.setView v = n.onPos fun q => { q with view := some v } := by
      unfold Node.setView
      exact (congrArg (ite _ _) (Node.testEligible_of_bonded (n := n.onPos fun q => { q with view := some v }) hbonded)).trans
        (ite_self _)
    rw [hsame]
    exact h
  | false =>
    intro hstill
    rw [(n.setView_seeks v).bonded hbonded] at hstill
    cases hstill

/-- The end of a step leaves the Position Manager. -/
theorem Node.conclude_pos_of_graded {m : Node} (h : m.BondGraded) (before : Node) : (m.conclude before).pos = m.pos := by
  rw [Node.conclude_pos, (Node.takeCompletions_reports h).pos]

/-- The Position Manager's work outside its row view: the view stands, and a bonded node is graded still. -/
structure Node.Places (n m : Node) : Prop where
  view : m.pos.view = n.pos.view
  graded : n.BondGraded → m.BondGraded

namespace Node.Places

variable {n m : Node}

theorem refl (n : Node) : n.Places n := ⟨rfl, id⟩

theorem trans {k : Node} (h : n.Places m) (hk : m.Places k) : n.Places k := ⟨hk.view.trans h.view, hk.graded ∘ h.graded⟩

theorem ite {c : Prop} [Decidable c] {a b : Node} (ha : n.Places a) (hb : n.Places b) : n.Places (if c then a else b) := by
  split
  · exact ha
  · exact hb

/-- A change that leaves view, bond and grade. -/
theorem apart {k : Node} (h : n.Places m) (hview : k.pos.view = m.pos.view) (hpair : k.pair.state = m.pair.state)
    (hgrade : k.grade = m.grade) : n.Places k :=
  h.trans ⟨hview, fun hgraded hbonded => by
    rw [hgrade]
    exact hgraded (by rwa [Node.bonded, hpair] at hbonded)⟩

theorem onPos {f : Positions → Positions} (hview : (f m.pos).view = m.pos.view) (h : n.Places m) : n.Places (m.onPos f) :=
  h.apart hview rfl rfl

theorem onMon {f : Monitor → Monitor} (h : n.Places m) : n.Places (m.onMon f) := h.apart rfl rfl rfl

theorem handPos {x : PosNotice} (h : n.Places m) : n.Places (m.handPos x) := h.trans (by rw [Node.handPos_eq]; exact ⟨rfl, id⟩)

theorem setPhase {p : Phase} (h : n.Places m) : n.Places (m.setPhase p) := h.onPos rfl

theorem reportFault {code : FaultCode} (h : n.Places m) : n.Places (m.reportFault code) :=
  h.trans (by rw [Node.reportFault_eq]; exact ⟨rfl, id⟩)

theorem dissolve {cause : Nat} {send release : Bool} (h : n.Places m) : n.Places (m.dissolve cause send release) := by
  refine h.trans ⟨?_, fun hgraded => Node.dissolve_bondGraded hgraded _ _ _⟩
  cases hbonded : m.bonded with
  | false => rw [Node.dissolve_of_not_bonded hbonded]
  | true =>
    cases hpartner : m.pair.partner with
    | none =>
      unfold Node.dissolve
      rw [hpartner]
    | some x => exact (Node.dissolve_dissolves hbonded hpartner cause send release).rows

theorem noPosition (h : n.Places m) : n.Places m.noPosition := h.dissolve.ite h

theorem chooseClaim (h : n.Places m) : n.Places m.chooseClaim := by
  unfold Node.chooseClaim
  extract_lets n1
  have h1 : n.Places n1 := h.onPos rfl
  split
  · split
    · exact (h1.setPhase.onPos rfl).handPos
    · exact h1.noPosition
  · exact h1.setPhase

theorem claimVoid (h : n.Places m) : n.Places m.claimVoid := h.chooseClaim.ite h.noPosition

theorem takePosition {k : Nat} (h : n.Places m) : n.Places (m.takePosition k) := by
  unfold Node.takePosition
  split
  · exact h.setPhase.onPos rfl
  · exact h

theorem ownClaimHeard {k y : Nat} {recorded : Bool} (h : n.Places m) : n.Places (m.ownClaimHeard k y recorded) :=
  (h.takePosition.ite h.claimVoid).ite (h.handPos.ite h)

end Node.Places

/-! ### The own CLAIM -/

/-- The node whose row view has taken its own CLAIM, which it repeats no more (R164, R166). -/
def Node.claimed (n : Node) (v : List PosRecord) (k y : Nat) : Node := (n.stopPos (.claim k y)).setView (takeClaim v n.address k y)

theorem Node.claimed_pos (n : Node) (v : List PosRecord) (k y : Nat) : (n.claimed v k y).pos = { n.pos with
    repeats := n.pos.repeats.filter fun z => z.1 != .claim k y, view := some (takeClaim v n.address k y) } := Node.setView_pos _ _

theorem Node.claimed_seeks (n : Node) (v : List PosRecord) (k y : Nat) :
    ((n.stopPos (.claim k y)).onPos fun q => { q with view := some (takeClaim v n.address k y) }).Seeks (n.claimed v k y) :=
  Node.setView_seeks _ _

theorem Node.claimed_now (n : Node) (v : List PosRecord) (k y : Nat) : (n.claimed v k y).mon.now = n.mon.now :=
  (congrArg Monitor.now (n.claimed_seeks v k y).mon).trans rfl

theorem Node.heardClaim_own {n : Node} {v : List PosRecord} (hview : n.pos.view = some v) (hrow : n.ownRow n.address = true) {y : Nat}
    (hpartner : n.ownRow y = true) (k : Nat) : n.heardClaim n.address k y
      = (n.claimed v k y).ownClaimHeard k y (holds (takeClaim v n.address k y) k n.address y) := by
  unfold Node.heardClaim
  rw [hview]
  simp [hrow, hpartner, Node.claimed]

/-- The state of the node when it takes its own CLAIM. -/
structure Node.OwnClaim (n : Node) (v : List PosRecord) (r : PosRecord) (k y : Nat) : Prop where
  graded : n.BondGraded
  view : n.pos.view = some v
  record : recordAt v k = some r
  row : n.ownRow n.address = true
  partner : n.ownRow y = true
  lower : n.address < y

namespace Node.OwnClaim

variable {n : Node} {v : List PosRecord} {r : PosRecord} {k y : Nat}

theorem heard (h : n.OwnClaim v r k y) : n.heardClaim n.address k y
    = (n.claimed v k y).ownClaimHeard k y (Decidable.decide (r.state = .free ∨ r.couple = some (n.address, y))) := by
  rw [Node.heardClaim_own h.view h.row h.partner]
  congr 1
  rw [Bool.eq_iff_iff, holds_takeClaim h.record h.lower, decide_eq_true_iff]

theorem places (h : n.OwnClaim v r k y) : (n.claimed v k y).Places (n.heardClaim n.address k y) := by
  rw [h.heard]
  exact (Node.Places.refl _).ownClaimHeard

theorem eventGraded (h : n.OwnClaim v r k y) : (n.heardClaim n.address k y).BondGraded :=
  h.places.graded (Node.setView_bondGraded (n := n.stopPos (.claim k y)) h.graded _)

theorem concludes (h : n.OwnClaim v r k y) (before : Node) :
    ((n.heardClaim n.address k y).conclude before).pos = (n.heardClaim n.address k y).pos :=
  Node.conclude_pos_of_graded h.eventGraded before

/-- R166: the view after the own CLAIM. -/
theorem moves (h : n.OwnClaim v r k y) (before : Node) :
    ((n.heardClaim n.address k y).conclude before).pos.view = some (takeClaim v n.address k y) := by
  rw [h.concludes, h.places.view, Node.claimed_pos]

/-- The claim is the one that the node awaits. -/
theorem awaited (hmine : n.pos.phase = .claiming ∧ n.pos.claimed = some k ∧ n.pos.partner = some y) :
    (n.claimed v k y).pos.phase = .claiming ∧ (n.claimed v k y).pos.claimed = some k ∧ (n.claimed v k y).pos.partner = some y := by
  rw [Node.claimed_pos]
  exact hmine

/-- R168, R169: a recorded claim takes the position and starts the quiet window. -/
theorem wins (h : n.OwnClaim v r k y) (hrecorded : r.state = .free ∨ r.couple = some (n.address, y))
    (hmine : n.pos.phase = .claiming ∧ n.pos.claimed = some k ∧ n.pos.partner = some y) {p : Plan} (hplan : n.pres.plan = some p)
    (before : Node) :
    let m := (n.heardClaim n.address k y).conclude before
    m.pos.phase = .claimWait ∧ m.pos.position = some k ∧ m.pos.windowTimer = some (n.mon.now + p.quietWindow) ∧ m.pos.repeats = [] := by
  have hseeks := n.claimed_seeks v k y
  have hmine1 := awaited (v := v) hmine
  have htaken : n.heardClaim n.address k y = (n.claimed v k y).takePosition k := by
    rw [h.heard, decide_eq_true hrecorded]
    exact if_pos hmine1
  have hplan1 : (n.claimed v k y).pres.plan = some p := by rw [hseeks.pres]; exact hplan
  have hnow := n.claimed_now v k y
  dsimp only
  rw [h.concludes, htaken]
  unfold Node.takePosition
  rw [hplan1]
  refine ⟨rfl, rfl, ?_, if_neg ?_⟩
  · change some ((n.claimed v k y).mon.now + p.quietWindow) = _
    rw [hnow]
  · rw [hmine1.1]
    nofun

/-- R168: a recorded claim that the node no longer awaits is withdrawn. -/
theorem withdraws (h : n.OwnClaim v r k y) (hrecorded : r.state = .free ∨ r.couple = some (n.address, y))
    (hmine : ¬(n.pos.phase = .claiming ∧ n.pos.claimed = some k ∧ n.pos.partner = some y))
    (hother : ¬(n.pos.position = some k ∧ n.pos.partner = some y)) (before : Node) :
    (.vacate k 3 6, n.mon.now + 1000) ∈ ((n.heardClaim n.address k y).conclude before).pos.repeats := by
  have hwithdrawn : n.heardClaim n.address k y = (n.claimed v k y).handPos (.vacate k 3 6) := by
    rw [h.heard, decide_eq_true hrecorded]
    unfold Node.ownClaimHeard
    rw [Node.claimed_pos]
    exact (if_neg hmine).trans (if_pos ⟨rfl, hother⟩)
  have hnow := n.claimed_now v k y
  rw [h.concludes, hwithdrawn, Node.handPos_eq, ← hnow]
  exact List.mem_cons_self

/-- A claim that is not recorded is void (R168). -/
theorem voided (h : n.OwnClaim v r k y) (hrecorded : ¬(r.state = .free ∨ r.couple = some (n.address, y)))
    (hmine : n.pos.phase = .claiming ∧ n.pos.claimed = some k ∧ n.pos.partner = some y) :
    n.heardClaim n.address k y = (n.claimed v k y).claimVoid := by
  rw [h.heard, decide_eq_false hrecorded]
  exact if_pos (awaited hmine)

/-- R168: after a void claim the lead claims the lowest-numbered FREE position. -/
theorem claimsNext (h : n.OwnClaim v r k y) (hrecorded : ¬(r.state = .free ∨ r.couple = some (n.address, y)))
    (hmine : n.pos.phase = .claiming ∧ n.pos.claimed = some k ∧ n.pos.partner = some y) (hfew : n.pos.claims < 3)
    (hactive : n.pres.state = .active) (before : Node) :
    let m := (n.heardClaim n.address k y).conclude before
    ∀ v', m.pos.view = some v' → ∀ j, lowestFree 1 v' = some j →
      m.pos.phase = .claiming ∧ m.pos.claimed = some j ∧ m.pos.claims = n.pos.claims + 1
        ∧ (.claim j y, n.mon.now + 1000) ∈ m.pos.repeats := by
  intro m v' hview j hfree
  have hseeks := n.claimed_seeks v k y
  obtain rfl : takeClaim v n.address k y = v' := by
    rw [h.moves] at hview
    exact Option.some.inj hview
  have hnow := n.claimed_now v k y
  have hclaims : (n.claimed v k y).pos.claims = n.pos.claims := by rw [Node.claimed_pos]
  obtain ⟨queue, repeats, hchosen⟩ := Node.chooseClaim_claims (n := n.claimed v k y) (by rw [hseeks.pres]; exact hactive)
    (by rw [Node.claimed_pos]) hfree (awaited hmine).2.2
  have hvoid : (n.claimed v k y).claimVoid = (n.claimed v k y).chooseClaim := if_pos (by rw [hclaims]; exact hfew)
  rw [show m.pos = (n.claimed v k y).chooseClaim.pos by rw [← hvoid, ← h.voided hrecorded hmine]; exact h.concludes before, hchosen]
  refine ⟨rfl, rfl, ?_, ?_⟩
  · rw [← hclaims]
  · rw [← hnow]
    exact List.mem_cons_self

/-- R154, R168: after the third void claim the bond ends for want of a position. -/
theorem givesUp (h : n.OwnClaim v r k y) (hrecorded : ¬(r.state = .free ∨ r.couple = some (n.address, y)))
    (hmine : n.pos.phase = .claiming ∧ n.pos.claimed = some k ∧ n.pos.partner = some y) (hmany : 3 ≤ n.pos.claims)
    (hbound : n.pair.state = .bound) (hpartner : n.pair.partner.isSome = true) (before : Node) :
    let m := (n.heardClaim n.address k y).conclude before
    m.pair.partner = none ∧ m.pair.state.single ∧ m.pair.lastCause = some 4 := by
  have hseeks := n.claimed_seeks v k y
  obtain ⟨x, hx⟩ := Option.isSome_iff_exists.1 hpartner
  have hclaims : (n.claimed v k y).pos.claims = n.pos.claims := by rw [Node.claimed_pos]
  have hstate : (n.claimed v k y).pair.state = .bound := by
    rw [hseeks.state_of_not_single]
    · exact hbound
    · change ¬n.pair.state.single
      rw [hbound]
      rintro (h | h | h) <;> cases h
  have hends : n.heardClaim n.address k y = (n.claimed v k y).dissolve 4 := by
    rw [h.voided hrecorded hmine, Node.claimVoid, if_neg (by omega), Node.noPosition, if_pos hstate]
    rfl
  have hdissolved := Node.dissolve_dissolves (n := n.claimed v k y) (by simp [Node.bonded, hstate])
    (hseeks.partner.trans hx) 4 true true
  have hreports := Node.takeCompletions_reports h.eventGraded
  dsimp only
  rw [Node.conclude_pair, hreports.partner, hreports.lastCause]
  rw [hends] at hreports ⊢
  exact ⟨hdissolved.partner, hreports.single hdissolved.state, hdissolved.lastCause⟩

end Node.OwnClaim

end Sys2Proof.Machine
end

section
/-! PROOFS. The own ENGAGE: its record in the row view, the settled report with the check, and step 3 (R158, R159, R164, R166, R170,
R171, R173). -/

namespace Sys2Proof.Machine

/-! ### A report of the view (R165) -/

@[simp] theorem Node.setView_pres (n : Node) (v : List PosRecord) : (n.setView v).pres = n.pres := (n.setView_seeks v).pres
@[simp] theorem Node.setView_address (n : Node) (v : List PosRecord) : (n.setView v).address = n.address :=
  congrArg Presence.address (n.setView_pres v)
@[simp] theorem Node.setView_active (n : Node) (v : List PosRecord) : (n.setView v).active = n.active :=
  congrArg (fun q : Presence => q.state == .active) (n.setView_pres v)
@[simp] theorem Node.setView_duty (n : Node) (v : List PosRecord) : (n.setView v).duty = n.duty := (n.setView_seeks v).duty
@[simp] theorem Node.setView_rail (n : Node) (v : List PosRecord) : (n.setView v).rail = n.rail := (n.setView_seeks v).rail
@[simp] theorem Node.setView_partner (n : Node) (v : List PosRecord) : (n.setView v).pair.partner = n.pair.partner :=
  (n.setView_seeks v).partner
@[simp] theorem Node.setView_now (n : Node) (v : List PosRecord) : (n.setView v).mon.now = n.mon.now :=
  (congrArg Monitor.now (n.setView_seeks v).mon).trans rfl

@[simp] theorem Node.setView_profile (n : Node) (v : List PosRecord) : (n.setView v).profile = n.profile := by
  have hmon := (n.setView_seeks v).mon
  have hstate : (n.setView v).mon.tagState = n.mon.tagState := (congrArg Monitor.tagState hmon).trans rfl
  have htag : (n.setView v).mon.tag = n.mon.tag := (congrArg Monitor.tag hmon).trans rfl
  unfold Node.profile Node.planProfile
  rw [hstate, htag, Node.setView_pres]

theorem Node.setView_state {n : Node} (h : ¬n.pair.state.single) (v : List PosRecord) : (n.setView v).pair.state = n.pair.state :=
  (n.setView_seeks v).state_of_not_single h

theorem Node.setView_settled {n : Node} (h : n.Settled) (v : List PosRecord) : (n.setView v).Settled := by
  rw [Node.Settled, Node.setView_duty, Node.setView_rail]
  exact h

/-! ### Moves of a record (R166) -/

/-- The view moves the record of `k` by `f` and leaves the others. -/
def RecordMoves (k : Nat) (f : PosRecord → PosRecord) (v v' : List PosRecord) : Prop :=
  v'.length = v.length ∧ (∀ j, j ≠ k → recordAt v' j = recordAt v j) ∧ ∀ r, recordAt v k = some r → recordAt v' k = some (f r)

theorem RecordMoves.set {k : Nat} {f : PosRecord → PosRecord} {v : List PosRecord} {r r' : PosRecord} (h : recordAt v k = some r)
    (hf : f r = r') : RecordMoves k f v (setRecord v k r') := by
  refine ⟨setRecord_length _ _ _, fun j hj => recordAt_setRecord_other _ hj _, fun s hs => ?_⟩
  obtain rfl : r = s := Option.some.inj (h.symm.trans hs)
  rw [recordAt_setRecord_same h, hf]

theorem RecordMoves.keep {k : Nat} {f : PosRecord → PosRecord} {v : List PosRecord} {r : PosRecord} (h : recordAt v k = some r)
    (hf : f r = r) : RecordMoves k f v v :=
  ⟨rfl, fun _ _ => rfl, fun s hs => by rw [hs, ← Option.some.inj (h.symm.trans hs), hf]⟩

theorem RecordMoves.of_none {k : Nat} {v : List PosRecord} (h : recordAt v k = none) (f : PosRecord → PosRecord) : RecordMoves k f v v :=
  ⟨rfl, fun _ _ => rfl, fun s hs => by rw [h] at hs; cases hs⟩

/-- R166: the record that an ENGAGE of its lead names. -/
def PosRecord.afterEngage (x step : Nat) (r : PosRecord) : PosRecord :=
  if r.lead = some x ∧ step = 1 ∧ r.state = .claimed then { r with state := .engaging }
  else if r.lead = some x ∧ step = 3 ∧ r.state = .engaging then { r with state := .engaged } else r

theorem takeEngage_moves (v : List PosRecord) (x k step : Nat) : RecordMoves k (.afterEngage x step) v (takeEngage v x k step) := by
  unfold takeEngage
  split
  next r hr =>
    split
    next hlead =>
      split
      next hfirst => exact .set hr (if_pos ⟨hlead, hfirst⟩)
      next hfirst =>
        split
        next hthird => exact .set hr ((if_neg fun h => hfirst h.2).trans (if_pos ⟨hlead, hthird⟩))
        next hthird => exact .keep hr ((if_neg fun h => hfirst h.2).trans (if_neg fun h => hthird h.2))
    next hlead => exact .keep hr ((if_neg fun h => hlead h.1).trans (if_neg fun h => hlead h.1))
  next hnone => exact .of_none hnone _

/-! ### The Position Manager's work at an ENGAGE -/

theorem Node.beginRequest_eq (n : Node) (q : Request) : n.beginRequest q = { n with
    line := { n.line with queue := (n.beginRequest q).line.queue }, rail := (n.beginRequest q).rail } := by
  unfold Node.beginRequest
  extract_lets n1
  split
  · rw [Node.roomTest_eq]
    rfl
  · rfl

namespace Node.Places

variable {n m : Node}

theorem abortSelfRest (h : n.Places m) : n.Places m.abortSelfRest := by
  refine h.trans ⟨?_, fun hgraded hbonded => ?_⟩
  · rw [Node.abortSelfRest_eq]
  · unfold Node.abortSelfRest at hbonded ⊢
    split
    · exact .inl rfl
    next hrest =>
      rw [if_neg hrest] at hbonded
      exact hgraded hbonded

theorem closeContactor {s : PosStep} (h : n.Places m) : n.Places (m.closeContactor s) := (h.onPos rfl).abortSelfRest

theorem beginEngage (h : n.Places m) : n.Places m.beginEngage := (h.setPhase.onPos rfl).closeContactor.ite (h.setPhase.onPos rfl)

theorem beginRound (h : n.Places m) : n.Places m.beginRound := by
  unfold Node.beginRound
  split
  · exact (h.setPhase.onPos rfl).onMon
  · exact h

theorem beginRequest {q : Request} (h : n.Places m) : n.Places (m.beginRequest q) := by
  rw [Node.beginRequest_eq]
  exact h.apart rfl rfl rfl

theorem beginTransfer {p : Plan} {dv : Int} (h : n.Places m) : n.Places (m.beginTransfer p dv) := h.setPhase.beginRequest.ite h.setPhase

theorem equalizeFail (h : n.Places m) : n.Places m.equalizeFail := h.dissolve.reportFault

theorem countAttempt {next : Node → Node} (hnext : ∀ k, n.Places k → n.Places (next k)) (h : n.Places m) :
    n.Places (m.countAttempt next) := (h.onPos rfl).equalizeFail.ite (hnext _ (h.onPos rfl))

theorem check (h : n.Places m) : n.Places m.check := by
  unfold Node.check
  split
  · split
    · extract_lets dv n1
      have h1 : n.Places n1 := h.onPos rfl
      exact (h1.beginEngage.ite h1.beginRound).ite (h1.beginTransfer.ite (h1.countAttempt fun _ hk => hk.beginTransfer))
    · exact h
  · exact h

theorem heardStep3 {src k : Nat} (h : n.Places m) : n.Places (m.heardStep3 src k) := by
  have hjoined (q : Node) (hq : n.Places q) : n.Places ((q.setPair .joined).startSilence) := by
    have hset : n.Places (q.setPair .joined) := hq.trans ⟨by rw [Node.setPair_eq], fun _ hbonded => by simp [Node.bonded] at hbonded⟩
    unfold Node.startSilence
    split
    · exact hset.apart rfl rfl rfl
    · exact hset
  unfold Node.heardStep3
  extract_lets n1
  have h1 : n.Places n1 := h.setPhase.onPos rfl
  exact ((hjoined n1 h1).ite h1).ite h

end Node.Places

/-! ### The own ENGAGE -/

/-- The node whose row view has taken its own ENGAGE, which it repeats no more; a live report is not repeated (R164, R166). -/
def Node.tookEngage (n : Node) (v : List PosRecord) (k step : Nat) (soc voltage : Option Fig) : Node :=
  (if voltage = none then n.stopPos (.engage k step (soc.map Fig.mag)) else n).setView (takeEngage v n.address k step)

/-- The node that repeats its own ENGAGE no more, with the view that the ENGAGE leaves. -/
theorem Node.tookEngage_pos (n : Node) (v : List PosRecord) (k step : Nat) (soc : Option Fig) :
    (n.tookEngage v k step soc none).pos = { n.pos with
      repeats := n.pos.repeats.filter fun z => z.1 != .engage k step (soc.map Fig.mag), view := some (takeEngage v n.address k step) } :=
  Node.setView_pos _ _

theorem Node.tookEngage_view (n : Node) (v : List PosRecord) (k step : Nat) (soc voltage : Option Fig) :
    (n.tookEngage v k step soc voltage).pos.view = some (takeEngage v n.address k step) := by
  rw [Node.tookEngage, Node.setView_pos]

theorem Node.tookEngage_partner (n : Node) (v : List PosRecord) (k step : Nat) (soc voltage : Option Fig) :
    (n.tookEngage v k step soc voltage).pos.partner = n.pos.partner := by
  rw [Node.tookEngage, Node.setView_pos]
  split <;> rfl

theorem Node.tookEngage_bondGraded {n : Node} (h : n.BondGraded) (v : List PosRecord) (k step : Nat) (soc voltage : Option Fig) :
    (n.tookEngage v k step soc voltage).BondGraded := by
  refine Node.setView_bondGraded ?_ _
  split <;> exact h

theorem Node.heardEngage_own {n : Node} {v : List PosRecord} (hview : n.pos.view = some v) (hrow : n.ownRow n.address = true)
    (k step : Nat) (soc voltage : Option Fig) : n.heardEngage n.address k step soc voltage
      = let n1 := n.tookEngage v k step soc voltage
        if step = 0 then
          match voltage, soc with
          | some f, _ => if n1.ofCouple n.address k ∧ n1.fromPartner n.address = true then n1.liveReport f.mag else n1
          | none, some s => n1.heardSettled n.address k s.mag
          | none, none => n1
        else if step = 1 then n1.heardStep1 n.address k
        else if step = 2 then n1.heardStep2 n.address k
        else if step = 3 then n1.heardStep3 n.address k
        else n1 := by
  unfold Node.heardEngage
  rw [hview]
  simp only [hrow, if_true, true_and]
  rfl

theorem Node.tookEngage_notPartner {n : Node} (h : n.pos.partner ≠ some n.address) (v : List PosRecord) (k step : Nat)
    (soc voltage : Option Fig) : (n.tookEngage v k step soc voltage).fromPartner n.address = false := by
  rw [Node.fromPartner, Node.tookEngage_partner]
  simpa using h

theorem Node.heardStep1_of_other {n : Node} {src : Nat} (h : n.fromPartner src = false) (k : Nat) : n.heardStep1 src k = n :=
  if_neg fun ⟨_, hfrom, _⟩ => by simp [h] at hfrom

theorem Node.heardStep2_of_other {n : Node} {src : Nat} (h : n.fromPartner src = false) (k : Nat) : n.heardStep2 src k = n :=
  if_neg fun ⟨_, hfrom, _⟩ => by simp [h] at hfrom

/-- R164, R173: its own steps 1 and 2 are not for the node, which repeats them no more. -/
theorem Node.heardEngage_steps {n : Node} {v : List PosRecord} (hview : n.pos.view = some v) (hrow : n.ownRow n.address = true)
    (hother : n.pos.partner ≠ some n.address) {k step : Nat} (hstep : step = 1 ∨ step = 2) (soc voltage : Option Fig) :
    n.heardEngage n.address k step soc voltage = n.tookEngage v k step soc voltage := by
  have hnot := Node.tookEngage_notPartner hother v k step soc voltage
  rw [Node.heardEngage_own hview hrow]
  rcases hstep with rfl | rfl
  · exact Node.heardStep1_of_other hnot k
  · exact Node.heardStep2_of_other hnot k

theorem Node.heardEngage_places {n : Node} {v : List PosRecord} (hview : n.pos.view = some v) (hrow : n.ownRow n.address = true)
    (hother : n.pos.partner ≠ some n.address) (k step : Nat) (soc voltage : Option Fig) :
    (n.tookEngage v k step soc voltage).Places (n.heardEngage n.address k step soc voltage) := by
  have hnot := Node.tookEngage_notPartner hother v k step soc voltage
  by_cases hstep : step = 1 ∨ step = 2
  · rw [Node.heardEngage_steps hview hrow hother hstep]
    exact .refl _
  · rw [Node.heardEngage_own hview hrow]
    extract_lets n1
    have h1 := Node.Places.refl n1
    have hnot1 : n1.fromPartner n.address = false := hnot
    rw [if_neg (show ¬step = 1 from fun h => hstep (.inl h)), if_neg (show ¬step = 2 from fun h => hstep (.inr h))]
    refine .ite ?_ (h1.heardStep3.ite h1)
    split
    · rw [if_neg fun h => by simp [hnot1] at h]
      exact h1
    · unfold Node.heardSettled
      rw [if_neg fun h => by simp [hnot1] at h]
      refine (Node.Places.check (h1.onPos ?_)).ite h1
      split <;> rfl
    · exact h1

/-- R166: the own ENGAGE moves its record. -/
theorem Node.ownEngage_moves {n : Node} (hgraded : n.BondGraded) {v : List PosRecord} (hview : n.pos.view = some v)
    (hrow : n.ownRow n.address = true) (hother : n.pos.partner ≠ some n.address) (k step : Nat) (soc voltage : Option Fig)
    (before : Node) : ((n.heardEngage n.address k step soc voltage).conclude before).pos.view = some (takeEngage v n.address k step) := by
  have hplaces := Node.heardEngage_places hview hrow hother k step soc voltage
  rw [Node.conclude_pos_of_graded (hplaces.graded (Node.tookEngage_bondGraded hgraded v k step soc voltage)), hplaces.view,
    Node.tookEngage_view]

/-- R164, R173: its own steps 1 and 2 are repeated no more. -/
theorem Node.ownEngage_steps {n : Node} (hgraded : n.BondGraded) {v : List PosRecord} (hview : n.pos.view = some v)
    (hrow : n.ownRow n.address = true) (hother : n.pos.partner ≠ some n.address) {k step : Nat} (hstep : step = 1 ∨ step = 2)
    (before : Node) : ((n.heardEngage n.address k step none none).conclude before).pos = { n.pos with
      view := some (takeEngage v n.address k step), repeats := n.pos.repeats.filter fun z => z.1 != .engage k step none } := by
  have hheard := Node.heardEngage_steps hview hrow hother hstep (k := k) none none
  rw [hheard, Node.conclude_pos_of_graded (Node.tookEngage_bondGraded hgraded v k step none none), Node.tookEngage_pos]
  rfl

/-! ### The check (R170-R173) -/

theorem Node.check_of_unready {n : Node} (h : n.pos.phase ≠ .reported ∨ n.pos.partnerReport = none) : n.check = n := by
  unfold Node.check
  split
  next hpartner =>
    refine if_neg fun hphase => ?_
    rcases h with h | h
    · exact h hphase
    · rw [hpartner] at h
      cases h
  next => rfl

/-- The difference of the two reported voltages, own less the partner's (R170). -/
def Profile.reportGap (f : Profile) (a b : Nat) : Int := (voltageOf f a : Int) - voltageOf f b

/-- The node as the check leaves its reports (R170). -/
def Node.compared (n : Node) : Node := n.onPos fun q => { q with ownReport := none, partnerReport := none, firstCheck := false }

theorem Node.check_of_reports {n : Node} {p : Plan} {f : Profile} {a b : Nat} (hplan : n.pres.plan = some p)
    (hprofile : n.profile = some f) (hown : n.pos.ownReport = some a) (hpartner : n.pos.partnerReport = some b)
    (hphase : n.pos.phase = .reported) : n.check =
      if (f.reportGap a b).natAbs ≤ p.joinWindow then (if n.active then n.compared.beginEngage else n.compared.beginRound)
      else if n.pos.firstCheck then n.compared.beginTransfer p (f.reportGap a b)
      else n.compared.countAttempt fun m => m.beginTransfer p (f.reportGap a b) := by
  unfold Node.check
  rw [hplan, hprofile, hown, hpartner]
  exact if_pos hphase

/-- R173: the lead closes its contactor first. -/
theorem Node.beginEngage_lead {n : Node} (h : n.pos.lead = true) : n.beginEngage.pos.phase = .engaging
    ∧ n.beginEngage.pos.contactor.drive = true ∧ n.beginEngage.pos.engageTimer = some (n.mon.now + 2000) := by
  unfold Node.beginEngage Node.closeContactor
  rw [if_pos h, Node.abortSelfRest_eq]
  exact ⟨rfl, Actuator.move_drive _ _ _, rfl⟩

theorem Node.beginEngage_partner {n : Node} (h : n.pos.lead = false) : n.beginEngage.pos.phase = .engaging
    ∧ n.beginEngage.pos.contactor = n.pos.contactor ∧ n.beginEngage.pos.engageTimer = some (n.mon.now + 3000) := by
  unfold Node.beginEngage
  rw [if_neg (by simp [h])]
  exact ⟨rfl, rfl, rfl⟩

theorem Node.beginEngage_reports (n : Node) : n.beginEngage.pos.ownReport = n.pos.ownReport
    ∧ n.beginEngage.pos.partnerReport = n.pos.partnerReport := by
  unfold Node.beginEngage Node.closeContactor
  split
  · rw [Node.abortSelfRest_eq]
    exact ⟨rfl, rfl⟩
  · exact ⟨rfl, rfl⟩

theorem Node.beginRequest_request (n : Node) (q : Request) : (n.beginRequest q).rail.request = some q := by
  unfold Node.beginRequest
  extract_lets n1
  split
  · exact n1.backToWaiting.roomTest_asks.request
  · rfl

theorem Node.beginRequest_settled {n : Node} (h : n.Settled) (q : Request) : (n.beginRequest q).Settled := by
  unfold Node.beginRequest
  extract_lets n1
  have h1 : n1.Settled := h
  split
  · exact Node.roomTest_settled (n := n1.backToWaiting) h1
  · exact h1

/-- R170, R171: TRANSFER is entered, in which the higher member asks for a JOIN. -/
theorem Node.beginTransfer_spec (n : Node) (p : Plan) (dv : Int) :
    (n.beginTransfer p dv).pos.phase = .transfer ∧ (n.beginTransfer p dv).pos.attempts = n.pos.attempts
      ∧ (n.beginTransfer p dv).pos.ownReport = n.pos.ownReport ∧ (n.beginTransfer p dv).pos.partnerReport = n.pos.partnerReport
      ∧ (0 < dv → (n.beginTransfer p dv).rail.request = some (.join (min p.joinMax (1 + dv.natAbs / 100))))
      ∧ (dv < 0 → (n.beginTransfer p dv).rail.request = n.rail.request) := by
  unfold Node.beginTransfer
  extract_lets n1
  split
  next hup =>
    refine ⟨?_, ?_, ?_, ?_, fun _ => Node.beginRequest_request _ _, fun hdown => by omega⟩ <;> rw [Node.beginRequest_eq] <;> rfl
  next hup => exact ⟨rfl, rfl, rfl, rfl, fun h => absurd h hup, fun _ => rfl⟩

theorem Node.beginTransfer_settled {n : Node} (h : n.Settled) (p : Plan) (dv : Int) : (n.beginTransfer p dv).Settled := by
  unfold Node.beginTransfer
  extract_lets n1
  have h1 : n1.Settled := h
  split
  · exact Node.beginRequest_settled h1 _
  · exact h1

/-- R172: EQUALIZE FAIL leaves no report. -/
theorem Node.equalizeFail_reports {n : Node} (hown : n.pos.ownReport = none) (hpartner : n.pos.partnerReport = none) :
    n.equalizeFail.pos.ownReport = none ∧ n.equalizeFail.pos.partnerReport = none := by
  have hpos : n.equalizeFail.pos = (n.dissolve unbindEqualize).pos := by rw [Node.equalizeFail, Node.reportFault_eq]
  rw [hpos]
  rcases n.dissolve_pos unbindEqualize true true with hsame | hunbound
  · rw [hsame]
    exact ⟨hown, hpartner⟩
  · exact ⟨hunbound.ownReport, hunbound.partnerReport⟩

/-- R170: the check takes both reports away, whatever follows. -/
theorem Node.check_reports {n : Node} {p : Plan} {f : Profile} {a b : Nat} (hplan : n.pres.plan = some p) (hprofile : n.profile = some f)
    (hown : n.pos.ownReport = some a) (hpartner : n.pos.partnerReport = some b) (hphase : n.pos.phase = .reported) :
    n.check.pos.ownReport = none ∧ n.check.pos.partnerReport = none := by
  have htransfer (k : Node) (hk : k.pos.ownReport = none ∧ k.pos.partnerReport = none) :
      (k.beginTransfer p (f.reportGap a b)).pos.ownReport = none ∧ (k.beginTransfer p (f.reportGap a b)).pos.partnerReport = none := by
    obtain ⟨-, -, hfirst, hsecond, -⟩ := k.beginTransfer_spec p (f.reportGap a b)
    rw [hfirst, hsecond]
    exact hk
  rw [Node.check_of_reports hplan hprofile hown hpartner hphase]
  split
  · split
    · obtain ⟨hfirst, hsecond⟩ := n.compared.beginEngage_reports
      rw [hfirst, hsecond]
      exact ⟨rfl, rfl⟩
    · rw [Node.beginRound_of_plan (n := n.compared) hplan]
      exact ⟨rfl, rfl⟩
  · split
    · exact htransfer _ ⟨rfl, rfl⟩
    · unfold Node.countAttempt
      extract_lets n1
      split
      · exact Node.equalizeFail_reports rfl rfl
      · exact htransfer _ ⟨rfl, rfl⟩

end Sys2Proof.Machine
end

section
/-! PROOFS. The own settled report with its check, and the own step 3 (R158, R159, R170-R173). -/

namespace Sys2Proof.Machine

/-! ### The own settled report -/

/-- The node that holds its own settled report (R170). -/
def Node.reported (n : Node) (v : List PosRecord) (k : Nat) (s : Fig) : Node :=
  (n.tookEngage v k 0 (some s) none).onPos fun q => { q with ownReport := some s.mag }

theorem Node.reported_pos (n : Node) (v : List PosRecord) (k : Nat) (s : Fig) : (n.reported v k s).pos = { n.pos with
    repeats := n.pos.repeats.filter fun z => z.1 != .engage k 0 (some s.mag), view := some (takeEngage v n.address k 0)
    ownReport := some s.mag } := by
  rw [Node.reported, Node.onPos_pos, Node.tookEngage_pos]
  rfl

theorem Node.reported_pres (n : Node) (v : List PosRecord) (k : Nat) (s : Fig) : (n.reported v k s).pres = n.pres :=
  Node.setView_pres _ _

theorem Node.reported_now (n : Node) (v : List PosRecord) (k : Nat) (s : Fig) : (n.reported v k s).mon.now = n.mon.now :=
  Node.setView_now _ _

theorem Node.reported_rail (n : Node) (v : List PosRecord) (k : Nat) (s : Fig) : (n.reported v k s).rail = n.rail :=
  Node.setView_rail _ _

theorem Node.reported_profile (n : Node) (v : List PosRecord) (k : Nat) (s : Fig) : (n.reported v k s).profile = n.profile :=
  Node.setView_profile _ _

theorem Node.reported_active (n : Node) (v : List PosRecord) (k : Nat) (s : Fig) : (n.reported v k s).active = n.active :=
  Node.setView_active _ _

theorem Node.reported_settled {n : Node} (h : n.Settled) (v : List PosRecord) (k : Nat) (s : Fig) : (n.reported v k s).Settled :=
  Node.setView_settled (n := n.stopPos _) h _

theorem Node.reported_bondGraded {n : Node} (h : n.BondGraded) (v : List PosRecord) (k : Nat) (s : Fig) : (n.reported v k s).BondGraded :=
  Node.tookEngage_bondGraded h v k 0 (some s) none

theorem Node.heardEngage_settled {n : Node} {v : List PosRecord} (hview : n.pos.view = some v) (hrow : n.ownRow n.address = true)
    {k : Nat} (hposition : n.pos.position = some k) (hjoining : n.pos.phase.joining = true) (s : Fig) :
    n.heardEngage n.address k 0 (some s) none = (n.reported v k s).check := by
  have hphase : n.pos.phase ≠ .bonded := fun h => by simp [h, Phase.joining] at hjoining
  have hpos := n.tookEngage_pos v k 0 (some s)
  have hreported : (n.tookEngage v k 0 (some s) none).heardSettled n.address k s.mag = (n.reported v k s).check := by
    have haddress : (n.tookEngage v k 0 (some s) none).address = n.address := Node.setView_address _ _
    unfold Node.heardSettled
    rw [if_neg (fun h => hphase (by rw [hpos] at h; exact h.1)), if_pos ?_, haddress]
    · simp only [if_true]
      rfl
    · refine ⟨?_, by rw [hpos]; exact hjoining⟩
      rw [Node.ofCouple, haddress, hpos]
      simp [hposition]
  rw [Node.heardEngage_own hview hrow]
  exact hreported

/-- What the check of an own settled report needs, and what the end of the step keeps of it. -/
theorem Node.reported_concludes {n : Node} (hgraded : n.BondGraded) (v : List PosRecord) (k : Nat) (s : Fig) (before : Node) :
    ((n.reported v k s).check.conclude before).pos = (n.reported v k s).check.pos :=
  Node.conclude_pos_of_graded ((Node.Places.refl _).check.graded (Node.reported_bondGraded hgraded v k s)) before

/-- R170: the own settled report is held for the check. -/
theorem Node.ownSettled_waits {n : Node} (hgraded : n.BondGraded) {v : List PosRecord} (hview : n.pos.view = some v)
    (hrow : n.ownRow n.address = true) {k : Nat} (hposition : n.pos.position = some k) (hjoining : n.pos.phase.joining = true) (s : Fig)
    (hwaits : n.pos.phase ≠ .reported ∨ n.pos.partnerReport = none) (before : Node) :
    let m := (n.heardEngage n.address k 0 (some s) none).conclude before
    m.pos.ownReport = some s.mag ∧ m.pos.phase = n.pos.phase := by
  dsimp only
  rw [Node.heardEngage_settled hview hrow hposition hjoining, Node.reported_concludes hgraded,
    Node.check_of_unready (by rw [Node.reported_pos]; exact hwaits), Node.reported_pos]
  exact ⟨rfl, rfl⟩

/-- R170-R173: the own settled report that completes the two leads to the check. -/
theorem Node.ownSettled_checks {n : Node} (hsettled : n.Settled) (hgraded : n.BondGraded) {v : List PosRecord}
    (hview : n.pos.view = some v) (hrow : n.ownRow n.address = true) {k : Nat} (hposition : n.pos.position = some k) (s : Fig)
    {p : Plan} (hplan : n.pres.plan = some p) {f : Profile} (hprofile : n.profile = some f) {b : Nat}
    (hpartner : n.pos.partnerReport = some b) (hphase : n.pos.phase = .reported) (before : Node) :
    let m := (n.heardEngage n.address k 0 (some s) none).conclude before
    let dv : Int := f.reportGap s.mag b
    m.pos.ownReport = none ∧ m.pos.partnerReport = none
      ∧ (dv.natAbs ≤ p.joinWindow → n.pres.state ≠ .active → m.pos.phase = .settleWait)
      ∧ (dv.natAbs ≤ p.joinWindow → n.pres.state = .active →
          m.pos.phase = .engaging
          ∧ (n.pos.lead = true → m.pos.contactor.drive = true ∧ m.pos.engageTimer = some (n.mon.now + 2000))
          ∧ (n.pos.lead = false → m.pos.contactor = n.pos.contactor ∧ m.pos.engageTimer = some (n.mon.now + 3000)))
      ∧ (p.joinWindow < dv.natAbs → n.pos.firstCheck = true ∨ n.pos.attempts < 2 →
          m.pos.phase = .transfer ∧ m.pos.attempts = n.pos.attempts + (if n.pos.firstCheck = true then 0 else 1)
          ∧ (0 < dv → m.rail.request = some (.join (min p.joinMax (1 + dv.natAbs / 100))))
          ∧ (dv < 0 → m.rail.request = n.rail.request)) := by
  intro m dv
  have hheard := Node.heardEngage_settled hview hrow hposition (by rw [hphase]; rfl) s
  have hpos := n.reported_pos v k s
  have hnow := n.reported_now v k s
  have hrail := n.reported_rail v k s
  have hrplan : (n.reported v k s).pres.plan = some p := by rw [Node.reported_pres]; exact hplan
  have hrprofile : (n.reported v k s).profile = some f := by rw [Node.reported_profile]; exact hprofile
  have hrown : (n.reported v k s).pos.ownReport = some s.mag := by rw [hpos]
  have hrpartner : (n.reported v k s).pos.partnerReport = some b := by rw [hpos]; exact hpartner
  have hrphase : (n.reported v k s).pos.phase = .reported := by rw [hpos]; exact hphase
  have hcheck := Node.check_of_reports hrplan hrprofile hrown hrpartner hrphase
  have hm : m.pos = (n.reported v k s).check.pos := by
    change ((n.heardEngage n.address k 0 (some s) none).conclude before).pos = _
    rw [hheard, Node.reported_concludes hgraded]
  have hlead : (n.reported v k s).compared.pos.lead = n.pos.lead := (congrArg Positions.lead hpos).trans rfl
  have hcontactor : (n.reported v k s).compared.pos.contactor = n.pos.contactor := (congrArg Positions.contactor hpos).trans rfl
  have hattempts : (n.reported v k s).compared.pos.attempts = n.pos.attempts := (congrArg Positions.attempts hpos).trans rfl
  have hfirst : (n.reported v k s).pos.firstCheck = n.pos.firstCheck := (congrArg Positions.firstCheck hpos).trans rfl
  rw [hm]
  obtain ⟨hnoOwn, hnoPartner⟩ := Node.check_reports hrplan hrprofile hrown hrpartner hrphase
  refine ⟨hnoOwn, hnoPartner, fun hnear hidle => ?_, fun hnear hactive => ?_, fun hfar hgoes => ?_⟩
  · have hrounds : (n.reported v k s).check = (n.reported v k s).compared.beginRound := by
      rw [hcheck, if_pos hnear, if_neg]
      rw [Node.reported_active]
      simpa [Node.active] using hidle
    rw [hrounds, Node.beginRound_of_plan (n := (n.reported v k s).compared) hrplan]
  · have hengages : (n.reported v k s).check = (n.reported v k s).compared.beginEngage := by
      rw [hcheck, if_pos hnear, if_pos]
      rw [Node.reported_active]
      simpa [Node.active] using hactive
    rw [hengages, ← hlead, ← hcontactor, ← hnow]
    cases hside : (n.reported v k s).compared.pos.lead with
    | true =>
      obtain ⟨hnext, hdrive, htimer⟩ := Node.beginEngage_lead hside
      exact ⟨hnext, fun _ => ⟨hdrive, htimer⟩, nofun⟩
    | false =>
      obtain ⟨hnext, hsame, htimer⟩ := Node.beginEngage_partner hside
      exact ⟨hnext, nofun, fun _ => ⟨hsame, htimer⟩⟩
  · obtain ⟨w, hw, hwsettled, hwrail, hwattempts⟩ : ∃ w : Node, (n.reported v k s).check = w.beginTransfer p dv ∧ w.Settled
        ∧ w.rail = n.rail ∧ w.pos.attempts = n.pos.attempts + (if n.pos.firstCheck = true then 0 else 1) := by
      cases hrepeat : n.pos.firstCheck with
      | true =>
        refine ⟨(n.reported v k s).compared, ?_, Node.reported_settled hsettled v k s, hrail, hattempts⟩
        rw [hcheck, if_neg (Nat.not_le_of_lt hfar), hfirst, if_pos hrepeat]
      | false =>
        have hfew : n.pos.attempts < 2 := hgoes.resolve_left (by simp [hrepeat])
        refine ⟨(n.reported v k s).compared.onPos fun q => { q with attempts := q.attempts + 1 }, ?_,
          Node.reported_settled hsettled v k s, hrail, congrArg (· + 1) hattempts⟩
        rw [hcheck, if_neg (Nat.not_le_of_lt hfar), hfirst, if_neg (by simp [hrepeat]),
          Node.countAttempt_of_few (by rw [hattempts]; exact hfew)]
    obtain ⟨hnext, hcount, -, -, hup, hdown⟩ := w.beginTransfer_spec p dv
    have hmrail : m.rail = (w.beginTransfer p dv).rail := by
      change ((n.heardEngage n.address k 0 (some s) none).conclude before).rail = _
      rw [hheard, hw, Node.conclude_rail_of_settled before (Node.beginTransfer_settled hwsettled p dv)]
    rw [hw, hmrail, ← hwrail, ← hwattempts]
    exact ⟨hnext, hcount, hup, hdown⟩

/-! ### The own step 3 -/

/-- The node in IN_STRING at its own step 3, before the Pairing Engine hears of it (R173). -/
def Node.strung (n : Node) (v : List PosRecord) (k : Nat) : Node :=
  ((n.tookEngage v k 3 none none).setPhase .inString).onPos fun q => { q with engageTimer := none }

theorem Node.heardEngage_step3 {n : Node} {v : List PosRecord} (hview : n.pos.view = some v) (hrow : n.ownRow n.address = true)
    {k : Nat} (hposition : n.pos.position = some k) (hlead : n.pos.lead = true) (hphase : n.pos.phase = .engaging) :
    n.heardEngage n.address k 3 none none
      = if (n.strung v k).pair.state = .joining then ((n.strung v k).setPair .joined).startSilence else n.strung v k := by
  have hpos := n.tookEngage_pos v k 3 none
  have haddress : (n.tookEngage v k 3 none none).address = n.address := Node.setView_address _ _
  have hstrung : (n.tookEngage v k 3 none none).heardStep3 n.address k
      = if (n.strung v k).pair.state = .joining then ((n.strung v k).setPair .joined).startSilence else n.strung v k := by
    refine if_pos ⟨?_, ?_, ?_⟩
    · rw [Node.ofCouple, haddress, hpos]
      simp [hposition]
    · rw [Node.fromLead, haddress, hpos]
      simp [hlead]
    · rw [hpos]
      exact hphase
  rw [Node.heardEngage_own hview hrow]
  exact hstrung

theorem Node.startSilence_pair {n : Node} {p : Plan} (h : n.pres.plan = some p) :
    n.startSilence = n.onPair fun q => { q with silenceTimer := n.after p.lifetime } := by
  unfold Node.startSilence
  rw [h]

theorem Node.startSilence_eq (n : Node) : n.startSilence = { n with pair := { n.pair with silenceTimer := n.startSilence.pair.silenceTimer } } := by
  unfold Node.startSilence
  split <;> rfl

/-- R158, R159, R173: the own step 3 joins the lead and its partner. -/
theorem Node.ownStep3_joins {n : Node} (hsettled : n.Settled) {v : List PosRecord} (hview : n.pos.view = some v)
    (hrow : n.ownRow n.address = true) {k : Nat} (hposition : n.pos.position = some k) (hlead : n.pos.lead = true)
    (hphase : n.pos.phase = .engaging) (before : Node) :
    let m := (n.heardEngage n.address k 3 none none).conclude before
    m.pos.phase = .inString ∧ m.pos.engageTimer = none ∧ m.pos.contactor = n.pos.contactor
      ∧ (n.pair.state = .joining → m.pair.state = .joined ∧ m.pair.partner = n.pair.partner
          ∧ ∀ p, n.pres.plan = some p → m.pair.silenceTimer = some (n.mon.now + p.lifetimeCount * p.presencePeriod)) := by
  intro m
  have hstrung := Node.heardEngage_step3 hview hrow hposition hlead hphase
  have hpos : (n.strung v k).pos.phase = .inString ∧ (n.strung v k).pos.engageTimer = none
      ∧ (n.strung v k).pos.contactor = n.pos.contactor := ⟨rfl, rfl, (congrArg Positions.contactor (n.tookEngage_pos v k 3 none)).trans rfl⟩
  have hkept : (n.strung v k).Settled := Node.setView_settled (n := n.stopPos _) hsettled _
  have hnow : (n.strung v k).mon.now = n.mon.now := Node.setView_now _ _
  have hpres : (n.strung v k).pres = n.pres := Node.setView_pres _ _
  have hpartner : (n.strung v k).pair.partner = n.pair.partner := Node.setView_partner _ _
  by_cases hjoining : (n.strung v k).pair.state = .joining
  · rw [if_pos hjoining] at hstrung
    have hset := (n.strung v k).setPair_eq .joined
    have hend : (n.heardEngage n.address k 3 none none).Settled := by
      rw [hstrung, Node.startSilence_eq, hset]
      exact hkept
    have hmpos : m.pos = (n.strung v k).pos := by
      change ((n.heardEngage n.address k 3 none none).conclude before).pos = _
      rw [Node.conclude_pos, Node.takeCompletions_of_settled hend, hstrung, Node.startSilence_eq, hset]
    have hmpair : m.pair = ((n.strung v k).setPair .joined).startSilence.pair := by
      change ((n.heardEngage n.address k 3 none none).conclude before).pair = _
      rw [Node.conclude_pair, Node.takeCompletions_of_settled hend, hstrung]
    have hjoined : ((n.strung v k).setPair .joined).pair.partner = n.pair.partner := by
      rw [← hpartner]
      unfold Node.setPair
      split
      · rfl
      · rw [Node.pairReported_eq]
        rfl
    rw [hmpos, hmpair]
    obtain ⟨hstring, htimer, hcontactor⟩ := hpos
    refine ⟨hstring, htimer, hcontactor, fun _ => ⟨?_, ?_, fun p hplan => ?_⟩⟩
    · rw [Node.startSilence_eq]
      exact Node.setPair_state _ _
    · rw [Node.startSilence_eq]
      exact hjoined
    · rw [Node.startSilence_pair (p := p) (by rw [hset, hpres]; exact hplan)]
      change some (((n.strung v k).setPair .joined).mon.now + p.lifetime) = _
      rw [hset, ← hnow]
      rfl
  · rw [if_neg hjoining] at hstrung
    have hend : (n.heardEngage n.address k 3 none none).Settled := by rw [hstrung]; exact hkept
    have hmpos : m.pos = (n.strung v k).pos := by
      change ((n.heardEngage n.address k 3 none none).conclude before).pos = _
      rw [Node.conclude_pos, Node.takeCompletions_of_settled hend, hstrung]
    rw [hmpos]
    obtain ⟨hstring, htimer, hcontactor⟩ := hpos
    refine ⟨hstring, htimer, hcontactor, fun hstate => absurd ?_ hjoining⟩
    have hsame : (n.strung v k).pair.state = n.pair.state := by
      refine Node.setView_state (n := n.stopPos _) ?_ _
      change ¬n.pair.state.single
      rw [hstate]
      rintro (h | h | h) <;> cases h
    rw [hsame, hstate]

end Sys2Proof.Machine
end

section
/-! PROOFS. The own VACATE: its record in the row view, the engage abort, and the end of a leave (R158, R164, R166, R172, R174, R175). -/

namespace Sys2Proof.Machine

/-! ### The record that a VACATE names (R166) -/

/-- R166: the record that a VACATE of its lead or member names. -/
def PosRecord.afterVacate (x step reason : Nat) (r : PosRecord) : PosRecord :=
  if step = 3 ∧ r.lead = some x then { state := .free, couple := none }
  else if r.member x = true ∧ step = 0 ∧ reason ≤ 2 ∧ r.state = .engaging then { r with state := .claimed }
  else if r.member x = true ∧ step = 1 ∧ (r.state = .engaging ∨ r.state = .engaged) then { r with state := .leaving }
  else r

theorem takeVacate_moves (v : List PosRecord) (x k step reason : Nat) :
    RecordMoves k (.afterVacate x step reason) v (takeVacate v x k step reason) := by
  unfold takeVacate
  split
  next r hr =>
    split
    next hfree => exact .set hr (if_pos hfree)
    next hfree =>
      split
      next hmember =>
        split
        next habort => exact .set hr ((if_neg hfree).trans (if_pos ⟨hmember, habort⟩))
        next habort =>
          split
          next hleave =>
            exact .set hr ((if_neg hfree).trans ((if_neg fun h => habort h.2).trans (if_pos ⟨hmember, hleave⟩)))
          next hleave =>
            exact .keep hr ((if_neg hfree).trans ((if_neg fun h => habort h.2).trans (if_neg fun h => hleave h.2)))
      next hmember =>
        exact .keep hr ((if_neg hfree).trans ((if_neg fun h => hmember h.1).trans (if_neg fun h => hmember h.1)))
  next hnone => exact .of_none hnone _

/-! ### The engage abort (R172, R174) -/

/-- What an engage abort makes of the Position Manager. -/
structure Node.Aborts (n m : Node) : Prop where
  contactor : m.pos.contactor.drive = false
  engageLine : n.pos.lead = true → m.pos.engageLine = false
  switch : n.pos.lead = true → m.pos.switch.drive = false
  repeats : ∀ z ∈ m.pos.repeats, z ∈ n.pos.repeats ∨ ∃ k, z.1 = .vacate k 3 6
  again : ∀ p, n.pres.plan = some p → n.pos.attempts < 2 →
    m.pos.phase = .settleWait ∧ m.pos.attempts = n.pos.attempts + 1 ∧ m.pos.engageTimer = none

/-- The node that has opened its contactor at an engage abort (R174). -/
def Node.stoodDown (n : Node) : Node := ((n.driveContactor false none).bypass none).onPos fun q => { q with engageTimer := none }

/-- A member whose parts are off keeps them so where its bond is dissolved (R172, R176). -/
theorem Node.equalizeFail_keeps {n : Node} (h : n.pos.contactor.drive = false)
    (hlead : n.pos.lead = true → n.pos.engageLine = false ∧ n.pos.switch.drive = false) :
    n.equalizeFail.pos.contactor.drive = false ∧ (n.pos.lead = true → n.equalizeFail.pos.engageLine = false)
      ∧ (n.pos.lead = true → n.equalizeFail.pos.switch.drive = false)
      ∧ ∀ z ∈ n.equalizeFail.pos.repeats, z ∈ n.pos.repeats ∨ ∃ k, z.1 = .vacate k 3 6 := by
  have hkept (q : Positions) (hq : q = n.pos ∨ n.pos.Unbound q) : q.contactor.drive = false
      ∧ (n.pos.lead = true → q.engageLine = false) ∧ (n.pos.lead = true → q.switch.drive = false)
      ∧ ∀ z ∈ q.repeats, z ∈ n.pos.repeats ∨ ∃ k, z.1 = .vacate k 3 6 := by
    rcases hq with rfl | hunbound
    · exact ⟨h, fun hl => (hlead hl).1, fun hl => (hlead hl).2, fun z hz => .inl hz⟩
    · exact ⟨hunbound.contactor, hunbound.engageLine, hunbound.switch, fun z hz => .inr (hunbound.repeats z hz)⟩
  have hpos : n.equalizeFail.pos = (n.dissolve unbindEqualize).pos := by rw [Node.equalizeFail, Node.reportFault_eq]
  rw [hpos]
  exact hkept _ (Node.dissolve_pos n _ _ _)

theorem Node.heardAbort_aborts (n : Node) : n.Aborts n.heardAbort := by
  have hopens := n.opens
  have hlead : n.stoodDown.pos.lead = n.pos.lead := by
    unfold Node.stoodDown Node.bypass
    split <;> rfl
  have hoff : n.stoodDown.pos.lead = true → n.stoodDown.pos.engageLine = false ∧ n.stoodDown.pos.switch.drive = false :=
    fun h => ⟨hopens.engageLine (hlead ▸ h), hopens.switch (hlead ▸ h)⟩
  have hrepeats : n.stoodDown.pos.repeats = n.pos.repeats := hopens.repeats
  have hattempts : n.stoodDown.pos.attempts = n.pos.attempts := hopens.attempts
  have hpres : n.stoodDown.pres = n.pres := by
    unfold Node.stoodDown
    rw [hopens.eq]
    rfl
  change n.Aborts (n.stoodDown.countAttempt Node.beginRound)
  by_cases hfew : n.pos.attempts < 2
  · rw [Node.countAttempt_of_few (by rw [hattempts]; exact hfew)]
    cases hplan : n.pres.plan with
    | none =>
      have hstands (k : Node) (hk : k.pres.plan = none) : k.beginRound = k := by unfold Node.beginRound; rw [hk]
      rw [hstands _ (by rw [Node.onPos_pres, hpres, hplan])]
      exact ⟨hopens.contactor, hopens.engageLine, hopens.switch, fun z hz => .inl (hrepeats ▸ hz), fun p hp => by rw [hplan] at hp; cases hp⟩
    | some p =>
      rw [Node.beginRound_of_plan (p := p) (by rw [Node.onPos_pres, hpres, hplan])]
      refine ⟨hopens.contactor, hopens.engageLine, hopens.switch, fun z hz => .inl ?_, fun _ _ _ => ⟨rfl, congrArg (· + 1) hattempts, rfl⟩⟩
      rw [← hrepeats]
      dsimp only at hz
      split at hz
      · exact hz
      · cases hz
  · rw [Node.countAttempt_of_many (by rw [hattempts]; omega)]
    obtain ⟨hcontactor, hline, hswitch, hsame⟩ := Node.equalizeFail_keeps
      (n := n.stoodDown.onPos fun q => { q with attempts := q.attempts + 1 }) hopens.contactor hoff
    refine ⟨hcontactor, fun h => hline (hlead.trans h), fun h => hswitch (hlead.trans h), fun z hz => ?_, fun _ _ h => absurd h hfew⟩
    rcases hsame z hz with hold | hnew
    · exact .inl (hrepeats ▸ hold)
    · exact .inr hnew

theorem Node.Places.heardAbort {n m : Node} (h : n.Places m) : n.Places m.heardAbort := by
  have hopens := m.opens
  have hopened : n.Places ((m.driveContactor false none).bypass none) := by
    rw [hopens.eq]
    exact h.trans ⟨hopens.view, id⟩
  exact (hopened.onPos rfl).countAttempt fun _ hk => hk.beginRound

/-! ### The end of a leave (R158, R175) -/

/-- What leaving complete makes of the Pairing Engine; the Position Manager stands. -/
theorem Node.leavingComplete_spec (n : Node) : n.leavingComplete.pos = n.pos ∧ (n.BondGraded → n.leavingComplete.BondGraded)
    ∧ (n.pair.state = .leaving → n.pair.partner.isSome = true →
        n.leavingComplete.pair.partner = none ∧ n.leavingComplete.pair.state.single) := by
  unfold Node.leavingComplete
  split
  next x hpartner =>
    split
    next hleaving =>
      extract_lets n1 n2
      have hbarred : n1.Seeks n2 := (Node.Seeks.refl n1).bar.ite (.refl n1)
      have hset := n2.setPair_eq .unpaired
      have hsame : (n2.setPair .unpaired).pair.partner = n2.pair.partner := by
        unfold Node.setPair
        split
        · rfl
        · rw [Node.pairReported_eq]
          rfl
      have hend := (Node.Seeks.refl (n2.setPair .unpaired)).testEligible
      have hsingle : (n2.setPair .unpaired).testEligible.pair.state.single := hend.single (by rw [Node.setPair_state]; exact .inl rfl)
      refine ⟨?_, fun _ hbonded => ?_, fun _ _ => ⟨?_, hsingle⟩⟩
      · rw [hend.pos, hset, hbarred.pos]
        rfl
      · rw [Node.not_bonded_of_single hsingle] at hbonded
        cases hbonded
      · rw [hend.partner, hsame, hbarred.partner]
        rfl
    next hstate => exact ⟨rfl, id, fun h => absurd h hstate⟩
  next hpartner => exact ⟨rfl, id, fun _ h => by simp [hpartner] at h⟩

/-- R175: the leave ends: no phase, no position, the contactor open, and leaving complete. -/
theorem Node.leaveEnds_spec {n : Node} (h : n.pos.phase ≠ .none) : n.leaveEnds.pos.phase = .none ∧ n.leaveEnds.pos.position = none
    ∧ n.leaveEnds.pos.contactor.drive = false ∧ n.leaveEnds.pos.repeats = []
    ∧ (n.pair.state = .leaving → n.pair.partner.isSome = true → n.leaveEnds.pair.partner = none ∧ n.leaveEnds.pair.state.single) := by
  unfold Node.leaveEnds
  obtain ⟨hpos, -, hpair⟩ := Node.leavingComplete_spec (((n.driveContactor false none).setPhase .none).onPos fun q =>
    { q with partner := none, position := none, leaveStep := 0, leaveTimer := none, liveTimer := none, onSwitch := none })
  rw [hpos]
  exact ⟨rfl, rfl, Actuator.move_drive _ _ _, if_neg h, hpair⟩

theorem Node.Places.leaveEnds {n m : Node} (h : n.Places m) : n.Places m.leaveEnds := by
  unfold Node.leaveEnds
  obtain ⟨hpos, hgraded, -⟩ := Node.leavingComplete_spec (((m.driveContactor false none).setPhase .none).onPos fun q =>
    { q with partner := none, position := none, leaveStep := 0, leaveTimer := none, liveTimer := none, onSwitch := none })
  exact h.trans ⟨by rw [hpos]; rfl, hgraded⟩

/-! ### The own VACATE -/

/-- The node whose row view has taken its own VACATE, which it repeats no more unless it asks to leave by it (R164, R166). -/
def Node.vacated (n : Node) (v : List PosRecord) (k step reason : Nat) : Node :=
  (if step = 0 ∧ 2 < reason then n else n.stopPos (.vacate k step reason)).setView (takeVacate v n.address k step reason)

/-- What the taking of an own VACATE leaves to the block that owns it. -/
structure Node.Vacates (n m : Node) (v : List PosRecord) (k step reason : Nat) : Prop where
  pos : m.pos = { n.pos with
    view := some (takeVacate v n.address k step reason)
    repeats := if step = 0 ∧ 2 < reason then n.pos.repeats else n.pos.repeats.filter fun z => z.1 != .vacate k step reason }
  address : m.address = n.address
  pres : m.pres = n.pres
  partner : m.pair.partner = n.pair.partner
  state : ¬n.pair.state.single → m.pair.state = n.pair.state
  graded : n.BondGraded → m.BondGraded

theorem Node.vacated_vacates (n : Node) (v : List PosRecord) (k step reason : Nat) :
    n.Vacates (n.vacated v k step reason) v k step reason := by
  unfold Node.vacated
  split
  next hasks =>
    refine ⟨?_, Node.setView_address _ _, Node.setView_pres _ _, Node.setView_partner _ _, fun h => Node.setView_state h _,
      fun h => Node.setView_bondGraded h _⟩
    rw [Node.setView_pos, if_pos hasks]
  next hasks =>
    refine ⟨?_, Node.setView_address _ _, Node.setView_pres _ _, Node.setView_partner _ _,
      fun h => Node.setView_state (n := n.stopPos (.vacate k step reason)) h _,
      fun h => Node.setView_bondGraded (n := n.stopPos (.vacate k step reason)) h _⟩
    rw [Node.setView_pos, if_neg hasks]
    rfl

/-- Which of its own VACATEs a node acts on: an engage abort while it engages, and step 3 of a lead that leaves (R174, R175). -/
theorem Node.heardVacate_own {n : Node} {v : List PosRecord} (hview : n.pos.view = some v) (hrow : n.ownRow n.address = true)
    (hother : n.pos.partner ≠ some n.address) (k step reason : Nat) : n.heardVacate n.address k step reason
      = if n.pos.position = some k ∧ step = 0 ∧ reason ≤ 2 ∧ n.pos.phase = .engaging then (n.vacated v k step reason).heardAbort
        else if n.pos.position = some k ∧ step = 3 ∧ n.pos.lead = true ∧ n.pos.phase = .vacating then
          (n.vacated v k step reason).leaveEnds
        else n.vacated v k step reason := by
  have hv := n.vacated_vacates v k step reason
  have hcouple : (n.vacated v k step reason).ofCouple n.address k = Decidable.decide (n.pos.position = some k) := by
    rw [Node.ofCouple, hv.address, hv.pos]
    simp [beq_eq_decide]
  have hnot : (n.vacated v k step reason).fromPartner n.address = false := by
    rw [Node.fromPartner, hv.pos]
    simpa using hother
  have hlead : (n.vacated v k step reason).fromLead n.address = n.pos.lead := by
    rw [Node.fromLead, hnot, hv.pos, hv.address]
    simp
  have hphase : (n.vacated v k step reason).pos.phase = n.pos.phase := by rw [hv.pos]
  have hstart : n.heardVacate n.address k step reason = let n1 := n.vacated v k step reason
      if n1.ofCouple n.address k then
        if step = 0 then
          if reason ≤ 2 then (if n1.pos.phase = .engaging then n1.heardAbort else n1)
          else if n1.pos.lead = true ∧ n1.fromPartner n.address = true ∧ n1.pos.phase.mayLeave = true then n1.beginLeave (reasonOf reason)
          else n1
        else if step = 1 then
          if n1.pos.lead = false ∧ n1.fromPartner n.address = true ∧ (n1.pos.phase.mayLeave = true ∨ n1.pos.phase = .vacating) then
            n1.partnerOpens (reasonOf reason)
          else n1
        else if step = 2 then
          if n1.pos.lead = true ∧ n1.fromPartner n.address = true ∧ n1.pos.phase = .vacating ∧ n1.pos.leaveStep = 2 then n1.leadOpens false
          else n1
        else if step = 3 ∧ n1.fromLead n.address = true ∧ n1.pos.phase = .vacating then n1.leaveEnds
        else n1
      else n1 := by
    unfold Node.heardVacate Node.vacated
    rw [hview]
    simp only [hrow, if_true, true_and, ite_not]
  rw [hstart]
  clear hstart hv
  generalize n.vacated v k step reason = n1 at *
  dsimp only
  rw [hcouple, hnot, hlead, hphase]
  by_cases hposition : n.pos.position = some k
  · rw [if_pos (decide_eq_true hposition)]
    by_cases hzero : step = 0
    · by_cases habort : reason ≤ 2 <;> simp [hposition, hzero, habort]
    · by_cases hone : step = 1
      · simp [hone]
      · by_cases htwo : step = 2
        · simp [htwo]
        · simp [hposition, hzero, hone, htwo]
  · simp [hposition]

theorem Node.heardVacate_places {n : Node} {v : List PosRecord} (hview : n.pos.view = some v) (hrow : n.ownRow n.address = true)
    (hother : n.pos.partner ≠ some n.address) (k step reason : Nat) :
    (n.vacated v k step reason).Places (n.heardVacate n.address k step reason) := by
  rw [Node.heardVacate_own hview hrow hother]
  exact (Node.Places.refl _).heardAbort.ite ((Node.Places.refl _).leaveEnds.ite (.refl _))

theorem Node.heardVacate_bondGraded {n : Node} (hgraded : n.BondGraded) {v : List PosRecord} (hview : n.pos.view = some v)
    (hrow : n.ownRow n.address = true) (hother : n.pos.partner ≠ some n.address) (k step reason : Nat) :
    (n.heardVacate n.address k step reason).BondGraded :=
  (Node.heardVacate_places hview hrow hother k step reason).graded ((n.vacated_vacates v k step reason).graded hgraded)

/-- R166: the own VACATE moves its record. -/
theorem Node.ownVacate_moves {n : Node} (hgraded : n.BondGraded) {v : List PosRecord} (hview : n.pos.view = some v)
    (hrow : n.ownRow n.address = true) (hother : n.pos.partner ≠ some n.address) (k step reason : Nat) (before : Node) :
    ((n.heardVacate n.address k step reason).conclude before).pos.view = some (takeVacate v n.address k step reason) := by
  rw [Node.conclude_pos_of_graded (Node.heardVacate_bondGraded hgraded hview hrow hother k step reason),
    (Node.heardVacate_places hview hrow hother k step reason).view, (n.vacated_vacates v k step reason).pos]

/-- R164, R174, R175: the own VACATE is repeated no more unless it asks to leave, aborts the engage steps, or ends the lead's leave. -/
theorem Node.ownVacate_leaves {n : Node} (hgraded : n.BondGraded) {v : List PosRecord} (hview : n.pos.view = some v)
    (hrow : n.ownRow n.address = true) (hother : n.pos.partner ≠ some n.address) {k : Nat} (hposition : n.pos.position = some k)
    (step reason : Nat) (before : Node) :
    let m := (n.heardVacate n.address k step reason).conclude before
    (step ≠ 0 ∨ reason ≤ 2 → ∀ z ∈ m.pos.repeats, z.1 ≠ .vacate k step reason)
      ∧ (step = 0 → 3 ≤ reason → m.pos.repeats = n.pos.repeats ∧ m.pos.phase = n.pos.phase)
      ∧ (step = 0 → reason ≤ 2 → n.pos.phase = .engaging →
          m.pos.contactor.drive = false
          ∧ (n.pos.lead = true → m.pos.engageLine = false ∧ m.pos.switch.drive = false)
          ∧ (∀ p, n.pres.plan = some p → n.pos.attempts < 2 →
              m.pos.phase = .settleWait ∧ m.pos.attempts = n.pos.attempts + 1 ∧ m.pos.engageTimer = none))
      ∧ (step = 3 → n.pos.lead = true → n.pos.phase = .vacating →
          m.pos.phase = .none ∧ m.pos.position = none ∧ m.pos.contactor.drive = false
          ∧ (n.pair.state = .leaving → n.pair.partner.isSome = true → m.pair.partner = none ∧ m.pair.state.single)) := by
  intro m
  have hevent := Node.heardVacate_bondGraded hgraded hview hrow hother k step reason
  have hv := n.vacated_vacates v k step reason
  have hheard := Node.heardVacate_own hview hrow hother k step reason
  have hm : m.pos = (n.heardVacate n.address k step reason).pos := Node.conclude_pos_of_graded hevent before
  have hmpair : m.pair = (n.heardVacate n.address k step reason).takeCompletions.pair := Node.conclude_pair _ _
  have hreports := Node.takeCompletions_reports hevent
  have hrepeats (hstops : step ≠ 0 ∨ reason ≤ 2) (z : PosNotice × Nat) (hz : z ∈ (n.vacated v k step reason).pos.repeats) :
      z.1 ≠ .vacate k step reason := by
    rw [hv.pos] at hz
    dsimp only at hz
    rw [if_neg fun h => by omega] at hz
    simpa using (List.mem_filter.1 hz).2
  have hlead : (n.vacated v k step reason).pos.lead = n.pos.lead := by rw [hv.pos]
  rw [hm]
  refine ⟨fun hstops z hz => ?_, fun hzero hasks => ?_, fun hzero habort hphase => ?_, fun hthree hislead hphase => ?_⟩
  · rw [hheard] at hz
    split at hz
    next hengaging =>
      rcases (n.vacated v k step reason).heardAbort_aborts.repeats z hz with hold | ⟨j, hnew⟩
      · exact hrepeats hstops z hold
      · rw [hnew, hengaging.2.1]
        nofun
    next =>
      split at hz
      next hleaves =>
        have hnext : (n.vacated v k step reason).pos.phase ≠ .none := by
          rw [hv.pos]
          simp [hleaves.2.2.2]
        obtain ⟨-, -, -, hnone, -⟩ := Node.leaveEnds_spec hnext
        rw [hnone] at hz
        cases hz
      next => exact hrepeats hstops z hz
  · rw [hheard, if_neg fun h => by omega, if_neg fun h => by omega, hv.pos]
    exact ⟨if_pos ⟨hzero, by omega⟩, rfl⟩
  · rw [hheard, if_pos ⟨hposition, hzero, habort, hphase⟩]
    have haborts := (n.vacated v k step reason).heardAbort_aborts
    refine ⟨haborts.contactor, fun h => ⟨haborts.engageLine (hlead.trans h), haborts.switch (hlead.trans h)⟩, fun p hplan hfew => ?_⟩
    have hattempts : (n.vacated v k step reason).pos.attempts = n.pos.attempts := by rw [hv.pos]
    rw [← hattempts]
    exact haborts.again p (by rw [hv.pres]; exact hplan) (by rw [hattempts]; exact hfew)
  · have hends : n.heardVacate n.address k step reason = (n.vacated v k step reason).leaveEnds := by
      rw [hheard, if_neg fun h => by omega, if_pos ⟨hposition, hthree, hislead, hphase⟩]
    have hnext : (n.vacated v k step reason).pos.phase ≠ .none := by
      rw [hv.pos]
      simp [hphase]
    obtain ⟨hnoPhase, hnoPosition, hopen, -, hpair⟩ := Node.leaveEnds_spec hnext
    rw [hmpair]
    rw [hends] at hreports ⊢
    refine ⟨hnoPhase, hnoPosition, hopen, fun hleaving hpartner => ?_⟩
    have hstate : (n.vacated v k step reason).pair.state = .leaving := by
      rw [hv.state, hleaving]
      rw [hleaving]
      rintro (h | h | h) <;> cases h
    obtain ⟨hnoPartner, hsingle⟩ := hpair hstate (by rw [hv.partner]; exact hpartner)
    exact ⟨hreports.partner.trans hnoPartner, hreports.single hsingle⟩

end Sys2Proof.Machine
end

section
/-! PROOFS. FRAME_COMPLETE_CLEAN settled (R22, R24): the clauses of the own notices put together. -/

namespace Sys2Proof.Machine

/-! ### The step as a whole -/

theorem Node.sent_live (n : Node) : n.sent.live = n.live := by rw [Node.sent_eq]; rfl

/-- R24: the node hears the own frame that the Codec delivers. -/
theorem Node.hearOwn_heardSelf {n : Node} {q : Queued} {x : Notice} (hlive : n.live = true)
    (hx : decode q.kind n.address q.payload = some x) : (n.sent.hearOwn q).conclude n = n.heardSelf x := by
  unfold Node.hearOwn
  rw [if_pos (n.sent_live.trans hlive), n.sent_address, hx]
  rfl

theorem Node.hearOwn_works {n : Node} (haddress : n.AddressLaw) (q : Queued) : n.Works (n.hearOwn q) := by
  unfold Node.hearOwn
  split
  next hlive =>
    have hnode := (haddress hlive).1
    split
    next x hx =>
      obtain ⟨hcome, -⟩ := decode_spec hx
      have hsystem (hk : q.kind = .plan ∨ q.kind = .directive) : n.address = 0 := by
        rcases hk with hk | hk <;> simpa [hk, Kind.mayCome] using hcome
      exact Node.Works.start.deliver hx (fun hk => by have := hsystem (.inl hk); omega) (fun hk => by have := hsystem (.inr hk); omega)
    next => exact .start
  next => exact .start

/-- R22: the line after the clean completion; the node state stands. -/
theorem Node.complete_line {n : Node} (haddress : n.AddressLaw) (q : Queued) :
    let m := (n.sent.hearOwn q).conclude n
    m.line.state = .busy ∧ m.line.sending = none ∧ m.line.abandons = 0 ∧ m.line.cleanDue = false ∧ m.pres = n.pres := by
  have hlaw : n.sent.AddressLaw := by
    rw [Node.AddressLaw, n.sent_live, n.sent_address]
    exact haddress
  have hworks : n.sent.Works ((n.sent.hearOwn q).conclude n) := (Node.hearOwn_works hlaw q).conclude
  dsimp only
  rw [hworks.line, hworks.pres, Node.sent_eq]
  exact ⟨rfl, rfl, rfl, rfl, rfl⟩

/-- R24: READOUT, FAULT and GRADE of the node itself change nothing but its fault list and its silence timers. -/
theorem Node.complete_table {n : Node} (hsettled : n.Settled) {q : Queued} (hk : q.kind = .readout ∨ q.kind = .fault ∨ q.kind = .grade) :
    let m := (n.sent.hearOwn q).conclude n
    m.serv = n.sentServ ∧ m.mon = n.mon ∧ m.duty = n.duty ∧ m.grade = n.grade ∧ m.peers = n.peers ∧ m.pos = n.pos := by
  have hends (k : Node) (hkept : k.Settled) (h : k.serv = n.sentServ ∧ k.mon = n.mon ∧ k.duty = n.duty ∧ k.grade = n.grade
      ∧ k.peers = n.peers ∧ k.pos = n.pos) : (k.conclude n).serv = n.sentServ ∧ (k.conclude n).mon = n.mon
      ∧ (k.conclude n).duty = n.duty ∧ (k.conclude n).grade = n.grade ∧ (k.conclude n).peers = n.peers ∧ (k.conclude n).pos = n.pos := by
    rw [Node.conclude_serv, Node.conclude_mon, Node.conclude_duty, Node.conclude_grade, Node.conclude_peers, Node.conclude_pos,
      Node.takeCompletions_of_settled hkept]
    exact h
  have hsent := hends n.sent (by rw [Node.sent_eq]; exact hsettled) (by rw [Node.sent_eq]; exact ⟨rfl, rfl, rfl, rfl, rfl, rfl⟩)
  have hnoted := hends n.noted (Node.noted_settled hsettled) (by
    obtain ⟨party, silent, partner, hnoted, -⟩ := n.noted_eq
    rw [hnoted]
    exact ⟨rfl, rfl, rfl, rfl, rfl, rfl⟩)
  cases hlive : n.live with
  | false =>
    have hdeaf : n.sent.hearOwn q = n.sent := by
      unfold Node.hearOwn
      rw [n.sent_live, hlive]
      rfl
    rw [hdeaf]
    exact hsent
  | true =>
    cases hx : decode q.kind n.address q.payload with
    | none =>
      have hdiscarded : n.sent.hearOwn q = n.sent := by
        unfold Node.hearOwn
        rw [if_pos (n.sent_live.trans hlive), n.sent_address, hx]
      rw [hdiscarded]
      exact hsent
    | some x =>
      rw [Node.hearOwn_heardSelf hlive hx, Node.heardSelf_table hk hx]
      exact hnoted

/-! ### The wait for room after a void AGREE (R126) -/

/-- R126: the request that waits again finds room, or waits on. -/
theorem Node.waitsAgain_tests {n : Node} {p : Plan} (hplan : n.pres.plan = some p) {r : Request} (hrequest : n.rail.request = some r) :
    let k : Nat := if p.weight n.address = 0 then (if p.share = 0 then 1 else min r.units p.share) else r.units
    let next : Option Nat := some (n.address * 16 + n.rail.serial)
    let m := n.waitsAgain.roomTest
    (n.rail.retryTimer.isSome = true ∨ ¬n.hasRoom p k → m.rail.side = .waiting ∧ m.rail.current = none)
      ∧ (n.rail.retryTimer = none → n.hasRoom p k →
          (r.isTest = true → m.rail.side = .needing ∧ m.rail.current = next ∧ m.rail.asked = k)
          ∧ (r.isTest = false → n.pair.partner.isSome = true → m.rail.side = .agreeing ∧ m.rail.current = next ∧ m.rail.asked = k)) := by
  intro k next m
  have hasked : n.waitsAgain.askedUnits p r = k := n.waitsAgain_asked p r
  refine ⟨fun hnoRoom => ?_, fun hretry hroom => ?_⟩
  · have hstays : m = n.waitsAgain := Node.roomTest_of_noRoom (n := n.waitsAgain) hplan hrequest (by rw [hasked]; exact hnoRoom)
    rw [hstays]
    exact ⟨rfl, rfl⟩
  · have hfinds := Node.roomTest_of_room (n := n.waitsAgain) hplan hrequest rfl hretry (by rw [hasked]; exact hroom)
    rw [hasked] at hfinds
    exact hfinds

theorem OwnRecord.spends_iff (o : OwnRecord) (side : OwnSide) :
    o.spends side = true ↔ o.initiator = true ∧ o.dropped = false ∧ (o.join = true ∨ side = .party) := by
  simp [OwnRecord.spends, and_assoc]

/-! ### The statement -/

/-- Settles O7: the line as every completion leaves it, and each own notice by the theorem of its kind on the node that has noted it. -/
theorem frameCompleteCleanIsHeard : Obligations.FrameCompleteCleanIsHeard := by
  intro n w q hsettled haddress hpair hline hsending own at1000
  obtain ⟨party, silent, partner, hnoted, hself⟩ := n.noted_eq
  let r : Node := n.retimed n.sent.line n.sentServ party silent partner
  change n.noted = r at hnoted
  have hstep := Node.frameCompleteClean_of_sending hline hsending
  obtain ⟨hstate, hnoSending, habandons, hclean, hpres⟩ := Node.complete_line haddress q
  have hheard {k : Kind} {x : Notice} (h : own k x) : (n.sent.hearOwn q).conclude n = n.heardSelf x := by
    obtain ⟨hlive, rfl, hx⟩ := h
    exact Node.hearOwn_heardSelf hlive hx
  have hgraded {k : Kind} {x : Notice} (h : own k x) : n.BondGraded := Node.bondGraded_of_pairLaw hpair h.1
  refine ⟨(n.sent.hearOwn q).conclude n, State.act_eq (f := Node.frameCompleteClean) (by rw [hstep]), hstate, hnoSending, habandons, hclean,
    hpres, Node.complete_table hsettled, ?need, ?agree, ?release, ?level, ?bind, ?claim, ?record, ?couple⟩
  case need =>
    intro id dir units e hown p hplan hside hcurrent
    rw [hheard hown, n.heardSelf_need, hnoted, Node.ownNeed_opensWindow (n := r) hsettled hplan hside hcurrent]
    exact ⟨rfl, rfl, rfl, rfl, hcurrent⟩
  case agree =>
    intro t hown p hplan mine
    rw [hheard hown, n.heardSelf_agree, hnoted]
    refine ⟨fun hfits => Node.ownAgree_valid (n := r) hsettled hplan hfits n, fun hsound hnot => ?_⟩
    obtain ⟨hview, hrecord, hwait, hagain⟩ :=
      Node.ownAgree_void (n := r) hsettled hplan hsound hnot n
    refine ⟨hview, hrecord, hwait, fun hmine hrequest => ?_, fun hmine request hrequest => ?_⟩
    · rw [hagain hmine, Node.roomTest_of_noRequest (by exact hrequest)]
      exact ⟨rfl, rfl⟩
    · rw [hagain hmine]
      exact Node.waitsAgain_tests (n := r) hplan hrequest
  case release =>
    intro id units cause hown p hplan hview hnodup
    rw [hheard hown, n.heardSelf_release, hnoted]
    rcases Nat.eq_zero_or_pos units with rfl | hunits
    · obtain ⟨hrepeats, hleft⟩ := Node.ownRelease_frees (n := r) hsettled
        (hgraded hown) hplan hview hnodup n (cause := cause)
      refine ⟨hrepeats, fun _ => ⟨hleft, fun o ho hid => ?_⟩, fun hunits => absurd hunits (by omega)⟩
      obtain rfl := hid
      obtain ⟨hnone, hparty, hstarting, hkeeps, hspends, hjoin⟩ := Node.ownRelease_ends
        (n := r) hsettled (hgraded hown) hplan ho hview hnodup n (cause := cause)
      rw [← Bool.not_eq_true, OwnRecord.spends_iff] at hkeeps
      rw [OwnRecord.spends_iff] at hspends
      exact ⟨hnone, hparty, hstarting, hkeeps, hspends, hjoin⟩
    · obtain ⟨hrepeats, hrecord, hlowered⟩ := Node.ownRelease_lowers (n := r)
        hsettled hplan hview hnodup hunits n (cause := cause)
      exact ⟨hrepeats, fun hzero => absurd hzero (by omega), fun _ => ⟨hrecord, hlowered⟩⟩
  case level =>
    intro id o ho hid hview
    obtain rfl := hid
    have hparty := partyInView_of_mem hview
    refine ⟨fun hown p hplan => ?_, fun hown hending => ?_⟩
    · rw [hheard hown, n.heardSelf_suspend, hnoted]
      exact Node.ownSuspend_holds (n := r) hsettled ho hplan hparty n
    · rw [hheard hown, n.heardSelf_resume, hnoted]
      obtain ⟨hflag, htimer, hduty⟩ := Node.ownResume_returns (n := r)
        hsettled ho hparty n
      refine ⟨hflag, htimer, fun hside hsuspended => ?_⟩
      rw [hduty hside]
      exact Duty.ownResumed_get hsuspended
  case bind =>
    intro x hown proposed
    rw [hheard hown, n.heardSelf_bind, hnoted]
    refine ⟨fun hproposed htest hgrade => ⟨fun hlower => ?_, fun hlead hactive v hview k hfree => ?_⟩, fun hproposed htest => ?_,
      fun hproposed hpartner hx => ?_, fun hproposed hpartner hnotSelf hdue => ?_⟩
    · obtain ⟨hbound, hpos⟩ := Node.ownBind_partner (n := r) hsettled hproposed
        htest hgrade hlower n
      rw [hbound, hpos]
      exact ⟨rfl, rfl, rfl, rfl, rfl, decide_eq_false (by exact Nat.lt_asymm hlower), rfl, rfl⟩
    · obtain ⟨hbound, hclaims⟩ := Node.ownBind_lead (n := r) hsettled hproposed
        htest hgrade hlead hactive hview hfree n
      rw [hbound]
      exact ⟨rfl, rfl, hclaims⟩
    · exact Node.ownBind_fails (n := r) hsettled hproposed htest n
    · have hsame := Node.heardBind_of_partner (n := r) hproposed hpartner
      obtain ⟨rfl, rfl⟩ := hself (by rw [hpartner]; exact fun h => hx (Option.some.inj h))
      rw [hsame, Node.conclude_pair, Node.takeCompletions_of_settled (by exact hsettled)]
      rfl
    · obtain ⟨rfl, rfl⟩ := hself hnotSelf
      have hmark : (n.retimed n.sent.line n.sentServ party n.pair.silent n.pair.silenceTimer).mark = n.mark := by
        have hserv : n.sentServ = n.serv := if_neg (by simp [hdue])
        rw [hserv]
        rfl
      obtain ⟨hsame, hqueue⟩ := Node.ownBind_answered (n := n.retimed n.sent.line n.sentServ party n.pair.silent n.pair.silenceTimer)
        hsettled hproposed hpartner hmark
      refine ⟨hsame, hqueue.trans ?_⟩
      rw [Node.sent_eq]
      rfl
  case claim =>
    intro k y hown v hview x hrecord hrow hpartner hlower mine recorded
    have hclaim : r.OwnClaim v x k y :=
      ⟨hgraded hown, hview, hrecord, hrow, hpartner, hlower⟩
    rw [hheard hown, n.heardSelf_claim, hnoted]
    refine ⟨fun hcouple => ?_, fun hcouple => ⟨_, hclaim.moves n, takeClaim_moves hrecord hcouple hlower⟩,
      fun hrec hmine p hplan => hclaim.wins hrec hmine hplan n, fun hrec hmine hother => hclaim.withdraws hrec hmine hother n,
      fun hrec hmine hfew hactive => hclaim.claimsNext hrec hmine hfew hactive n,
      fun hrec hmine hmany hbound hsome => hclaim.givesUp hrec hmine hmany hbound hsome n⟩
    exact (hclaim.moves n).trans (congrArg some (takeClaim_recorded hrecord hcouple))
  case record =>
    intro v hview hrow hother k moved
    refine ⟨fun step soc volt hown => ?_, fun step reason hown => ?_⟩
    · rw [hheard hown, n.heardSelf_engage, hnoted]
      refine ⟨takeEngage v n.address k step, Node.ownEngage_moves (n := r) (hgraded hown) hview hrow hother k step soc volt n,
        takeEngage_moves v n.address k step, fun hstep hvolt hsoc => ?_⟩
      subst hvolt hsoc
      exact Node.ownEngage_steps (n := r) (hgraded hown) hview hrow hother hstep n
    · rw [hheard hown, n.heardSelf_vacate, hnoted]
      exact ⟨takeVacate v n.address k step reason, Node.ownVacate_moves (n := r) (hgraded hown) hview hrow hother k step reason n,
        takeVacate_moves v n.address k step reason⟩
  case couple =>
    intro v hview hrow k hposition
    refine ⟨fun s hown hjoining => ?_, fun hown hlead hphase => ?_, fun step reason hown hother => ?_⟩
    · rw [hheard hown, n.heardSelf_engage, hnoted]
      exact ⟨fun hwaits => Node.ownSettled_waits (n := r) (hgraded hown) hview hrow hposition hjoining s hwaits n,
        fun p hplan f hprofile b hpartner hphase =>
          Node.ownSettled_checks (n := r) hsettled (hgraded hown) hview hrow hposition s hplan hprofile hpartner hphase n⟩
    · rw [hheard hown, n.heardSelf_engage, hnoted]
      exact Node.ownStep3_joins (n := r) hsettled hview hrow hposition hlead hphase n
    · rw [hheard hown, n.heardSelf_vacate, hnoted]
      exact Node.ownVacate_leaves (n := r) (hgraded hown) hview hrow hother hposition step reason n

end Sys2Proof.Machine
end

section
/-! PROOFS. The reset state (R28, R36), a PLAN beside a stored one (R42), the end of the listen window (R37, R38) and the timed
notices (R46, R47, R95, R140, R164). -/

namespace Sys2Proof.Machine

/-! ### Reset -/

/-- Settles O3: the reset state is the power-on state at strap value 1, with every table empty. -/
theorem resetKeepsLaws : Obligations.ResetKeepsLaws := by
  have hqueue : State.reset.node.QueueLaw := (Node.queueLaw_iff _).2 ⟨.nil, fun _ hq => nomatch hq⟩
  have hpeers : State.reset.node.PeerLaw := ⟨.nil, fun _ he => nomatch he⟩
  have hcontactor : State.reset.node.ContactorLaw := ⟨trivial, nofun, fun hphase => absurd rfl hphase, nofun, nofun⟩
  have hpair : State.reset.node.PairLaw :=
    ⟨(by rintro (h | h | h | h) <;> cases h), (by rintro - (h | h | h | h) <;> cases h)⟩
  have hstops : State.reset.node.SilenceLaw := fun h => by rcases h with h | h <;> cases h
  exact ⟨rfl, rfl, rfl, rfl, rfl, hqueue, hpeers, rfl, fun hset => absurd rfl hset, rfl, powerOn_faults _ _, hcontactor, hpair, hstops,
    ⟨rfl, .inl rfl⟩, powerOn_addressLaw _ _, nofun, nofun⟩

/-! ### What every notice of another station does first -/

/-- R20, R52, R139, R159: line state, silence timers, silence flag and the age of the source's entry change, and nothing else. -/
theorem Node.heardFrom_eq (n : Node) (src : Nat) : n.heardFrom src = { n with
    line := { n.line with state := .busy },
    peers := { n.peers with entries := (n.heardFrom src).peers.entries },
    rail := { n.rail with silenceTimer := (n.heardFrom src).rail.silenceTimer },
    pair := { n.pair with silent := (n.heardFrom src).pair.silent, silenceTimer := (n.heardFrom src).pair.silenceTimer } } := by
  have hnoted (m : Node) : m.pairNote src = { m with pair := { m.pair with
      silent := (m.pairNote src).pair.silent, silenceTimer := (m.pairNote src).pair.silenceTimer } } := by
    unfold Node.pairNote Node.startSilence
    split
    · split <;> rfl
    · rfl
  rw [Node.heardFrom, Node.peerTouch_eq, hnoted, Node.railNote_eq]
  rfl

theorem Node.heardFrom_settled {n : Node} (h : n.Settled) (src : Nat) : (n.heardFrom src).Settled := by
  rw [Node.heardFrom_eq]
  exact h

/-- R24, R29: a PLAN heard reaches the Presence Controller after what every notice does. -/
theorem Node.hear_plan {n : Node} {h : Heard} {x : PlanPart} (hheard : n.hears .plan h (.plan x)) :
    n.hear .plan h = (n.heardFrom h.source).heardPlan x := by
  obtain ⟨hreceives, hlive, hsource, hdecode⟩ := hheard
  rw [Node.hear, if_pos hreceives, if_pos hlive, if_neg hsource, hdecode]
  exact congrArg (Node.heardPlan · x) (if_neg hsource)

/-! ### PLAN beside a stored plan -/

/-- R178, R180: a new code with room in the list is entered last, and its FAULT is handed. -/
theorem Node.reportFault_of_room {n : Node} {code : FaultCode} {detail : Option BreachKind} (h : n.faultRoom code) :
    n.reportFault code detail =
      (n.onServ fun s => { s with faults := s.faults ++ [n.newFault code detail] }).handFault (n.newFault code detail) := by
  have hnone : n.serv.faults.find? (fun e => e.code == code) = none := List.find?_eq_none.2 fun e he => by simpa using h.1 e he
  simp only [Node.reportFault, takeReport, hnone, h.2, if_true]
  rfl

/-- R178, R180: the event code PLAN CONFLICT is entered latched, and its FAULT states the active entries that stand. -/
theorem Node.reportFault_planConflict {n : Node} (h : n.faultRoom .planConflict) : n.reportFault .planConflict = { n with
    serv := { n.serv with faults := n.serv.faults ++ [n.newFault .planConflict none] },
    line := { n.line with
      queue := n.offered (noticeOf .fault 250 [(0, .num 4), (1, .num 1), (2, .notKnown), (3, .num n.serv.active)]) } } := by
  have hactive : Service.active { n.serv with faults := n.serv.faults ++ [n.newFault .planConflict none] } = n.serv.active := by
    simp [Service.active, FaultCode.condition]
  rw [Node.reportFault_of_room h, Node.handFault, Node.hand_eq, Node.hand, Node.handPart_queue]
  simp only [Node.onServ_serv, hactive]
  rfl

/-- Settles O11: a plan of the stored identity is passed over, one of another reports PLAN CONFLICT. -/
theorem planConflictKeepsPlan : Obligations.PlanConflictKeepsPlan := by
  intro n w h x p hsettled hheard hplan
  have hframe := n.heardFrom_eq h.source
  have hserv : (n.heardFrom h.source).serv = n.serv := by rw [hframe]
  have hnew : (n.heardFrom h.source).newFault .planConflict none = n.newFault .planConflict none := by rw [hframe]
  have hfrom : (n.heardFrom h.source).Settled := Node.heardFrom_settled hsettled _
  have hstored : (n.heardFrom h.source).pres.plan = some p := by rw [hframe]; exact hplan
  refine ⟨fun hsame => State.act_eq (f := fun n => n.hear .plan h) ?_, fun hother hroom => State.act_eq (f := fun n => n.hear .plan h) ?_⟩
  case refine_1 =>
    rw [Node.hear_plan hheard, Node.heardPlan, hstored]
    dsimp only
    rw [if_pos hsame, Node.conclude_of_settled n hfrom]
  case refine_2 =>
    have hroom' : (n.heardFrom h.source).faultRoom .planConflict := by rw [Node.faultRoom, hserv]; exact hroom
    rw [Node.hear_plan hheard, Node.heardPlan, hstored]
    dsimp only
    rw [if_neg hother, Node.reportFault_planConflict hroom', Node.conclude_of_settled, hserv, hnew]
    · rfl
    · exact hfrom

/-! ### Timed notices -/

/-- A notice handed without rank and part is offered where the queue takes notices (R26, R34). -/
theorem Node.hand_offered (n : Node) (k : Kind) (fields : List (Nat × Value)) :
    n.hand k fields = { n with line := { n.line with queue := n.offered (noticeOf k (k.priority 0) fields) } } := by
  rw [Node.hand_eq, Node.hand, Node.handPart_queue]

/-- R46: a PRESENCE handed in a state that speaks is offered with the fields of R47, and its timer starts anew. -/
theorem Node.sendPresence_eq {n : Node} (hopen : n.queueOpen = true) : n.sendPresence = { n with
    line := { n.line with queue := offerQueue n.presenceQueued n.line.queue },
    pres := { n.pres with presenceTimer := some (n.mon.now + n.presenceInterval) } } := by
  rw [Node.sendPresence, Node.hand_offered, Node.offered, if_pos hopen, Node.presence_eq]
  rfl

/-- R38, R46: the interval of the presence timer. -/
theorem Node.presenceInterval_eq (n : Node) : n.presenceInterval = if n.pres.state = .unplanned then 1000
    else match n.pres.plan with | some p => p.presencePeriod | none => 1000 := by
  unfold Node.presenceInterval
  cases n.pres.state <;> cases n.pres.plan <;> rfl

/-- R95: a GRADE handed in a state that repeats it is offered with the published copy, and its timer starts anew. -/
theorem Node.handGrade_eq {n : Node} {p : Plan} (hplan : n.pres.plan = some p) (hopen : n.queueOpen = true)
    (hrepeats : n.pres.state.repeats = true) : n.handGrade = { n with
      line := { n.line with
        queue := offerQueue (noticeOf .grade 100 (gradeFields n.grade.generation n.grade.published.cls.code n.grade.published))
          n.line.queue },
      grade := { n.grade with repeatTimer := some (n.mon.now + 8 * p.presencePeriod) } } := by
  simp only [Node.handGrade, hplan, hrepeats, if_true]
  rw [Node.hand_offered, Node.offered, if_pos hopen]
  rfl

/-- R140: a notice of the Rail Allocator under repeat is handed again, and its interval starts anew. -/
theorem Node.railRepeatExpiry_eq {n : Node} {x : RailNotice} {t : Nat} (h : (x, t) ∈ n.rail.repeats) :
    n.railRepeatExpiry x = { n with
      line := (n.sendRail x).line,
      rail := { n.rail with repeats := n.rail.repeats.map fun y => if y.1 = x then (x, n.mon.now + 1000) else y } } := by
  rw [Node.railRepeatExpiry, if_pos (List.contains_iff_mem.2 (List.mem_map_of_mem h)), Node.sendRail_eq]
  rfl

/-- R164: a notice of the Position Manager under repeat is handed again, and its interval starts anew. -/
theorem Node.positionRepeatExpiry_eq {n : Node} {x : PosNotice} {t : Nat} (h : (x, t) ∈ n.pos.repeats) :
    n.positionRepeatExpiry x = { n with
      line := (n.sendPos x).line,
      pos := { n.pos with repeats := n.pos.repeats.map fun y => if y.1 = x then (x, n.mon.now + 1000) else y } } := by
  rw [Node.positionRepeatExpiry, if_pos (List.contains_iff_mem.2 (List.mem_map_of_mem h)), Node.sendPos_eq]
  rfl

/-- Settles O13: each timer's expiry hands its one notice and restarts what it repeats by. -/
theorem timedNoticesAreHanded : Obligations.TimedNoticesAreHanded := by
  intro n w hsettled sent railAgain posAgain
  have hrail {x : RailNotice} {q : Queued} {t : Nat} (hmem : (x, t) ∈ n.rail.repeats) (hsend : (n.sendRail x).line = sent q) :
      exec (.railRepeatExpiry x) ⟨n, w⟩ = .next ⟨{ n with line := sent q, rail := railAgain x }, w⟩ := by
    refine State.act_eq (f := fun n => n.railRepeatExpiry x) ?_
    rw [Node.railRepeatExpiry_eq hmem, hsend]
    exact Node.conclude_of_mark hsettled rfl
  have hpos {x : PosNotice} {q : Queued} {t : Nat} (hmem : (x, t) ∈ n.pos.repeats) (hsend : (n.sendPos x).line = sent q) :
      exec (.positionRepeatExpiry x) ⟨n, w⟩ = .next ⟨{ n with line := sent q, pos := posAgain x }, w⟩ := by
    refine State.act_eq (f := fun n => n.positionRepeatExpiry x) ?_
    rw [Node.positionRepeatExpiry_eq hmem, hsend]
    exact Node.conclude_of_mark hsettled rfl
  have hline (k : Kind) (fields : List (Nat × Value)) : (n.hand k fields).line = sent (noticeOf k (k.priority 0) fields) := by
    rw [Node.hand_offered]
  refine ⟨fun htimer hspeaks => State.act_eq (f := Node.presenceTimerExpiry) ?_,
    fun p hplan htimer hspeaks => State.act_eq (f := Node.gradeRepeatExpiry) ?_,
    fun id units cause t hmem => hrail hmem (hline _ _), fun id t hmem => hrail hmem (hline _ _), fun id t hmem => hrail hmem (hline _ _),
    fun k y t hmem => hpos hmem (hline _ _), fun k step t soc hmem => hpos hmem (hline _ _), fun k step r t hmem => hpos hmem (hline _ _)⟩
  case refine_1 =>
    have hopen : n.queueOpen = true := by rcases hspeaks with h | h | h <;> simp [Node.queueOpen, h]
    rw [Node.presenceTimerExpiry, if_pos ⟨htimer, hspeaks⟩, Node.sendPresence_eq hopen, Node.presenceInterval_eq]
    exact Node.conclude_of_mark hsettled rfl
  case refine_2 =>
    have hopen : n.queueOpen = true := by rcases hspeaks with h | h <;> simp [Node.queueOpen, h]
    have hrepeats : n.pres.state.repeats = true := by rcases hspeaks with h | h <;> simp [NodeState.repeats, h]
    rw [Node.gradeRepeatExpiry, if_pos ⟨htimer, hrepeats⟩, Node.handGrade_eq hplan hopen hrepeats]
    exact Node.conclude_of_mark hsettled rfl

/-! ### The end of the listen window -/

/-- R46: a PRESENCE handed restarts the presence timer, and the Presence Controller keeps the rest. -/
theorem Node.sendPresence_pres (n : Node) :
    n.sendPresence.pres = { n.pres with presenceTimer := some (n.mon.now + n.presenceInterval) } := by
  rw [Node.sendPresence, Node.hand_eq]
  rfl

/-- The Presence Controller after the entry into ACTIVE or HOLD under a plan (R36, R46). -/
def Presence.entered (q : Presence) (s : NodeState) (hold : Bool) (now : Nat) (p : Plan) : Presence :=
  { q with state := s, listenTimer := none, presenceTimer := some (now + p.presencePeriod), quietTimer := none, holdFlag := hold }

/-- The entry into ACTIVE as far as the Presence Controller makes it, and what the blocks do at its report (R36, R46). -/
def Node.activeEntered (n : Node) : Node := ((n.setState .active).onPres fun q => { q with holdFlag := false }).sendPresence

/-- The entry into HOLD as far as the Presence Controller makes it (R43, R46). -/
def Node.holdEntered (n : Node) : Node := ((n.setState .hold).onPres fun q => { q with holdFlag := true }).sendPresence

theorem Node.enterActive_works (n : Node) : n.activeEntered.Works n.enterActive :=
  Node.Works.start.gradeActive.rederive.roomTest.testEligible.claimIfLead

theorem Node.enterHold_works (n : Node) : n.holdEntered.Works n.enterHold :=
  Node.Works.start.gradeHold.railHold.rederive.dissolve.testEligible

theorem Node.activeEntered_pres {n : Node} {p : Plan} (hplan : n.pres.plan = some p) :
    n.activeEntered.pres = n.pres.entered .active false n.mon.now p := by
  rw [Node.activeEntered, Node.sendPresence_pres, Node.presenceInterval_eq]
  simp [Node.setState, Node.onPres, hplan, Presence.entered]

theorem Node.holdEntered_pres {n : Node} {p : Plan} (hplan : n.pres.plan = some p) :
    n.holdEntered.pres = n.pres.entered .hold true n.mon.now p := by
  rw [Node.holdEntered, Node.sendPresence_pres, Node.presenceInterval_eq]
  simp [Node.setState, Node.onPres, hplan, Presence.entered]

/-- R37, R38: a node without plan becomes UNPLANNED with a PRESENCE, and nothing else changes. -/
theorem Node.enterUnplanned_eq (n : Node) : n.enterUnplanned = { n with
    line := { n.line with queue := offerQueue n.enterUnplanned.presenceQueued n.line.queue },
    pres := { n.pres with
      state := .unplanned, listenTimer := none, presenceTimer := some (n.mon.now + 1000), quietTimer := none } } := by
  rw [Node.enterUnplanned, Node.sendPresence_eq (by rfl)]
  rfl

/-- Settles O12: without a plan the entry into UNPLANNED, with one the entries into HOLD and ACTIVE. -/
theorem listenWindowExpiryMoves : Obligations.ListenWindowExpiryMoves := by
  intro n w hsettled hlisten htimer
  have hends : n.listenWindowExpiry = n.listenEnds := if_pos ⟨hlisten, htimer⟩
  refine ⟨n.listenEnds.conclude n, State.act_eq (f := Node.listenWindowExpiry) (by rw [hends]), ?_⟩
  cases hplan : n.pres.plan with
  | none =>
    have hconclude : n.listenEnds.conclude n = n.enterUnplanned := by
      rw [Node.listenEnds, hplan, Option.isNone_none, if_pos rfl]
      rw [Node.enterUnplanned_eq]
      exact Node.conclude_of_mark hsettled rfl
    rw [hconclude, Node.enterUnplanned_eq]
    exact ⟨rfl, rfl, hplan, rfl, rfl, rfl, rfl, fun _ => ⟨rfl, rfl, rfl, rfl, rfl, rfl, rfl, rfl, rfl⟩⟩
  | some p =>
    cases hhold : n.pres.holdFlag with
    | true =>
      have hpres : (n.listenEnds.conclude n).pres = n.pres.entered .hold true n.mon.now p := by
        rw [Node.listenEnds, hplan, hhold, Option.isNone_some, if_neg Bool.false_ne_true, if_pos rfl,
          n.enterHold_works.conclude.pres, Node.holdEntered_pres hplan]
      rw [hpres]
      exact ⟨rfl, rfl, hplan, rfl, rfl, rfl, rfl, fun h => nomatch h⟩
    | false =>
      have hpres : (n.listenEnds.conclude n).pres = n.pres.entered .active false n.mon.now p := by
        rw [Node.listenEnds, hplan, hhold, Option.isNone_some, if_neg Bool.false_ne_true, if_neg Bool.false_ne_true,
          n.enterActive_works.conclude.pres, Node.activeEntered_pres hplan]
      rw [hpres]
      exact ⟨rfl, rfl, hplan, rfl, rfl, rfl, rfl, fun h => nomatch h⟩

end Sys2Proof.Machine
end

section
/-! PROOFS. What the work of the blocks at a change of node state, at the end of a bond and at the taking of completions keeps
(`Node.Keeps`), and that the end of a step leaves nothing to be taken (R83, R101, R136). -/

namespace Sys2Proof.Machine

/-! ### What the rail block keeps -/

/-- The own record of an exchange that is no JOIN: it stands but for its final RELEASE and for its being asked for no more, which at a
counterpart nothing makes it (R135). -/
structure OwnRecord.Stays (o o' : OwnRecord) : Prop where
  eq : o' = { o with released := o'.released, dropped := o'.dropped }
  released : o.released = true → o'.released = true
  dropped : o.dropped = true → o'.dropped = true
  counterpart : o.initiator = false → o'.dropped = o.dropped

/-- What the rail block keeps: its view, the own exchange where it is no JOIN, and the absence of an offer held and of a
classification. -/
structure Rail.Stays (r r' : Rail) : Prop where
  view : r'.view = r.view
  held : r.held = none → r'.held = none
  ordinary : r.testOrdinary = none → r'.testOrdinary = none
  own : ∀ o, r.own = some o → o.join = false → ∃ o', r'.own = some o' ∧ o.Stays o'

namespace OwnRecord.Stays

variable {o o' o'' : OwnRecord}

theorem refl (o : OwnRecord) : o.Stays o := ⟨rfl, fun h => h, fun h => h, fun _ => rfl⟩

theorem join (h : o.Stays o') : o'.join = o.join := by rw [h.eq]

theorem initiator (h : o.Stays o') : o'.initiator = o.initiator := by rw [h.eq]

theorem trans (h : o.Stays o') (h' : o'.Stays o'') : o.Stays o'' where
  eq := by rw [h'.eq, h.eq]
  released := h'.released ∘ h.released
  dropped := h'.dropped ∘ h.dropped
  counterpart hi := (h'.counterpart (h.initiator.trans hi)).trans (h.counterpart hi)

end OwnRecord.Stays

namespace Rail.Stays

variable {r r' r'' : Rail}

theorem refl (r : Rail) : r.Stays r := ⟨rfl, id, id, fun o ho _ => ⟨o, ho, .refl o⟩⟩

theorem trans (h : r.Stays r') (h' : r'.Stays r'') : r.Stays r'' where
  view := h'.view.trans h.view
  held := h'.held ∘ h.held
  ordinary := h'.ordinary ∘ h.ordinary
  own o ho hjoin := by
    obtain ⟨o', ho', hstays⟩ := h.own o ho hjoin
    obtain ⟨o'', ho'', hstays'⟩ := h'.own o' ho' (hstays.join.trans hjoin)
    exact ⟨o'', ho'', hstays.trans hstays'⟩

/-- The own record stands, or is marked as released or as asked for no more. -/
theorem of_map (f : OwnRecord → OwnRecord) (hf : ∀ o : OwnRecord, o.Stays (f o)) (hview : r'.view = r.view) (hheld : r'.held = r.held ∨ r'.held = none)
    (hordinary : r'.testOrdinary = r.testOrdinary ∨ r'.testOrdinary = none) (hown : r'.own = r.own.map f) : r.Stays r' where
  view := hview
  held hn := hheld.elim (fun h => h.trans hn) id
  ordinary hn := hordinary.elim (fun h => h.trans hn) id
  own o ho _ := ⟨f o, by rw [hown, ho, Option.map_some], hf o⟩

theorem of_eq (hview : r'.view = r.view) (hheld : r'.held = r.held ∨ r'.held = none)
    (hordinary : r'.testOrdinary = r.testOrdinary ∨ r'.testOrdinary = none) (hown : r'.own = r.own) : r.Stays r' :=
  of_map id .refl hview hheld hordinary (by rw [hown, Option.map_id_fun, id])

theorem sameBut (h : r.sameBut r') : r.Stays r' := by
  have heq : r' = { r with repeats := r'.repeats } := h
  rw [heq]
  exact of_eq rfl (.inl rfl) (.inl rfl) rfl

/-- A request withdrawn leaves its exchange asked for no more at its initiator (R126, R135). -/
theorem dropRequest (r : Rail) : r.Stays r.dropRequest :=
  of_map (fun o => { o with dropped := o.dropped || o.initiator }) (fun o => ⟨rfl, id, fun h => by simp [h], fun h => by simp [h]⟩)
    rfl (.inl rfl) (.inl rfl) rfl

/-- A JOIN, and no other exchange, may end. -/
theorem of_join (hown : ∀ o, r.own = some o → o.join = true) (hview : r'.view = r.view) (hheld : r'.held = r.held)
    (hordinary : r'.testOrdinary = r.testOrdinary) : r.Stays r' where
  view := hview
  held hn := hheld.trans hn
  ordinary hn := hordinary.trans hn
  own o ho hjoin := by simp [hown o ho] at hjoin

end Rail.Stays

/-- R126: the test for room holds and ends no offer. -/
theorem Node.roomTest_held (n : Node) : n.roomTest.rail.held = n.rail.held := by
  unfold Node.roomTest
  split
  · split
    · split
      · rw [Node.handNeed_rail]
      · unfold Node.handJoin
        split
        · rw [Node.onRail_rail, Node.handAgree_rail]
        · rfl
    · rfl
  · rfl

/-- R135: the final RELEASE marks the own record, and its exchange's level is all else that it ends. -/
theorem Node.releaseOwn_own (n : Node) (cause : Nat) :
    (n.releaseOwn cause).rail.own = n.rail.own.map fun o => { o with released := true } := by
  unfold Node.releaseOwn
  split
  next o hown =>
    rw [hown]
    split
    · have hrail := ((n.handRail (.release o.id 0 cause)).onRail fun r =>
        { r with own := some { o with released := true }, startTimer := none }).endLevel_rail o.level
      rw [hrail]
      rfl
    · rfl
  next hown => rw [hown]; rfl

/-! ### What the blocks keep -/

/-- The fault list after reports of this code without detail, any number of them (R178). -/
def Reported (c : FaultCode) : List FaultEntry → List FaultEntry → Prop :=
  Relation.ReflTransGen fun l l' => ∃ seen, l' = (takeReport c none seen l).1

/-- The deadline of the repeat timer as a GRADE handed now sets it (R95). -/
def Node.gradeDue (n : Node) : Timer :=
  match n.pres.plan with
  | some p => if n.pres.state.repeats then n.after (8 * p.presencePeriod) else none
  | none => none

/-- A node that is not ACTIVE, without a partner to find or to lose: UNPAIRED, JOINED or LEAVING. -/
def Node.stands (n : Node) : Prop :=
  n.active = false ∧ (n.pair.state = .unpaired ∨ n.pair.state = .joined ∨ n.pair.state = .leaving)

/-- What the blocks keep when they seek, grade, end a bond, withdraw a request and take completions, reporting no fault but `c`: the
Presence Controller, the measurements, the row view, the last result and the rail view; the repeat timer or its restart; a rest in
REST_A without a request; and pair and couple of a node that stands. -/
structure Node.Keeps (c : FaultCode) (n m : Node) : Prop where
  pres : m.pres = n.pres
  mon : m.mon = { n.mon with watchGrade := m.mon.watchGrade, watchPosition := m.mon.watchPosition }
  rows : m.pos.view = n.pos.view
  serv : m.serv = { n.serv with faults := m.serv.faults }
  faults : Reported c n.serv.faults m.serv.faults
  repeats : m.grade.repeatTimer = n.grade.repeatTimer ∨ m.grade.repeatTimer = n.gradeDue
  rail : n.rail.Stays m.rail
  rests : n.grade.state = .restA →
    m.grade.state = .restA ∧ m.mon.watchGrade = n.mon.watchGrade ∧ (n.rail.request = none → m.rail.request = none)
  couple : n.stands → m.pair.state = n.pair.state ∧ m.pair.partner = n.pair.partner ∧ m.pos.phase = n.pos.phase
    ∧ m.pos.contactor = n.pos.contactor ∧ m.pos.switch = n.pos.switch

namespace Node.Keeps

variable {c : FaultCode} {n m k : Node}

theorem refl (c : FaultCode) (n : Node) : n.Keeps c n :=
  ⟨rfl, rfl, rfl, rfl, .refl, .inl rfl, .refl _, fun h => ⟨h, rfl, id⟩, fun _ => ⟨rfl, rfl, rfl, rfl, rfl⟩⟩

theorem now (h : n.Keeps c m) : m.mon.now = n.mon.now := by rw [h.mon]

theorem gradeDue (h : n.Keeps c m) : m.gradeDue = n.gradeDue := by simp only [Node.gradeDue, Node.after, h.pres, h.now]

theorem active (h : n.Keeps c m) : m.active = n.active := by rw [Node.active, h.pres]; rfl

theorem live (h : n.Keeps c m) : m.live = n.live := by rw [Node.live, h.pres]; rfl

/-- A node that stands goes on standing. -/
theorem standing (h : n.Keeps c m) (hn : n.stands) : m.stands :=
  ⟨h.active.trans hn.1, by rw [(h.couple hn).1]; exact hn.2⟩

theorem trans (h : n.Keeps c m) (hk : m.Keeps c k) : n.Keeps c k where
  pres := hk.pres.trans h.pres
  mon := by rw [hk.mon, h.mon]
  rows := hk.rows.trans h.rows
  serv := by rw [hk.serv, h.serv]
  faults := h.faults.trans hk.faults
  repeats := by
    rcases hk.repeats with hsame | hdue
    · rw [hsame]; exact h.repeats
    · exact .inr (hdue.trans h.gradeDue)
  rail := h.rail.trans hk.rail
  rests hn := by
    obtain ⟨hstate, hwatch, hnone⟩ := h.rests hn
    obtain ⟨hstate', hwatch', hnone'⟩ := hk.rests hstate
    exact ⟨hstate', hwatch'.trans hwatch, hnone' ∘ hnone⟩
  couple hn := by
    obtain ⟨hstate, hpartner, hphase, hcontactor, hswitch⟩ := h.couple hn
    obtain ⟨hstate', hpartner', hphase', hcontactor', hswitch'⟩ := hk.couple (h.standing hn)
    exact ⟨hstate'.trans hstate, hpartner'.trans hpartner, hphase'.trans hphase, hcontactor'.trans hcontactor, hswitch'.trans hswitch⟩

theorem ite {p : Prop} [Decidable p] {a b : Node} (ha : n.Keeps c a) (hb : n.Keeps c b) : n.Keeps c (if p then a else b) := by
  split
  · exact ha
  · exact hb

theorem foldl {α : Type} {f : Node → α → Node} (hf : ∀ k x, n.Keeps c k → n.Keeps c (f k x)) {l : List α} (h : n.Keeps c m) :
    n.Keeps c (l.foldl f m) := by
  induction l generalizing m with
  | nil => exact h
  | cons x xs ih => exact ih (hf m x h)

/-! #### One block at a time -/

theorem onLine {f : Line → Line} (h : n.Keeps c m) : n.Keeps c (m.onLine f) :=
  h.trans ⟨rfl, rfl, rfl, rfl, .refl, .inl rfl, .refl _, fun h => ⟨h, rfl, id⟩, fun _ => ⟨rfl, rfl, rfl, rfl, rfl⟩⟩

theorem onPeers {f : Peers → Peers} (h : n.Keeps c m) : n.Keeps c (m.onPeers f) :=
  h.trans ⟨rfl, rfl, rfl, rfl, .refl, .inl rfl, .refl _, fun h => ⟨h, rfl, id⟩, fun _ => ⟨rfl, rfl, rfl, rfl, rfl⟩⟩

theorem onDuty {f : Duty → Duty} (h : n.Keeps c m) : n.Keeps c (m.onDuty f) :=
  h.trans ⟨rfl, rfl, rfl, rfl, .refl, .inl rfl, .refl _, fun h => ⟨h, rfl, id⟩, fun _ => ⟨rfl, rfl, rfl, rfl, rfl⟩⟩

theorem onRail {f : Rail → Rail} (hstays : m.rail.Stays (f m.rail)) (hrequest : m.rail.request = none → (f m.rail).request = none)
    (h : n.Keeps c m) : n.Keeps c (m.onRail f) :=
  h.trans ⟨rfl, rfl, rfl, rfl, .refl, .inl rfl, hstays, fun h => ⟨h, rfl, hrequest⟩, fun _ => ⟨rfl, rfl, rfl, rfl, rfl⟩⟩

/-- The Grade Engine's own fields, out of REST_A or within its state. -/
theorem onGrade {f : Grader → Grader} (hrepeats : (f m.grade).repeatTimer = m.grade.repeatTimer)
    (hrest : m.grade.state = .restA → (f m.grade).state = .restA) (h : n.Keeps c m) : n.Keeps c (m.onGrade f) :=
  h.trans ⟨rfl, rfl, rfl, rfl, .refl, .inl hrepeats, .refl _, fun h => ⟨hrest h, rfl, id⟩, fun _ => ⟨rfl, rfl, rfl, rfl, rfl⟩⟩

theorem onPair {f : Pairing → Pairing} (hsame : n.stands → (f m.pair).state = m.pair.state ∧ (f m.pair).partner = m.pair.partner)
    (h : n.Keeps c m) : n.Keeps c (m.onPair f) where
  pres := h.pres
  mon := h.mon
  rows := h.rows
  serv := h.serv
  faults := h.faults
  repeats := h.repeats
  rail := h.rail
  rests := h.rests
  couple hn := by
    obtain ⟨hstate, hpartner, hpos⟩ := h.couple hn
    exact ⟨(hsame hn).1.trans hstate, (hsame hn).2.trans hpartner, hpos⟩

theorem onPos {f : Positions → Positions} (hview : (f m.pos).view = m.pos.view)
    (hsame : n.stands → (f m.pos).phase = m.pos.phase ∧ (f m.pos).contactor = m.pos.contactor ∧ (f m.pos).switch = m.pos.switch)
    (h : n.Keeps c m) : n.Keeps c (m.onPos f) where
  pres := h.pres
  mon := h.mon
  rows := hview.trans h.rows
  serv := h.serv
  faults := h.faults
  repeats := h.repeats
  rail := h.rail
  rests := h.rests
  couple hn := by
    obtain ⟨hstate, hpartner, hphase, hcontactor, hswitch⟩ := h.couple hn
    obtain ⟨hphase', hcontactor', hswitch'⟩ := hsame hn
    exact ⟨hstate, hpartner, hphase'.trans hphase, hcontactor'.trans hcontactor, hswitch'.trans hswitch⟩

theorem cancelPosition (h : n.Keeps c m) : n.Keeps c m.cancelPosition :=
  h.trans ⟨rfl, rfl, rfl, rfl, .refl, .inl rfl, .refl _, fun h => ⟨h, rfl, id⟩, fun _ => ⟨rfl, rfl, rfl, rfl, rfl⟩⟩

theorem handPart {q : Kind} {rank part : Nat} {fields : List (Nat × Value)} (h : n.Keeps c m) :
    n.Keeps c (m.handPart q rank part fields) := h.onLine.ite h

theorem hand {q : Kind} {fields : List (Nat × Value)} (h : n.Keeps c m) : n.Keeps c (m.hand q fields) := h.handPart

theorem sendRail {x : RailNotice} (h : n.Keeps c m) : n.Keeps c (m.sendRail x) := by cases x <;> exact h.hand

theorem handRail {x : RailNotice} (h : n.Keeps c m) : n.Keeps c (m.handRail x) :=
  h.sendRail.onRail (.of_eq rfl (.inl rfl) (.inl rfl) rfl) id

theorem sendPos {x : PosNotice} (h : n.Keeps c m) : n.Keeps c (m.sendPos x) := by cases x <;> exact h.hand

theorem handPos {x : PosNotice} (h : n.Keeps c m) : n.Keeps c (m.handPos x) := h.sendPos.onPos rfl fun _ => ⟨rfl, rfl, rfl⟩

/-- The one fault that may be reported. -/
theorem reportFault (h : n.Keeps c m) : n.Keeps c (m.reportFault c) :=
  h.trans (by
    rw [Node.reportFault_eq]
    exact ⟨rfl, rfl, rfl, rfl, .single ⟨_, rfl⟩, .inl rfl, .refl _, fun h => ⟨h, rfl, id⟩, fun _ => ⟨rfl, rfl, rfl, rfl, rfl⟩⟩)

/-! #### The levels (R78, R79, R81, R84) -/

theorem localSuspension {id : Option Nat} (h : n.Keeps c m) : n.Keeps c (m.localSuspension id) := by
  unfold Node.localSuspension
  split
  · exact h.handRail.ite h
  · exact h

theorem suspendHere {i : LevelId} (h : n.Keeps c m) : n.Keeps c (m.suspendHere i) := h.onDuty.localSuspension.ite h

theorem accept {i : LevelId} {r : LevelRequest} (h : n.Keeps c m) : n.Keeps c (m.accept i r) := by
  unfold Node.accept
  extract_lets n1 n2
  have h2 : n.Keeps c n2 := h.onDuty.onDuty.ite h.onDuty
  exact (h2.suspendHere.ite h2).ite h.onDuty

theorem takeKept {i : LevelId} (h : n.Keeps c m) : n.Keeps c (m.takeKept i) := by
  unfold Node.takeKept
  split
  · exact h.onDuty.accept
  · exact h

theorem rampDown (h : n.Keeps c m) : n.Keeps c m.rampDown := by
  unfold Node.rampDown
  refine onDuty ?_
  split
  · exact h.onDuty.takeKept.ite h
  · exact h

theorem settle {old : Option LevelId} (h : n.Keeps c m) : n.Keeps c (m.settle old) := h.ite (h.onDuty.rampDown.ite h.onDuty)

theorem endLevel {i : LevelId} (h : n.Keeps c m) : n.Keeps c (m.endLevel i) := by
  unfold Node.endLevel
  split
  · exact h.onDuty.settle
  · exact h.onDuty.settle
  · exact h.onDuty.settle
  · exact h
  · exact h

/-! #### Requests and the own exchange (R126, R133, R135, R142) -/

theorem roomTest (h : n.Keeps c m) : n.Keeps c m.roomTest := by
  have hasks := m.roomTest_asks
  refine h.trans ?_
  rw [Node.roomTest_eq]
  exact ⟨rfl, rfl, rfl, rfl, .refl, .inl rfl, .of_eq hasks.view (.inl m.roomTest_held) (.inl hasks.testOrdinary) hasks.own,
    fun h => ⟨h, rfl, fun hn => hasks.request.trans hn⟩, fun _ => ⟨rfl, rfl, rfl, rfl, rfl⟩⟩

theorem releaseOwn {cause : Nat} (h : n.Keeps c m) : n.Keeps c (m.releaseOwn cause) := by
  unfold Node.releaseOwn
  split
  next o hown =>
    extract_lets n2
    have h2 : n.Keeps c n2 := by
      refine h.handRail.onRail (.of_map (fun o => { o with released := true }) (fun o => ⟨rfl, fun _ => rfl, id, fun _ => rfl⟩) rfl (.inl rfl)
        (.inl rfl) ?_) id
      rw [Node.handRail_eq, hown]
      rfl
    exact h2.endLevel.ite h2
  next => exact h

theorem backToWaiting (h : n.Keeps c m) : n.Keeps c m.backToWaiting := h.onRail (.of_eq rfl (.inl rfl) (.inl rfl) rfl) id

theorem dropRequest (h : n.Keeps c m) : n.Keeps c (m.onRail Rail.dropRequest) := h.onRail (.dropRequest _) fun _ => rfl

theorem withdrawTest {release : Bool} (h : n.Keeps c m) : n.Keeps c (m.withdrawTest release) := by
  unfold Node.withdrawTest
  extract_lets n1
  have h1 : n.Keeps c n1 := by
    refine ite (ite ?_ (dropRequest ?_)) h
    · exact h.backToWaiting.onRail ((Rail.Stays.dropRequest _).trans (.of_eq rfl (.inl rfl) (.inl rfl) rfl)) fun _ => rfl
    · split
      · exact h.releaseOwn.ite h
      · exact h
  exact h1.onRail (.of_eq rfl (.inl rfl) (.inr rfl) rfl) id

/-- A JOIN withdrawn ends or marks an own exchange that is a JOIN alone (R133, R135). -/
theorem withdrawJoin {release : Bool} (h : n.Keeps c m) : n.Keeps c (m.withdrawJoin release) := by
  have hreleased : n.Keeps c (if release = true then m.releaseOwn causeStop else m) := h.releaseOwn.ite h
  unfold Node.withdrawJoin
  extract_lets n0 n1
  have h1 : n.Keeps c n1 := by
    change n.Keeps c (match m.rail.own with | some o => _ | none => _)
    split
    next o hown =>
      split
      next hjoin =>
        have hown0 : ∀ o', n0.rail.own = some o' → o'.join = true := by
          change ∀ o', (if release = true then m.releaseOwn causeStop else m).rail.own = some o' → o'.join = true
          split
          · rw [Node.releaseOwn_own, hown]
            rintro _ ⟨⟩
            exact hjoin.1
          · rw [hown]
            rintro _ ⟨⟩
            exact hjoin.1
        exact ite (onPos rfl (fun _ => ⟨rfl, rfl, rfl⟩) (onRail (.of_join hown0 rfl rfl rfl) id hreleased))
          (onRail (.of_join hown0 rfl rfl rfl) id hreleased)
      next => exact h
    next => exact (h.backToWaiting.onRail (.of_eq rfl (.inl rfl) (.inl rfl) rfl) id).ite h
  exact h1.dropRequest.ite h1

/-! #### Seeking and grading (R93, R95, R146-R149) -/

/-- The Grade Engine takes a report of the pair state: out of another state than REST_A. -/
theorem pairReported (h : n.Keeps c m) : n.Keeps c m.pairReported := by
  refine h.trans ?_
  have hrest : m.grade.state = .restA → m.pairReported = m := fun hstate => by
    simp [Node.pairReported, Node.abortSelfRest, Node.startRegime, Node.mayStart, hstate]
  rw [Node.pairReported_eq]
  exact ⟨rfl, rfl, rfl, rfl, .refl, .inl rfl, .refl _, fun hstate => by rw [hrest hstate]; exact ⟨hstate, rfl, id⟩,
    fun _ => ⟨rfl, rfl, rfl, rfl, rfl⟩⟩

theorem startRegime (h : n.Keeps c m) : n.Keeps c m.startRegime := by
  refine h.trans ?_
  have hrest : m.grade.state = .restA → m.startRegime = m := fun hstate => by simp [Node.startRegime, Node.mayStart, hstate]
  rw [Node.startRegime_eq]
  exact ⟨rfl, rfl, rfl, rfl, .refl, .inl rfl, .refl _, fun hstate => by rw [hrest hstate]; exact ⟨hstate, rfl, id⟩,
    fun _ => ⟨rfl, rfl, rfl, rfl, rfl⟩⟩

theorem setPair {s : PairState} (hn : ¬n.stands) (h : n.Keeps c m) : n.Keeps c (m.setPair s) :=
  h.ite (h.onPair fun hs => absurd hs hn).pairReported

theorem endProposal (hn : ¬n.stands) (h : n.Keeps c m) : n.Keeps c m.endProposal := h.onPair fun hs => absurd hs hn

theorem retarget (h : n.Keeps c m) : n.Keeps c m.retarget := h.onPair fun _ => ⟨rfl, rfl⟩

theorem bar {x : Nat} (h : n.Keeps c m) : n.Keeps c (m.bar x) := by
  unfold Node.bar
  split
  · exact (h.onPair fun _ => ⟨rfl, rfl⟩).retarget
  · exact h

theorem propose {t : Nat} (hn : ¬n.stands) (h : n.Keeps c m) : n.Keeps c (m.propose t) := by
  unfold Node.propose
  split
  · exact (h.hand.onPair fun hs => absurd hs hn).setPair hn
  · exact h

theorem seekOn (h : n.Keeps c m) : n.Keeps c m.seekOn := by
  refine h.trans ?_
  unfold Node.seekOn
  split
  · split
    next hseeking => exact (refl c m).propose fun hs => by simp [Node.stands, hseeking] at hs
    next => exact refl c m
  · exact refl c m

theorem testEligible (h : n.Keeps c m) : n.Keeps c m.testEligible := by
  refine h.trans ?_
  unfold Node.testEligible
  split
  next =>
    split
    next =>
      split
      next heligible =>
        have hactive : ¬m.stands := fun hs => by rw [Node.eligible_of_inactive hs.1] at heligible; cases heligible
        exact ((refl c m).setPair hactive).seekOn
      next => exact refl c m
    next hseeking => exact (refl c m).ite ((refl c m).setPair fun hs => by simp [Node.stands, hseeking] at hs)
    next hproposing =>
      have hn : ¬m.stands := fun hs => by simp [Node.stands, hproposing] at hs
      exact (refl c m).ite (((refl c m).endProposal hn).setPair hn)
    all_goals exact refl c m
  next => exact refl c m

theorem rederive (h : n.Keeps c m) : n.Keeps c m.rederive := h.ite (h.onPeers.retarget.seekOn.ite h.onPeers)

theorem handGrade (h : n.Keeps c m) : n.Keeps c m.handGrade := by
  refine h.trans ?_
  have hgrade : m.handGrade = (m.hand .grade (gradeFields m.grade.generation m.grade.published.cls.code m.grade.published)).onGrade fun g =>
    { g with repeatTimer := m.gradeDue } := rfl
  rw [hgrade, Node.hand_eq]
  exact ⟨rfl, rfl, rfl, rfl, .refl, .inr rfl, .refl _, fun h => ⟨h, rfl, id⟩, fun _ => ⟨rfl, rfl, rfl, rfl, rfl⟩⟩

/-! #### The end of a bond (R154, R155, R176) -/

theorem endBond {release : Bool} (hn : ¬n.stands) (h : n.Keeps c m) : n.Keeps c (m.endBond release) := by
  have hfree {a : Node} {f : Positions → Positions} (ha : n.Keeps c a) (hview : (f a.pos).view = a.pos.view) : n.Keeps c (a.onPos f) :=
    ha.onPos hview fun hs => absurd hs hn
  have hclaims {a : Node} {lead : Bool} {partner : Option Nat} (ha : n.Keeps c a) : n.Keeps c (a.withdrawClaim lead partner) := by
    unfold Node.withdrawClaim
    split
    · exact foldl (fun _ _ hk => hk.handPos) ha
    · exact ha
  unfold Node.endBond
  split
  · extract_lets n1 n2
    have hopened : n.Keeps c ((m.driveContactor false none).bypass none) := by
      have hdriven : n.Keeps c (m.driveContactor false none) := hfree h rfl
      exact ite (hfree (hfree hdriven rfl) rfl) hdriven
    have h2 : n.Keeps c n2 := hfree (hfree hopened.withdrawJoin.cancelPosition rfl) rfl
    exact hclaims h2
  · exact h

theorem dissolve {cause : Nat} {send release : Bool} (h : n.Keeps c m) : n.Keeps c (m.dissolve cause send release) := by
  refine h.trans ?_
  unfold Node.dissolve
  split
  · split
    next hbonded =>
      have hn : ¬m.stands := fun hs => by
        rcases hs.2 with hs | hs | hs <;> simp [Node.bonded, hs] at hbonded
      extract_lets n1 n2 n3
      have h2 : m.Keeps c n2 := ((refl c m).hand.ite (refl c m)).onPair fun hs => absurd hs hn
      have h3 : m.Keeps c n3 := h2.bar.ite h2
      exact ((h3.endBond hn).setPair hn).testEligible
    next => exact refl c m
  · exact refl c m

theorem testBond (h : n.Keeps c m) : n.Keeps c m.testBond := by
  unfold Node.testBond
  split
  · exact h.dissolve.ite h
  · exact h

theorem noPosition (h : n.Keeps c m) : n.Keeps c m.noPosition := h.dissolve.ite h

theorem chooseClaim (hn : ¬n.stands) (h : n.Keeps c m) : n.Keeps c m.chooseClaim := by
  have hfree {a : Node} {f : Positions → Positions} (ha : n.Keeps c a) (hview : (f a.pos).view = a.pos.view) : n.Keeps c (a.onPos f) :=
    ha.onPos hview fun hs => absurd hs hn
  unfold Node.chooseClaim
  extract_lets n1
  have h1 : n.Keeps c n1 := hfree h rfl
  split
  · split
    · exact (hfree (hfree h1 rfl) rfl).handPos
    · exact h1.noPosition
  · exact hfree h1 rfl

theorem claimIfLead (h : n.Keeps c m) : n.Keeps c m.claimIfLead := by
  refine h.trans ?_
  unfold Node.claimIfLead
  split
  next hactive => exact (refl c m).chooseClaim fun hs => by rw [hs.1] at hactive; simp at hactive
  next => exact refl c m

/-! #### Publication and completions (R95, R98-R105) -/

theorem publish {r : Record} (h : n.Keeps c m) : n.Keeps c (m.publish r) :=
  (h.onGrade (f := fun g => { g with published := r, generation := (g.generation + 1) % 256 }) rfl id).handGrade.rederive.testBond.testEligible

/-- Out of another state than REST_A the Grade Engine moves freely, and so does its watch. -/
theorem leaveGrade {f : Grader → Grader} (hrepeats : (f m.grade).repeatTimer = m.grade.repeatTimer) (hn : n.grade.state ≠ .restA)
    (h : n.Keeps c m) : n.Keeps c (m.onGrade f) where
  pres := h.pres
  mon := h.mon
  rows := h.rows
  serv := h.serv
  faults := h.faults
  repeats := by
    rw [Node.onGrade_grade, hrepeats]
    exact h.repeats
  rail := h.rail
  rests hs := absurd hs hn
  couple := h.couple

theorem openRest (hn : n.grade.state ≠ .restA) (h : n.Keeps c m) : n.Keeps c m.openRest := by
  unfold Node.openRest
  split
  next p _ => exact ⟨h.pres, congrArg (fun x : Monitor => { x with watchGrade := some { duration := p.restMs, sampled := false } }) h.mon, h.rows,
      h.serv, h.faults, h.repeats, h.rail, fun hs => absurd hs hn, h.couple⟩
  next => exact h

theorem enterRestA (hn : n.grade.state ≠ .restA) (h : n.Keeps c m) : n.Keeps c m.enterRestA := (h.leaveGrade rfl hn).openRest hn

theorem beginRequest {q : Request} (hn : n.grade.state ≠ .restA) (h : n.Keeps c m) : n.Keeps c (m.beginRequest q) := by
  unfold Node.beginRequest
  extract_lets n1
  have h1 : n.Keeps c n1 := ⟨h.pres, h.mon, h.rows, h.serv, h.faults, h.repeats, h.rail.trans (.of_eq rfl (.inl rfl) (.inl rfl) rfl),
    fun hs => absurd hs hn, h.couple⟩
  exact h1.backToWaiting.roomTest.ite h1

/-- R105: a failed attempt, of a node that is not in REST_A. -/
theorem failAttempt (hn : n.grade.state ≠ .restA) (h : n.Keeps .gradeFail m) : n.Keeps .gradeFail m.failAttempt :=
  ((h.leaveGrade rfl hn).enterRestA hn).ite (((h.leaveGrade rfl hn).leaveGrade rfl hn).testEligible.reportFault.publish)

theorem testDone {ordinary : Bool} (h : n.Keeps .gradeFail m) : n.Keeps .gradeFail (m.testDone ordinary) := by
  refine h.trans ?_
  unfold Node.testDone
  split
  next htest =>
    have hn : m.grade.state ≠ .restA := by simp [htest.2]
    exact (((refl _ m).leaveGrade rfl hn).openRest hn).ite ((refl _ m).failAttempt hn)
  next => exact refl _ m

theorem enterCapTest (hn : n.grade.state ≠ .restA) (h : n.Keeps c m) : n.Keeps c m.enterCapTest := by
  unfold Node.enterCapTest
  split
  · exact (h.leaveGrade rfl hn).beginRequest hn
  · exact h

theorem pulseDone {x : Completion} (h : n.Keeps c m) : n.Keeps c (m.pulseDone x) := by
  refine h.trans ?_
  unfold Node.pulseDone
  split
  next hpulse =>
    have hn : m.grade.state ≠ .restA := by simp [hpulse.2]
    have hrest := (refl c m).enterRestA hn
    split
    · exact (((refl c m).leaveGrade rfl hn).enterCapTest hn).ite hrest
    · exact hrest
  next => exact refl c m

theorem testStopped {exchange : Option Nat} (h : n.Keeps .gradeFail m) : n.Keeps .gradeFail (m.testStopped exchange) := by
  have htaken : m.rail.Stays (m.rail.testTaken exchange) := by
    unfold Rail.testTaken
    split
    next hruns =>
      refine ⟨rfl, id, fun _ => rfl, fun o hown _ => ⟨{ o with dropped := true }, ?_, rfl, fun h => h, fun _ => rfl, fun hi => ?_⟩⟩
      · simp [Rail.disown, hown]
      · simp [Rail.runsTest, hown, OwnRecord.servesTest, hi] at hruns
    next => exact .of_eq rfl (.inl rfl) (.inr rfl) rfl
  have hrequest : m.rail.request = none → (m.rail.testTaken exchange).request = none := fun hnone => by
    unfold Rail.testTaken
    split
    · rfl
    · exact hnone
  unfold Node.testStopped
  exact ite (h.onRail (f := fun r => r.testTaken exchange) htaken hrequest).testDone h

theorem takeCompletion {x : Completion} (h : n.Keeps .gradeFail m) : n.Keeps .gradeFail (m.takeCompletion x) := by
  unfold Node.takeCompletion
  split
  · exact h.pulseDone
  · exact h.testStopped
  · exact h.testStopped
  · exact h.onRail (.of_eq rfl (.inl rfl) (.inl rfl) rfl) id
  all_goals exact h

theorem settleTest (h : n.Keeps .gradeFail m) : n.Keeps .gradeFail m.settleTest := by
  unfold Node.settleTest
  split
  · exact (h.onRail (.of_eq rfl (.inl rfl) (.inr rfl) rfl) id).testDone.ite h
  · exact h

theorem takeCompletions (h : n.Keeps .gradeFail m) : n.Keeps .gradeFail m.takeCompletions :=
  (foldl (fun _ _ hk => hk.takeCompletion) h).settleTest.onDuty

theorem rebuildPresence (h : n.Keeps c m) : n.Keeps c m.rebuildPresence := by
  rw [Node.rebuildPresence_eq]
  exact h.onLine (f := fun l => { l with queue := m.rebuildPresence.line.queue })

/-- The end of a step keeps what the taking of its completions keeps. -/
theorem conclude {before : Node} (h : n.Keeps .gradeFail m) : n.Keeps .gradeFail (m.conclude before) :=
  h.takeCompletions.ite h.takeCompletions.rebuildPresence

end Node.Keeps

/-! ### The end of a step -/

/-- R101, R136: with the classification taken, none comes of the test's end. -/
theorem Node.settleTest_settles (n : Node) : n.settleTest.rail.testEnded = false ∨ n.settleTest.rail.testOrdinary = none := by
  unfold Node.settleTest
  split
  next =>
    split
    next => exact .inr ((Node.Keeps.refl .gradeFail _).testDone.rail.ordinary rfl)
    next hended => exact .inl (by simpa using hended)
  next hnone => exact .inr hnone

/-- At the end of a step every completion report has been taken. -/
theorem Node.conclude_settled (n before : Node) : (n.conclude before).Settled := by
  rw [Node.Settled, Node.conclude_duty, Node.conclude_rail]
  exact ⟨rfl, Node.settleTest_settles _⟩

/-- Settles O2: POWER_ON_RESET leaves nothing to be taken, and every other command ends its step. -/
theorem everyCommandSettles : Obligations.EveryCommandSettles := by
  intro c s
  cases c with
  | powerOnReset straps tag => exact ⟨Node.powerOn straps tag, rfl, rfl, .inl rfl⟩
  | _ => exact ⟨_, rfl, Node.conclude_settled _ _⟩

end Sys2Proof.Machine
end

section
/-! PROOFS. Line rejoin (R44, R60, R74, R90, R144, R163, R177): the exchange levels cleared, the bond dissolved, the row view set FREE. -/

namespace Sys2Proof.Machine

/-! ### Levels cleared without a report (R89, R90) -/

/-- R89: a level that a clearing leaves ENDING makes no report. -/
theorem Duty.clear_unreported {d : Duty} {i : LevelId} (h : ((d.clear i).get i).state = .ending) :
    ((d.clear i).get i).reported = false := by
  unfold Duty.clear at h ⊢
  dsimp only at h ⊢
  split at h
  next hempty => rw [hempty] at h; cases h
  next hfull =>
    rw [if_neg hfull]
    split at h
    next hholder => rw [if_pos hholder, Duty.get_upd]
    next => rw [Duty.get_put] at h; cases h

theorem Duty.clear_reports (d : Duty) (i : LevelId) : (d.clear i).reports = d.reports := by
  unfold Duty.clear
  extract_lets d1
  have hkeep : d1.reports = d.reports := d.keep_reports i none
  split
  · exact hkeep
  · split
    · rw [Duty.upd_reports, hkeep]
    · rw [Duty.put_reports, hkeep]

/-- R89: the cleared levels are over, keep no request and make no report; the others and the converter stand. -/
theorem Duty.clearAll_spec (is : List LevelId) (d : Duty) :
    (∀ i ∈ is, ((is.foldl Duty.clear d).get i).over ∧ (is.foldl Duty.clear d).kept i = none
        ∧ (((is.foldl Duty.clear d).get i).state = .ending → ((is.foldl Duty.clear d).get i).reported = false))
      ∧ (∀ i ∉ is, (is.foldl Duty.clear d).get i = d.get i ∧ (is.foldl Duty.clear d).kept i = d.kept i)
      ∧ (is.foldl Duty.clear d).conv = d.conv ∧ (is.foldl Duty.clear d).reports = d.reports := by
  induction is generalizing d with
  | nil => exact ⟨nofun, fun _ _ => ⟨rfl, rfl⟩, rfl, rfl⟩
  | cons i is ih =>
    obtain ⟨hcleared, hothers, hconv, hreports⟩ := ih (d.clear i)
    obtain ⟨hover, hget, hconvFirst, hkept⟩ := d.clear_spec i
    refine ⟨fun j hj => ?_, fun j hj => ?_, hconv.trans hconvFirst, hreports.trans (d.clear_reports i)⟩
    · by_cases hin : j ∈ is
      · exact hcleared j hin
      · obtain rfl : j = i := (List.mem_cons.1 hj).resolve_right hin
        obtain ⟨hsame, hkeptSame⟩ := hothers j hin
        rw [List.foldl_cons, hsame, hkeptSame, hkept, if_pos rfl]
        exact ⟨hover, rfl, Duty.clear_unreported⟩
    · obtain ⟨hne, hin⟩ := not_or.1 (List.mem_cons.not.1 hj)
      obtain ⟨hsame, hkeptSame⟩ := hothers j hin
      rw [List.foldl_cons, hsame, hkeptSame, hkept, if_neg hne]
      exact ⟨hget j hne, rfl⟩

/-- The setpoint's going to 0 under a holder that was cleared (R78): no other block hears of it, none is reported, and a level that is
over stays so. -/
theorem Node.dropSetpoint_of_cleared {n : Node} (hkept : ∀ i, n.duty.conv.holder = some i → n.duty.kept i = none)
    (hreported : ∀ i, n.duty.conv.holder = some i → (n.duty.get i).state = .ending → (n.duty.get i).reported = false) :
    n.dropSetpoint = { n with duty := n.dropSetpoint.duty } ∧ n.dropSetpoint.duty.reports = n.duty.reports
      ∧ ∀ i, (n.duty.get i).over → (n.dropSetpoint.duty.get i).over := by
  unfold Node.dropSetpoint Node.rampIfIdle
  have hzero (i : LevelId) : (n.duty.setpoint 0).get i = n.duty.get i := n.duty.get_setpoint 0 i
  split
  case isFalse => exact ⟨rfl, rfl, fun i hi => (hzero i).symm ▸ hi⟩
  case isTrue =>
    unfold Node.rampDown
    extract_lets n1
    have h1 : n1 = { n with duty := n1.duty } ∧ n1.duty.reports = n.duty.reports ∧ ∀ i, (n.duty.get i).over → (n1.duty.get i).over := by
      unfold n1
      split
      next i hholder =>
        have hnone : (n.duty.setpoint 0).kept i = none := by
          rw [← hkept i hholder]
          cases i <;> rfl
        split
        next hending =>
          rw [Node.onDuty_duty, hzero] at hending
          obtain ⟨hempty, hothers, -⟩ := (n.duty.setpoint 0).finish_spec i ((n.duty.get i).cause.getD .ended)
          simp only [Node.takeKept, Node.onDuty_duty, Duty.finish_kept, hnone, hzero]
          refine ⟨rfl, ?_, fun j hj => ?_⟩
          · simp [Duty.finish, hzero, hreported i hholder hending]
            rfl
          · by_cases hji : j = i
            · exact .inl (by rw [hji, hempty]; rfl)
            · rw [hothers j hji, hzero]
              exact hj
        next => exact ⟨rfl, rfl, fun j hj => (hzero j).symm ▸ hj⟩
      next => exact ⟨rfl, rfl, fun j hj => (hzero j).symm ▸ hj⟩
    obtain ⟨hnode, hreports, hover⟩ := h1
    refine ⟨by rw [hnode]; rfl, (Duty.handOver_reports _).trans hreports, fun i hi => ?_⟩
    change (n1.duty.handOver.get i).over
    rw [Duty.handOver_get, if_neg fun hready => by rcases hover i hi with ho | ho <;> simp [ho] at hready]
    exact hover i hi

/-- R90: line rejoin clears the exchange levels and leaves every block but the levels. -/
theorem Node.clearLevels_exchange (n : Node) :
    n.clearLevels exchangeLevels = { n with duty := (n.clearLevels exchangeLevels).duty }
      ∧ (n.clearLevels exchangeLevels).duty.reports = n.duty.reports
      ∧ (∀ i ∈ exchangeLevels, ((n.clearLevels exchangeLevels).duty.get i).over)
      ∧ (n.duty.exchanging = false ∨ n.duty.conv.holder = some .protect ∨ n.duty.conv.holder = some .pulse →
        (n.clearLevels exchangeLevels).duty.protect = n.duty.protect ∧ (n.clearLevels exchangeLevels).duty.pulse = n.duty.pulse
          ∧ (n.clearLevels exchangeLevels).duty.conv = n.duty.conv) := by
  obtain ⟨hcleared, hothers, hconv, hreports⟩ := Duty.clearAll_spec exchangeLevels n.duty
  generalize hd : exchangeLevels.foldl Duty.clear n.duty = d at hcleared hothers hconv hreports
  have hprotect : d.protect = n.duty.protect := (hothers .protect (by decide)).1
  have hpulse : d.pulse = n.duty.pulse := (hothers .pulse (by decide)).1
  have hclear : n.clearLevels exchangeLevels = match n.duty.conv.holder with
      | some i => if exchangeLevels.contains i then ({ n with duty := d } : Node).settle n.duty.owner else { n with duty := d }
      | none => ({ n with duty := d } : Node).settle n.duty.owner := by
    rw [← hd]
    rfl
  have hways : n.clearLevels exchangeLevels = { n with duty := d } ∨ (n.clearLevels exchangeLevels = ({ n with duty := d } : Node).dropSetpoint
      ∧ ∀ i, n.duty.conv.holder = some i → i ∈ exchangeLevels) := by
    have hsettle : ({ n with duty := d } : Node).settle n.duty.owner = { n with duty := d }
        ∨ ({ n with duty := d } : Node).settle n.duty.owner = ({ n with duty := d } : Node).dropSetpoint := by
      unfold Node.settle
      split
      · exact .inl rfl
      · exact .inr rfl
    rw [hclear]
    cases hholder : n.duty.conv.holder with
    | none => exact hsettle.imp_right fun h => ⟨h, nofun⟩
    | some i =>
      dsimp only
      split
      next hin =>
        refine hsettle.imp_right fun h => ⟨h, fun j hj => ?_⟩
        cases hj
        exact List.contains_iff_mem.1 hin
      next => exact .inl rfl
  have hstands (h : n.duty.exchanging = false ∨ n.duty.conv.holder = some .protect ∨ n.duty.conv.holder = some .pulse) :
      n.clearLevels exchangeLevels = { n with duty := d } := by
    rcases h with hempty | hholder | hholder
    · have howner : d.owner = n.duty.owner := Duty.owner_congr fun i => by
        by_cases hi : i ∈ exchangeLevels
        · rw [(hcleared i hi).1.not_asks]
          simp only [Duty.exchanging, Bool.or_eq_false_iff, bne_eq_false_iff_eq] at hempty
          obtain ⟨⟨hjoin, hserve⟩, htest⟩ := hempty
          cases i <;> simp_all [exchangeLevels, Duty.get, LevelState.asks]
        · rw [(hothers i hi).1]
      rw [hclear, Node.settle_of_owner (n := { n with duty := d }) howner]
      cases n.duty.conv.holder with
      | none => rfl
      | some i => exact ite_self _
    · rw [hclear, hholder]; rfl
    · rw [hclear, hholder]; rfl
  have hleft : n.clearLevels exchangeLevels = { n with duty := (n.clearLevels exchangeLevels).duty }
      ∧ (n.clearLevels exchangeLevels).duty.reports = n.duty.reports
      ∧ ∀ i ∈ exchangeLevels, ((n.clearLevels exchangeLevels).duty.get i).over := by
    have hover : ∀ i ∈ exchangeLevels, (d.get i).over := fun i hi => (hcleared i hi).1
    rcases hways with heq | ⟨heq, hholder⟩
    · rw [heq]
      exact ⟨rfl, hreports, hover⟩
    · have hmine (i : LevelId) (hi : d.conv.holder = some i) : d.kept i = none ∧ ((d.get i).state = .ending → (d.get i).reported = false) := by
        rw [hconv] at hi
        exact (hcleared i (hholder i hi)).2
      obtain ⟨hnode, hsame, hstays⟩ := Node.dropSetpoint_of_cleared (n := { n with duty := d })
        (fun i hi => (hmine i hi).1) (fun i hi => (hmine i hi).2)
      rw [heq]
      exact ⟨hnode, hsame.trans hreports, fun i hi => hstays i (hover i hi)⟩
  obtain ⟨hnode, hnone, hover⟩ := hleft
  exact ⟨hnode, hnone, hover, fun h => by rw [hstands h]; exact ⟨hprotect, hpulse, hconv⟩⟩

/-! ### What the blocks do then -/

/-- A node that stands has no partner to seek (R146). -/
theorem Node.testEligible_of_stands {n : Node} (h : n.stands) : n.testEligible = n := by
  obtain ⟨hinactive, hstate⟩ := h
  unfold Node.testEligible
  rw [Node.eligible_of_inactive hinactive]
  rcases hstate with hstate | hstate | hstate
  all_goals
    rw [hstate]
    exact ite_self _

/-- R154: the bond ended and reported to the Grade Engine, before the node's eligibility is tested again. -/
def Node.unbonded (n : Node) (x cause : Nat) (send release : Bool) : Node :=
  ((n.unbinding x cause send).endBond release).setPair .unpaired

theorem Node.unbonded_left (n : Node) (x cause : Nat) (send release : Bool) :
    (n.unbonded x cause send release).pres = n.pres ∧ (n.unbonded x cause send release).peers = n.peers := by
  have hbar (m : Node) : (m.bar x).peers = m.peers := by
    unfold Node.bar
    split <;> rfl
  have htold : (if send then n.hand .unbind (twoFields x cause) else n).peers = n.peers := by
    split
    · exact n.hand_peers _ _
    · rfl
  have hunbinding : (n.unbinding x cause send).peers = n.peers := by
    unfold Node.unbinding
    extract_lets n1 n2
    have h2 : n2.peers = n.peers := htold
    split
    · exact (hbar n2).trans h2
    · exact h2
  obtain ⟨k, hk, hcleared⟩ := n.unbinding_seeks x cause send
  have hends := (n.unbinding x cause send).endBond_unbonds release
  rw [Node.unbonded, Node.setPair_eq]
  exact ⟨hends.pres.trans (hcleared.pres.trans hk.pres), hends.peers.trans hunbinding⟩

/-- R154, R161, R163: out of ACTIVE a dissolved bond leaves the node UNPAIRED, and the Peer Table as it stood. -/
theorem Node.dissolve_unpaired {n : Node} {x : Nat} (hinactive : n.active = false) (hbonded : n.bonded = true)
    (hpartner : n.pair.partner = some x) (cause : Nat) (send release : Bool) :
    n.dissolve cause send release = n.unbonded x cause send release
      ∧ (n.dissolve cause send release).pair.state = .unpaired ∧ (n.dissolve cause send release).pair.partner = none
      ∧ (n.dissolve cause send release).pair.lastCause = some cause := by
  have hends := Node.dissolve_dissolves hbonded hpartner cause send release
  have hstands : (n.unbonded x cause send release).stands :=
    ⟨by rw [Node.active, (n.unbonded_left x cause send release).1]; exact hinactive, .inl (Node.setPair_state _ _)⟩
  have heq : n.dissolve cause send release = n.unbonded x cause send release := by
    rw [Node.dissolve_of_bonded hbonded hpartner]
    exact Node.testEligible_of_stands hstands
  exact ⟨heq, by rw [heq]; exact Node.setPair_state _ _, hends.partner, hends.lastCause⟩

/-- Out of ACTIVE the end of a bond leaves the Peer Table (R56, R154). -/
theorem Node.dissolve_peers {n : Node} (hinactive : n.active = false) (cause : Nat) (send release : Bool) :
    (n.dissolve cause send release).peers = n.peers := by
  cases hbonded : n.bonded with
  | false => rw [Node.dissolve_of_not_bonded hbonded]
  | true =>
    cases hpartner : n.pair.partner with
    | none => unfold Node.dissolve; rw [hpartner]
    | some x =>
      rw [(Node.dissolve_unpaired hinactive hbonded hpartner cause send release).1]
      exact (n.unbonded_left x cause send release).2

/-- A rail block of which nothing is asked, and which waits for no end of a test (R144). -/
structure Rail.Idle (r : Rail) : Prop where
  own : r.own = none
  request : r.request = none
  ordinary : r.testOrdinary = none
  ended : r.testEnded = false

/-- What the blocks leave of a node at line rejoin: rail block, levels and Peer Table, and the measurements but for the watches. -/
structure Node.Rejoins (n m : Node) : Prop where
  rail : m.rail = n.rail
  duty : m.duty = n.duty
  peers : m.peers = n.peers
  mon : m.mon = { n.mon with watchGrade := m.mon.watchGrade, watchPosition := m.mon.watchPosition }
  lastResult : m.serv.lastResult = n.serv.lastResult

theorem Node.Rejoins.trans {n m k : Node} (h : n.Rejoins m) (hk : m.Rejoins k) : n.Rejoins k where
  rail := hk.rail.trans h.rail
  duty := hk.duty.trans h.duty
  peers := hk.peers.trans h.peers
  mon := by rw [hk.mon, h.mon]
  lastResult := hk.lastResult.trans h.lastResult

/-- R115: a capacity test that the Rail Allocator has dropped is begun anew with its rest. -/
theorem Node.abandonTest_rejoins {n : Node} (h : n.rail.Idle) : n.Rejoins n.abandonTest ∧ n.abandonTest.pair = n.pair := by
  have hwithdrawn : n.withdrawTest = n := by
    have htesting : n.rail.testing = false := by rw [Rail.testing, h.request]
    rw [Node.withdrawTest, htesting, if_neg Bool.false_ne_true]
    have hcleared : ({ n.rail with testOrdinary := none, testEnded := false } : Rail) = n.rail := by
      rw [← h.ordinary, ← h.ended]
    exact congrArg (fun r => ({ n with rail := r } : Node)) hcleared
  unfold Node.abandonTest
  split
  · rw [hwithdrawn]
    unfold Node.enterRestA Node.openRest
    split
    · exact ⟨⟨rfl, rfl, rfl, rfl, rfl⟩, rfl⟩
    · exact ⟨⟨rfl, rfl, rfl, rfl, rfl⟩, rfl⟩
  · exact ⟨⟨rfl, rfl, rfl, rfl, rfl⟩, rfl⟩

/-- R163: a bond in BOUND or JOINING is dissolved, and a couple of JOINED or LEAVING kept. -/
theorem Node.pairRejoin_rejoins {n : Node} (hidle : n.rail.Idle) (hinactive : n.active = false) :
    n.Rejoins n.pairRejoin ∧ (∀ x, n.pair.partner = some x → n.bonded = true → n.pairRejoin.pair.state = .unpaired
        ∧ n.pairRejoin.pair.partner = none ∧ n.pairRejoin.pair.lastCause = some unbindRejoin)
      ∧ (n.pair.state = .joined ∨ n.pair.state = .leaving →
        n.pairRejoin.pair.state = n.pair.state ∧ n.pairRejoin.pair.partner = n.pair.partner) := by
  have hjoining : n.rail.joining = false := by rw [Rail.joining, hidle.request]
  have hstands := Node.dissolve_stands hidle.own unbindRejoin true true
  have hkeeps := (Node.Keeps.refl .tag n).dissolve (cause := unbindRejoin) (send := true) (release := true)
  have hdissolved : n.Rejoins (n.dissolve unbindRejoin) :=
    ⟨hstands.rail hjoining, hstands.duty, Node.dissolve_peers hinactive _ _ _, hkeeps.mon, by rw [hkeeps.serv]⟩
  have hpair : n.pairRejoin = { n.dissolve unbindRejoin with pair := n.pairRejoin.pair }
      ∧ n.pairRejoin.pair.state = (n.dissolve unbindRejoin).pair.state
      ∧ n.pairRejoin.pair.partner = (n.dissolve unbindRejoin).pair.partner
      ∧ n.pairRejoin.pair.lastCause = (n.dissolve unbindRejoin).pair.lastCause := by
    unfold Node.pairRejoin
    extract_lets n1
    split
    · rw [Node.startSilence_eq]
      exact ⟨rfl, rfl, rfl, rfl⟩
    · exact ⟨rfl, rfl, rfl, rfl⟩
  obtain ⟨hnode, hstate, hpartner, hcause⟩ := hpair
  refine ⟨?_, fun x hx hbonded => ?_, fun hcouple => ?_⟩
  · rw [hnode]
    exact hdissolved.trans ⟨rfl, rfl, rfl, rfl, rfl⟩
  · rw [hstate, hpartner, hcause]
    exact (Node.dissolve_unpaired hinactive hbonded hx _ _ _).2
  · have hnone : n.bonded = false := by rcases hcouple with h | h <;> simp [Node.bonded, h]
    rw [hstate, hpartner, Node.dissolve_of_not_bonded hnone]
    exact ⟨rfl, rfl⟩

/-- R177: the row view is set FREE, which a node that stands hears of in no other block. -/
theorem Node.posRejoin_rejoins {n : Node} (hinactive : n.active = false) :
    n.Rejoins n.posRejoin ∧ (n.stands → n.posRejoin.pair = n.pair) := by
  have hview {k : Node} (hk : k.active = false) (v : List PosRecord) : k.Rejoins (k.setView v) ∧ (k.stands → (k.setView v).pair = k.pair) := by
    unfold Node.setView
    extract_lets n1
    split
    · exact ⟨⟨rfl, rfl, rfl, rfl, rfl⟩, fun _ => rfl⟩
    · refine ⟨?_, fun hs => ?_⟩
      · rw [(Node.testEligible_of_inactive (n := n1) hk).1]
        exact ⟨rfl, rfl, rfl, rfl, rfl⟩
      · rw [Node.testEligible_of_stands (n := n1) hs]
        rfl
  unfold Node.posRejoin
  extract_lets n1
  split
  next v _ =>
    obtain ⟨hrejoins, hpair⟩ := hview (k := n1) hinactive
      (rejoinView (if n.pos.phase = .inString ∨ n.pos.phase = .vacating then n.pos.position else none) 1 v)
    exact ⟨Node.Rejoins.trans (m := n1) ⟨rfl, rfl, rfl, rfl, rfl⟩ hrejoins, hpair⟩
  next => exact ⟨⟨rfl, rfl, rfl, rfl, rfl⟩, fun _ => rfl⟩

/-- R180: the FAULT of the LINE QUIET entry changes the transmit queue, and is due no more. -/
theorem Node.handQuietFault_rejoins (n : Node) : n.Rejoins n.handQuietFault ∧ n.handQuietFault.pair = n.pair := by
  unfold Node.handQuietFault
  extract_lets n1
  split
  · split
    · rw [Node.handFault, Node.hand_eq]
      exact ⟨⟨rfl, rfl, rfl, rfl, rfl⟩, rfl⟩
    · exact ⟨⟨rfl, rfl, rfl, rfl, rfl⟩, rfl⟩
  · exact ⟨⟨rfl, rfl, rfl, rfl, rfl⟩, rfl⟩

/-! ### LINE_REJOIN -/

/-- Line, node state and Peer Table at line rejoin, before the other blocks hear of it (R44, R60). -/
def Node.relistening (n : Node) : Node :=
  (((n.onLine fun _ => { Line.initial with cleanDue := true }).setState .listen).onPres fun q =>
    { q with listenTimer := n.after 1500 }).onPeers fun _ => .initial

theorem Node.rejoin_works (n : Node) : n.relistening.Works n.rejoin :=
  Node.Works.start.onRail.uncertain.clearLevels.abandonTest.pairRejoin.posRejoin.handQuietFault

/-- What the blocks make of a line rejoin once the exchange levels are cleared: the pair state alone, and that of a bond (R163). -/
theorem Node.rejoin_spec (n : Node) : (n.relistening.railRejoin.clearLevels exchangeLevels).Rejoins n.rejoin
    ∧ (∀ x, n.pair.partner = some x → n.bonded = true →
      n.rejoin.pair.state = .unpaired ∧ n.rejoin.pair.partner = none ∧ n.rejoin.pair.lastCause = some unbindRejoin)
    ∧ (n.pair.state = .joined ∨ n.pair.state = .leaving →
      n.rejoin.pair.state = n.pair.state ∧ n.rejoin.pair.partner = n.pair.partner) := by
  obtain ⟨hnode, -⟩ := n.relistening.railRejoin.clearLevels_exchange
  have hrejoin : n.rejoin = (n.relistening.railRejoin.clearLevels exchangeLevels).abandonTest.pairRejoin.posRejoin.handQuietFault := rfl
  generalize n.relistening.railRejoin.clearLevels exchangeLevels = k at hnode hrejoin ⊢
  have hidle : k.rail.Idle := by rw [hnode]; exact ⟨rfl, rfl, rfl, rfl⟩
  have hinactive {m : Node} (h : k.Works m) : m.active = false := by
    rw [Node.active, h.pres, hnode]
    rfl
  obtain ⟨htest, htestPair⟩ := Node.abandonTest_rejoins hidle
  obtain ⟨hbond, hdissolved, hcouple⟩ := Node.pairRejoin_rejoins (n := k.abandonTest) (by rw [htest.rail]; exact hidle)
    (hinactive Node.Works.start.abandonTest)
  have hsilent : k.abandonTest.pairRejoin.active = false := hinactive Node.Works.start.abandonTest.pairRejoin
  obtain ⟨hrows, hrowsPair⟩ := Node.posRejoin_rejoins hsilent
  obtain ⟨hfault, hfaultPair⟩ := k.abandonTest.pairRejoin.posRejoin.handQuietFault_rejoins
  have hpair : k.abandonTest.pair = n.pair := by rw [htestPair, hnode]; rfl
  have hlast (h : k.abandonTest.pairRejoin.stands) : n.rejoin.pair = k.abandonTest.pairRejoin.pair := by
    rw [hrejoin, hfaultPair, hrowsPair h]
  rw [Node.bonded, hpair] at hdissolved
  rw [hpair] at hcouple
  refine ⟨?_, fun x hx hbonded => ?_, fun hstate => ?_⟩
  · rw [hrejoin]
    exact htest.trans (hbond.trans (hrows.trans hfault))
  · have hends := hdissolved x hx hbonded
    rw [hlast ⟨hsilent, .inl hends.1⟩]
    exact hends
  · have hstays := hcouple hstate
    rw [hlast ⟨hsilent, .inr (by rw [hstays.1]; exact hstate)⟩]
    exact hstays

/-- Settles O14: the rail block is emptied first, so that nothing that follows finds an exchange. -/
theorem lineRejoinStartsAfresh : Obligations.LineRejoinStartsAfresh := by
  intro n w hsettled hquiet htimer
  have hevent : n.lineRejoin = n.rejoin := if_pos ⟨hquiet, htimer⟩
  obtain ⟨hnode, hreports, hover, hheld⟩ := n.relistening.railRejoin.clearLevels_exchange
  obtain ⟨hall, hdissolved, hcouple⟩ := n.rejoin_spec
  generalize n.relistening.railRejoin.clearLevels exchangeLevels = k at hnode hreports hover hheld hall
  have hrail : n.rejoin.rail = n.relistening.railRejoin.rail := hall.rail.trans (by rw [hnode])
  have hend : n.rejoin.Settled := by
    rw [Node.Settled, hall.duty, hreports, hrail]
    exact ⟨hsettled.1, .inl rfl⟩
  have hworks := n.rejoin_works.conclude (before := n)
  have hsame := n.rejoin.withPresence_eq n
  rw [← Node.conclude_of_settled n hend] at hsame
  have hmon : n.rejoin.mon = { n.mon with
      watchGrade := n.rejoin.mon.watchGrade, watchPosition := n.rejoin.mon.watchPosition } := by
    rw [← show k.mon = n.mon by rw [hnode]; rfl]
    exact hall.mon
  have hserv : n.rejoin.serv.lastResult = n.serv.lastResult := hall.lastResult.trans (by rw [hnode]; rfl)
  have hpeers : n.rejoin.peers = .initial := hall.peers.trans (by rw [hnode]; rfl)
  refine ⟨n.rejoin.conclude n, State.act_eq (f := Node.lineRejoin) (by rw [hevent]), hworks.pres, ?_⟩
  rw [hworks.line, hsame, hpeers, hrail, hall.duty, hmon, hserv]
  exact ⟨rfl, rfl, rfl, rfl, rfl, rfl, rfl, rfl, rfl, rfl, rfl, rfl, rfl, rfl, hover .join (by decide), hover .serve (by decide),
    hover .test (by decide), hheld, rfl, rfl, rfl, rfl, rfl, rfl, hdissolved, hcouple⟩

end Sys2Proof.Machine
end

section
/-! PROOFS. PLAN while no plan is stored: the assembly of its parts (R39), and the storing of a plan that passes its check (R40, R41,
R54, R165). -/

namespace Sys2Proof.Machine

/-! ### The assembly (R39) -/

/-- R39, step 4: in a buffer in order of index the part stands between those of smaller and of greater index. -/
theorem insertPart_eq (i : Nat) (x : PlanPart) {l : List (Nat × PlanPart)} (h : (l.map Prod.fst).Pairwise fun i j => i < j) :
    insertPart i x l = l.filter (fun y => decide (y.1 < i)) ++ (i, x) :: l.filter (fun y => decide (i < y.1)) := by
  induction l with
  | nil => rfl
  | cons y ys ih =>
    rw [List.map_cons, List.pairwise_cons] at h
    obtain ⟨hfirst, hrest⟩ := h
    have habove {j : Nat} (hj : j ≤ y.1) : ∀ z ∈ ys, j < z.1 := fun z hz =>
      Nat.lt_of_le_of_lt hj (hfirst z.1 (List.mem_map_of_mem hz))
    have hnone {j : Nat} (hj : j ≤ y.1) : ys.filter (fun z => decide (z.1 < j)) = [] :=
      List.filter_eq_nil_iff.2 fun z hz => by have := habove hj z hz; simp; omega
    have hall {j : Nat} (hj : j ≤ y.1) : ys.filter (fun z => decide (j < z.1)) = ys :=
      List.filter_eq_self.2 fun z hz => by simpa using habove hj z hz
    rw [insertPart]
    split
    next hlt =>
      have hnot : ¬i < y.1 := by omega
      simp [ih hrest, hlt, hnot]
    next =>
      split
      next heq =>
        subst heq
        simp [hnone (Nat.le_refl _), hall (Nat.le_refl _)]
      next hnlt hne =>
        have hgt : i < y.1 := by omega
        simp [hnlt, hgt, hnone hgt.le, hall hgt.le]

/-- R39: a PLAN part whose count or index is out of range leaves the buffer. -/
theorem takePart_of_bad {a : Option Assembly} {x : PlanPart} (h : x.count < 1 ∨ 48 < x.count ∨ x.count ≤ x.index) :
    takePart a x = a := by rw [takePart, if_pos h]

/-- R39: a part of another plan than the one assembled, or the first, opens a buffer with itself. -/
theorem takePart_opens {a : Option Assembly} {x : PlanPart} (hindex : x.index < x.count) (hcount : x.count ≤ 48)
    (h : a = none ∨ ∃ b, a = some b ∧ (b.identity ≠ x.identity ∨ b.count ≠ x.count)) :
    takePart a x = some { identity := x.identity, count := x.count, parts := [(x.index, x)] } := by
  rw [takePart, if_neg (by omega)]
  rcases h with rfl | ⟨b, rfl, hother⟩
  · rfl
  · exact if_neg fun hsame => hother.elim (· hsame.1) (· hsame.2)

/-- R39: a part of the plan assembled is placed in its buffer. -/
theorem takePart_places {b : Assembly} {x : PlanPart} (hindex : x.index < x.count) (hcount : x.count ≤ 48)
    (hidentity : b.identity = x.identity) (hsame : b.count = x.count) :
    takePart (some b) x = some { b with parts := insertPart x.index x b.parts } := by
  rw [takePart, if_neg (by omega)]
  exact if_pos ⟨hidentity, hsame⟩

/-- The node with this assembly buffer. -/
def Node.assembling (n : Node) (a : Option Assembly) : Node := n.onPres fun q => { q with assembly := a }

/-- R39: while parts are missing the buffer alone takes the part. -/
theorem Node.heardPlan_waits {n : Node} {x : PlanPart} (hplan : n.pres.plan = none)
    (h : ∀ a, takePart n.pres.assembly x = some a → a.complete = false) :
    n.heardPlan x = n.assembling (takePart n.pres.assembly x) := by
  rw [Node.heardPlan, hplan]
  change (match takePart n.pres.assembly x with | some a => _ | none => _) = _
  cases ha : takePart n.pres.assembly x with
  | none => simp only [Node.onPres, Node.assembling, ha]
  | some a => simp only [Node.onPres, Node.assembling, ha, h a ha, Bool.false_eq_true, if_false]

/-- R39, R41: the last part empties the buffer, and the plan is checked. -/
theorem Node.heardPlan_completes {n : Node} {x : PlanPart} {a : Assembly} (hplan : n.pres.plan = none)
    (ha : takePart n.pres.assembly x = some a) (hcomplete : a.complete = true) :
    n.heardPlan x = match checkPlan a.identity (a.parts.map Prod.snd) with
      | some p => (n.assembling none).acceptPlan p
      | none => (n.assembling none).reportFault .planInvalid := by
  rw [Node.heardPlan, hplan]
  simp only [Node.onPres, ha, hcomplete, if_true]
  rfl

/-! ### Removals under a new plan (R53-R55, R123, R165, R167) -/

/-- What the removal of peers, and the entry into STRAPFAULT, leave: the clock, the row view, and the fault list but for reports of
`c`. -/
structure Node.Sheds (c : FaultCode) (n m : Node) : Prop where
  now : m.mon.now = n.mon.now
  rows : m.pos.view = n.pos.view
  faults : Reported c n.serv.faults m.serv.faults

theorem Node.Keeps.sheds {c : FaultCode} {n m : Node} (h : n.Keeps c m) : n.Sheds c m := ⟨h.now, h.rows, h.faults⟩

namespace Node.Sheds

variable {c : FaultCode} {n m k : Node}

theorem refl (c : FaultCode) (n : Node) : n.Sheds c n := ⟨rfl, rfl, .refl⟩

theorem trans (h : n.Sheds c m) (hk : m.Sheds c k) : n.Sheds c k :=
  ⟨hk.now.trans h.now, hk.rows.trans h.rows, h.faults.trans hk.faults⟩

theorem ite {p : Prop} [Decidable p] {a b : Node} (ha : n.Sheds c a) (hb : n.Sheds c b) : n.Sheds c (if p then a else b) := by
  split
  · exact ha
  · exact hb

theorem onRail {f : Rail → Rail} (h : n.Sheds c m) : n.Sheds c (m.onRail f) := ⟨h.now, h.rows, h.faults⟩

theorem onPos {f : Positions → Positions} (hview : (f m.pos).view = m.pos.view) (h : n.Sheds c m) : n.Sheds c (m.onPos f) :=
  ⟨h.now, hview.trans h.rows, h.faults⟩

theorem roomTest (h : n.Sheds c m) : n.Sheds c m.roomTest := h.trans (Node.Keeps.refl c m).roomTest.sheds

theorem freedTest (h : n.Sheds c m) : n.Sheds c m.freedTest := by
  unfold Node.freedTest
  split
  · exact h.onRail.ite h.roomTest
  · exact h

theorem certainIfHeard (h : n.Sheds c m) : n.Sheds c m.certainIfHeard := h.onRail.roomTest.ite h

theorem beginRound (h : n.Sheds c m) : n.Sheds c m.beginRound := by
  refine h.trans ?_
  cases hplan : m.pres.plan with
  | none =>
    have hstands : m.beginRound = m := by unfold Node.beginRound; rw [hplan]
    rw [hstands]
    exact refl c m
  | some p =>
    rw [Node.beginRound_of_plan hplan]
    exact ⟨rfl, rfl, .refl⟩

/-- R136: the end of a JOIN may be an equalization that failed. -/
theorem joinEnded {ordinary : Bool} (h : n.Sheds .equalizeFail m) : n.Sheds .equalizeFail (m.joinEnded ordinary) := by
  unfold Node.joinEnded
  extract_lets n1
  have h1 : n.Sheds .equalizeFail n1 := h.onPos rfl
  refine ite (h1.beginRound.ite ?_) h1
  unfold Node.countAttempt
  extract_lets n2
  have h2 : n.Sheds .equalizeFail n2 := h1.onPos rfl
  exact (h2.trans (Node.Keeps.refl _ n2).dissolve.reportFault.sheds).ite h2.beginRound

theorem dropOwn {ordinary : Bool} (h : n.Sheds c m) : n.Sheds c (m.dropOwn ordinary) := by
  unfold Node.dropOwn
  split
  · exact onRail ((h.trans (Node.Keeps.refl c m).endLevel.sheds).ite h)
  · exact h

theorem ownLeft {ordinary : Bool} (h : n.Sheds .equalizeFail m) : n.Sheds .equalizeFail (m.ownLeft ordinary) := by
  unfold Node.ownLeft
  split
  · exact h.ite ((((h.dropOwn).onPos rfl).ite h.dropOwn.joinEnded).ite h.dropOwn)
  · exact h

theorem railRemoval {a : Nat} (h : n.Sheds .equalizeFail m) : n.Sheds .equalizeFail (m.railRemoval a) :=
  h.onRail.ownLeft.freedTest.certainIfHeard.ite h.certainIfHeard

theorem proposalEnds (hproposing : m.pair.state = .proposing) (h : n.Sheds c m) : n.Sheds c m.proposalEnds := by
  have hn : ¬m.stands := fun hs => by simp [Node.stands, hproposing] at hs
  refine h.trans (Node.Keeps.sheds ?_)
  unfold Node.proposalEnds
  split
  · exact (Node.Keeps.refl c m).propose hn
  · exact ((Node.Keeps.refl c m).endProposal hn).setPair hn

theorem pairRemoval {a : Nat} (h : n.Sheds c m) : n.Sheds c (m.pairRemoval a) := by
  unfold Node.pairRemoval
  split
  · exact h.trans (Node.Keeps.refl c m).dissolve.sheds
  · split
    next hproposing => exact h.proposalEnds hproposing.1
    next => exact h

/-- R167: a row of FREE records has nothing of a peer to lose. -/
theorem posRemoval {p : Plan} {a : Nat} (hrows : n.pos.view = some (emptyView p)) (h : n.Sheds c m) : n.Sheds c (m.posRemoval a) := by
  have hview : m.pos.view = some (emptyView p) := h.rows.trans hrows
  have hfree : takeRemoval (emptyView p) a = emptyView p := by
    simp [takeRemoval, emptyView, PosRecord.free, PosRecord.lead]
  have hstands : m.posRemoval a = m := by
    rw [Node.posRemoval, hview]
    dsimp only
    rw [hfree, Node.setView, ← hview]
    exact if_pos rfl
  rw [hstands]
  exact h

theorem removePeer {p : Plan} {a : Nat} (hrows : n.pos.view = some (emptyView p)) (h : n.Sheds .equalizeFail m) :
    n.Sheds .equalizeFail (m.removePeer a) := by
  have hdropped : n.Sheds .equalizeFail (m.onPeers fun t => { t with entries := t.entries.filter fun e => e.address != a }) :=
    ⟨h.now, h.rows, h.faults⟩
  have hrail := hdropped.railRemoval (a := a)
  have hpos := hrail.posRemoval (a := a) hrows
  exact (hpos.trans (Node.Keeps.refl _ _).rederive.sheds).pairRemoval

theorem removePeers {p : Plan} {as : List Nat} (hrows : n.pos.view = some (emptyView p)) (h : n.Sheds .equalizeFail m) :
    n.Sheds .equalizeFail (as.foldl Node.removePeer m) := by
  induction as generalizing m with
  | nil => exact h
  | cons a as ih => exact ih (h.removePeer hrows)

/-- What no report of the code undoes still holds of the fault list. -/
theorem faults_keep {P : List FaultEntry → Prop} (hstep : ∀ l seen, P l → P (takeReport c none seen l).1) (h : n.Sheds c m)
    (hn : P n.serv.faults) : P m.serv.faults := by
  have hreported := h.faults
  unfold Reported at hreported
  generalize m.serv.faults = l at hreported ⊢
  induction hreported with
  | refl => exact hn
  | tail _ hlast ih =>
    obtain ⟨seen, rfl⟩ := hlast
    exact hstep _ seen ih

end Node.Sheds

/-! ### Room for STRAP in the fault list (R178) -/

/-- R178: a report of a code that is not listed enters it last while the list has room. -/
theorem takeReport_of_unlisted {c : FaultCode} {detail : Option BreachKind} {seen : Nat} {l : List FaultEntry}
    (hnew : ∀ e ∈ l, e.code ≠ c) (hroom : l.length < 8) :
    (takeReport c detail seen l).1 = l ++ [{ code := c, detail := detail, active := c.condition, seen := seen }] := by
  have hnone : l.find? (fun e => e.code == c) = none := List.find?_eq_none.2 fun e he => by simpa using hnew e he
  simp only [takeReport, hnone, hroom, if_true]

/-- R178: a report of a listed code changes no code and adds no entry. -/
theorem takeReport_of_listed {c : FaultCode} {detail : Option BreachKind} {seen : Nat} {l : List FaultEntry}
    (hlisted : ∃ e ∈ l, e.code = c) : (takeReport c detail seen l).1.map FaultEntry.code = l.map FaultEntry.code := by
  obtain ⟨e, he, hcode⟩ := hlisted
  obtain ⟨f, hf⟩ : ∃ f, l.find? (fun e => e.code == c) = some f :=
    Option.isSome_iff_exists.1 (List.find?_isSome.2 ⟨e, he, by simpa using hcode⟩)
  simp only [takeReport, hf]
  split
  · exact putFault_codes
  · rfl

/-- STRAP is not listed, and there is room for a code more after `spare` of them: a free entry, or a latched one to drop. -/
def StrapRoom (spare : Nat) (l : List FaultEntry) : Prop :=
  (∀ e ∈ l, e.code ≠ .strap)
    ∧ (l.length + spare ≤ 7 ∨ l.length + spare ≤ 8 ∧ ∃ e ∈ l, e.active = false ∧ e.code = .equalizeFail)

theorem codes_ne_of_map {c : FaultCode} {l l' : List FaultEntry} (h : l'.map FaultEntry.code = l.map FaultEntry.code)
    (hl : ∀ e ∈ l, e.code ≠ c) : ∀ e ∈ l', e.code ≠ c := fun e he hcode => by
  obtain ⟨f, hf, hsame⟩ := List.mem_map.1 (h ▸ List.mem_map_of_mem he : e.code ∈ l.map FaultEntry.code)
  exact hl f hf (hsame.trans hcode)

/-- Two reports of EQUALIZE FAIL take no more room than one, and the entry that the first adds is latched. -/
theorem StrapRoom.equalizeFail {l : List FaultEntry} (seen : Nat) (h : StrapRoom 1 l) :
    StrapRoom 1 (takeReport .equalizeFail none seen l).1 := by
  obtain ⟨hstrap, hroom⟩ := h
  by_cases hlisted : ∃ e ∈ l, e.code = .equalizeFail
  · have hsame : (takeReport .equalizeFail none seen l).1 = l := by
      unfold takeReport
      split
      · simp [FaultCode.condition]
      next hnone =>
        obtain ⟨e, he, hcode⟩ := hlisted
        exact absurd (List.find?_eq_none.1 hnone e he) (by simp [hcode])
    rw [hsame]
    exact ⟨hstrap, hroom⟩
  · have hnew : ∀ e ∈ l, e.code ≠ .equalizeFail := fun e he hcode => hlisted ⟨e, he, hcode⟩
    have hfew : l.length + 1 ≤ 7 := hroom.resolve_right fun hr => by
      obtain ⟨-, e, he, -, hcode⟩ := hr
      exact hnew e he hcode
    rw [takeReport_of_unlisted hnew (by omega)]
    refine ⟨fun e he => ?_, .inr ⟨by simp; omega, _, List.mem_append_right _ (List.mem_singleton.2 rfl), rfl, rfl⟩⟩
    rcases List.mem_append.1 he with hold | hlast
    · exact hstrap e hold
    · rw [List.mem_singleton.1 hlast]
      exact nofun

/-- A report of TAG takes the room of one code. -/
theorem StrapRoom.tag {l : List FaultEntry} (seen : Nat) (h : StrapRoom 1 l) : ∃ l', (takeReport .tag none seen l).1 = l'
    ∧ (∀ e ∈ l', e.code ≠ .strap) ∧ (l'.length ≤ 7 ∨ l'.length ≤ 8 ∧ ∃ e ∈ l', e.active = false) := by
  obtain ⟨hstrap, hroom⟩ := h
  refine ⟨_, rfl, ?_⟩
  by_cases hlisted : ∃ e ∈ l, e.code = .tag
  · have hcodes := takeReport_of_listed (detail := none) (seen := seen) hlisted
    have hlength := congrArg List.length hcodes
    simp only [List.length_map] at hlength
    exact ⟨codes_ne_of_map hcodes hstrap, .inl (by omega)⟩
  · rw [takeReport_of_unlisted (fun e he hcode => hlisted ⟨e, he, hcode⟩) (by omega)]
    refine ⟨fun e he => ?_, ?_⟩
    · rcases List.mem_append.1 he with hold | hlast
      · exact hstrap e hold
      · rw [List.mem_singleton.1 hlast]
        exact nofun
    · rcases hroom with hfew | ⟨hfew, e, he, hlatched, -⟩
      · exact .inl (by simp; omega)
      · exact .inr ⟨by simp; omega, e, List.mem_append_left _ he, hlatched⟩

/-- R178: a full list with a latched entry drops one for a new code. -/
theorem dropLatched_isSome {l : List FaultEntry} (h : ∃ e ∈ l, e.active = false) : ∃ l', dropLatched l = some l' := by
  induction l with
  | nil => obtain ⟨e, he, -⟩ := h; cases he
  | cons x xs ih =>
    rw [dropLatched]
    split
    next hactive =>
      obtain ⟨e, he, hlatched⟩ := h
      have hin : e ∈ xs := (List.mem_cons.1 he).resolve_left fun heq => by rw [heq, hactive] at hlatched; cases hlatched
      obtain ⟨l', hl'⟩ := ih ⟨e, hin, hlatched⟩
      exact ⟨x :: l', by rw [hl', Option.map_some]⟩
    next => exact ⟨xs, rfl⟩

/-- STRAP is listed as active. -/
def StrapActive (l : List FaultEntry) : Prop := ∃ e ∈ l, e.code = .strap ∧ e.active = true

/-- R35, R41: with room STRAP is entered as active. -/
theorem strapActive_of_room {l : List FaultEntry} (seen : Nat) (hnew : ∀ e ∈ l, e.code ≠ .strap)
    (hroom : l.length ≤ 7 ∨ l.length ≤ 8 ∧ ∃ e ∈ l, e.active = false) : StrapActive (takeReport .strap none seen l).1 := by
  by_cases hfew : l.length < 8
  · rw [takeReport_of_unlisted hnew hfew]
    exact ⟨_, List.mem_append_right _ (List.mem_singleton.2 rfl), rfl, rfl⟩
  · obtain ⟨-, hlatched⟩ := hroom.resolve_left (by omega)
    obtain ⟨l', hl'⟩ := dropLatched_isSome hlatched
    have hnone : l.find? (fun e => e.code == .strap) = none := List.find?_eq_none.2 fun e he => by simpa using hnew e he
    simp only [takeReport, hnone, hfew, if_false, hl']
    exact ⟨_, List.mem_append_right _ (List.mem_singleton.2 rfl), rfl, rfl⟩

/-- A further report of STRAP leaves it active. -/
theorem StrapActive.report {l : List FaultEntry} (seen : Nat) (h : StrapActive l) : StrapActive (takeReport .strap none seen l).1 := by
  obtain ⟨e, he, hcode, hactive⟩ := h
  obtain ⟨f, hf⟩ : ∃ f, l.find? (fun e => e.code == .strap) = some f :=
    Option.isSome_iff_exists.1 (List.find?_isSome.2 ⟨e, he, by simpa using hcode⟩)
  have hfcode : f.code = .strap := by simpa using List.find?_some hf
  simp only [takeReport, hf]
  split
  · exact ⟨_, List.mem_map.2 ⟨e, he, if_pos (hcode.trans hfcode.symm)⟩, hfcode, rfl⟩
  · exact ⟨e, he, hcode, hactive⟩

end Sys2Proof.Machine
end

section
/-! PROOFS. What a stored plan leaves of the node, and the PLAN parts that make one (R39-R41, R45, R54, R165, R178). -/

namespace Sys2Proof.Machine

/-! ### A plan is stored (R41, R54, R58, R165) -/

/-- The node with the plan stored and every position FREE, before the expiries of R54. -/
def Node.planHeld (n : Node) (p : Plan) : Node :=
  let n1 : Node := (n.onPres fun q => { q with plan := some p }).latchFault .planInvalid
  let n2 : Node := n1.onPos fun q => { q with view := some (emptyView p) }
  if n2.rail.certain then n2 else n2.onRail fun r => { r with certainTimer := n2.after p.lifetime }

theorem Node.storePlan_eq (n : Node) (p : Plan) :
    n.storePlan p = (((n.overage p).foldl Node.removePeer (n.planHeld p)).rejudgeTag).rederive := rfl

/-- The plan is stored beside what the Presence Controller holds, the view of the row is given, and PLAN INVALID is latched. -/
theorem Node.planHeld_eq (n : Node) (p : Plan) : n.planHeld p = { n with
    pres := { n.pres with plan := some p }
    serv := (n.latchFault .planInvalid).serv
    pos := { n.pos with view := some (emptyView p) }
    rail := (n.planHeld p).rail } := by
  unfold Node.planHeld
  extract_lets n1 n2
  split <;> rfl

/-- The reports of the tag judged anew leave the clock and the row view. -/
theorem Node.Sheds.rejudgeTag {n m : Node} (h : n.Sheds .tag m) : n.Sheds .tag m.rejudgeTag := by
  unfold Node.rejudgeTag
  extract_lets n1
  have h1 : n.Sheds .tag n1 := ⟨h.now, h.rows, h.faults⟩
  exact h1.trans ((Node.Keeps.refl .tag n1).reportFault.ite (.refl .tag n1)).startRegime.sheds

theorem Node.storePlan_pres (n : Node) (p : Plan) : (n.storePlan p).pres = { n.pres with plan := some p } := by
  have hworks : (n.planHeld p).Works (n.storePlan p) :=
    (Node.Works.foldl (fun _ _ h => h.removePeer) _ .start).rejudgeTag.rederive
  rw [hworks.pres, n.planHeld_eq]

/-- R54, R58, R167: the expiries under the new plan, the tag judged anew and the new candidate list leave the fresh row view. -/
theorem Node.storePlan_rows (n : Node) (p : Plan) :
    (n.storePlan p).pos.view = some (emptyView p) ∧ (n.storePlan p).mon.now = n.mon.now := by
  have hrows : (n.planHeld p).pos.view = some (emptyView p) := by rw [n.planHeld_eq]
  have hnow : (n.planHeld p).mon.now = n.mon.now := by rw [n.planHeld_eq]
  have hremoved := (Node.Sheds.refl .equalizeFail (n.planHeld p)).removePeers (as := n.overage p) hrows
  have htag := (Node.Sheds.refl .tag ((n.overage p).foldl Node.removePeer (n.planHeld p))).rejudgeTag
  have hlist := htag.trans (Node.Keeps.refl .tag _).rederive.sheds
  exact ⟨hlist.rows.trans (hremoved.rows.trans hrows), hlist.now.trans (hremoved.now.trans hnow)⟩

/-- A node that judges its tag anew reports TAG at most once. -/
theorem Node.rejudgeTag_faults (n : Node) :
    n.rejudgeTag.serv.faults = n.serv.faults ∨ ∃ seen, n.rejudgeTag.serv.faults = (takeReport .tag none seen n.serv.faults).1 := by
  unfold Node.rejudgeTag
  extract_lets n1
  rw [Node.startRegime_eq]
  split
  · exact .inr ⟨n1.seconds, by rw [Node.reportFault_eq]; rfl⟩
  · exact .inl rfl

/-- R178: what the storing of a plan may report leaves room for STRAP. -/
theorem Node.storePlan_strapRoom {n : Node} (p : Plan) (hstrap : ∀ e ∈ n.serv.faults, e.code ≠ .strap)
    (hroom : n.serv.faults.length < 7) :
    (∀ e ∈ (n.storePlan p).serv.faults, e.code ≠ .strap)
      ∧ ((n.storePlan p).serv.faults.length ≤ 7
        ∨ (n.storePlan p).serv.faults.length ≤ 8 ∧ ∃ e ∈ (n.storePlan p).serv.faults, e.active = false) := by
  have hheld : StrapRoom 1 (n.planHeld p).serv.faults := by
    have hcodes : (n.planHeld p).serv.faults.map FaultEntry.code = n.serv.faults.map FaultEntry.code := by
      rw [n.planHeld_eq]
      simp only [Node.latchFault, Node.onServ, List.map_map]
      exact List.map_congr_left fun e _ => by simp only [Function.comp]; split <;> rfl
    have hlength := congrArg List.length hcodes
    simp only [List.length_map] at hlength
    exact ⟨codes_ne_of_map hcodes hstrap, .inl (by omega)⟩
  have hrows : (n.planHeld p).pos.view = some (emptyView p) := by rw [n.planHeld_eq]
  have hremoved := ((Node.Sheds.refl .equalizeFail (n.planHeld p)).removePeers (as := n.overage p) hrows).faults_keep
    (fun l seen h => h.equalizeFail seen) hheld
  rw [n.storePlan_eq, (Node.Seeks.refl _).rederive.serv]
  rcases Node.rejudgeTag_faults ((n.overage p).foldl Node.removePeer (n.planHeld p)) with hsame | ⟨seen, hreport⟩
  · rw [hsame]
    exact ⟨hremoved.1, hremoved.2.imp (by omega) fun ⟨hfew, e, he, hlatched, _⟩ => ⟨by omega, e, he, hlatched⟩⟩
  · rw [hreport]
    obtain ⟨_, rfl, hleft⟩ := hremoved.tag seen
    exact hleft

/-! ### The entry into STRAPFAULT (R41, R45) -/

/-- The node as it enters a stopped state, with its fault reported, before any block hears of it. -/
def Node.stopping (n : Node) (s : NodeState) (code : FaultCode) : Node :=
  (((n.setState s).emptyQueue).stopAges).reportFault code

theorem Node.enterStop_eq (n : Node) (s : NodeState) (code : FaultCode) : n.enterStop s code =
    ((((n.stopping s code).clearLevelsToZero [.join, .serve, .test, .pulse]).railStop).gradeSilent).rederive := rfl

theorem Node.enterStop_works (n : Node) (s : NodeState) (code : FaultCode) :
    (((n.setState s).emptyQueue).stopAges).Works (n.enterStop s code) :=
  Node.Works.start.reportFault.clearLevelsToZero.onRail.onGrade.rederive

theorem Node.stopping_sheds (n : Node) (s : NodeState) (code : FaultCode) : (n.stopping s code).Sheds code (n.enterStop s code) := by
  have hzero : (n.stopping s code).Keeps code ((n.stopping s code).clearLevelsToZero [.join, .serve, .test, .pulse]) :=
    (Node.Keeps.refl code _).onDuty.onDuty.rampDown.ite (Node.Keeps.refl code _).onDuty.onDuty
  have hrail := hzero.sheds.onRail (f := Rail.dropAll)
  have hsilent {k : Node} (h : (n.stopping s code).Sheds code k) : (n.stopping s code).Sheds code k.gradeSilent :=
    ⟨h.now, h.rows, h.faults⟩
  exact (hsilent hrail).trans (Node.Keeps.refl code _).rederive.sheds

theorem Node.enterStop_rows (n : Node) (s : NodeState) (code : FaultCode) : (n.enterStop s code).pos.view = n.pos.view := by
  rw [(n.stopping_sheds s code).rows, Node.stopping, Node.reportFault_eq]
  rfl

/-- R35, R41: with room in the fault list a node in STRAPFAULT has STRAP active, at the step's end too. -/
theorem Node.enterStop_strapActive {n : Node} (before : Node) (hnew : ∀ e ∈ n.serv.faults, e.code ≠ .strap)
    (hroom : n.serv.faults.length ≤ 7 ∨ n.serv.faults.length ≤ 8 ∧ ∃ e ∈ n.serv.faults, e.active = false) :
    StrapActive ((n.enterStop .strapFault .strap).conclude before).serv.faults := by
  have hreported : StrapActive (n.stopping .strapFault .strap).serv.faults := by
    rw [Node.stopping, Node.reportFault_eq]
    exact strapActive_of_room _ hnew hroom
  have hentered := (n.stopping_sheds .strapFault .strap).faults_keep (fun l seen h => h.report seen) hreported
  have hpres := (n.enterStop_works .strapFault .strap).pres
  have hrail : (n.enterStop .strapFault .strap).rail
      = ((n.stopping .strapFault .strap).clearLevelsToZero [.join, .serve, .test, .pulse]).rail.dropAll := by
    rw [Node.enterStop_eq, (Node.Seeks.refl _).rederive.rail]
    rfl
  rw [Node.conclude_serv, Node.takeCompletions_of_stopped (by rw [Node.live, hpres]; rfl) (by rw [hrail]; rfl) (by rw [hrail]; rfl)]
  exact hentered

/-! ### The step that completes a plan (R39, R41) -/

/-- What a sound plan leaves: it is stored with a fresh row view, and the node state changes as R41 and R45 say. -/
theorem Node.acceptPlan_pres (n : Node) (p : Plan) : (n.acceptPlan p).pres =
    if p.roster < n.address then
      { n.pres with state := .strapFault, plan := some p, listenTimer := none, presenceTimer := none, quietTimer := none }
    else if n.pres.state = .unplanned then ({ n.pres with plan := some p } : Presence).entered .active false n.mon.now p
    else { n.pres with plan := some p } := by
  have hstored := n.storePlan_pres p
  rw [Node.acceptPlan]
  split
  · rw [(Node.enterStop_works _ .strapFault .strap).pres]
    exact congrArg (fun q : Presence => { q with
      state := .strapFault, listenTimer := none, presenceTimer := none, quietTimer := none }) hstored
  · split
    · rw [(Node.enterActive_works _).pres, Node.activeEntered_pres (p := p) (by rw [hstored]), hstored, (n.storePlan_rows p).2]
    · exact hstored

/-- The Grade Engine at the entry into ACTIVE leaves the row view. -/
theorem Node.Sheds.gradeActive {c : FaultCode} {n m : Node} (h : n.Sheds c m) : n.Sheds c m.gradeActive := by
  have hgrade := h.trans (Node.Keeps.refl c m).handGrade.sheds
  have hopened (k : Node) : k.Sheds c k.openRest := by
    unfold Node.openRest
    split
    · exact ⟨rfl, rfl, .refl⟩
    · exact .refl c k
  exact ((hgrade.trans (hopened _)).ite hgrade).trans (Node.Keeps.refl c _).startRegime.sheds

theorem Node.activeEntered_rows (n : Node) : n.activeEntered.pos.view = n.pos.view := by
  rw [Node.activeEntered, Node.sendPresence, Node.hand_eq]
  rfl

/-- R46: the blocks' work at the entry into ACTIVE leaves the row view. -/
theorem Node.enterActive_rows (n : Node) : n.enterActive.pos.view = n.pos.view := by
  have hgrade := (Node.Sheds.refl .gradeFail n.activeEntered).gradeActive
  have hblocks : n.activeEntered.gradeActive.Keeps .gradeFail n.enterActive :=
    (Node.Keeps.refl .gradeFail n.activeEntered.gradeActive).rederive.roomTest.testEligible.claimIfLead
  rw [hblocks.rows, hgrade.rows, Node.activeEntered_rows]

theorem Node.acceptPlan_rows (n : Node) (p : Plan) : (n.acceptPlan p).pos.view = some (emptyView p) := by
  have hstored := (n.storePlan_rows p).1
  rw [Node.acceptPlan]
  split
  · exact (Node.enterStop_rows _ _ _).trans hstored
  · split
    · exact (n.storePlan p).enterActive_rows.trans hstored
    · exact hstored

/-- R41, R45: a sound plan whose roster the own address exceeds silences the node and enters STRAP. -/
theorem Node.acceptPlan_strapFault {n : Node} {p : Plan} (before : Node) (hstrap : p.roster < n.address) :
    ((n.acceptPlan p).conclude before).line.queue = [] ∧ ((n.acceptPlan p).conclude before).line.sending = none
      ∧ ((∀ e ∈ n.serv.faults, e.code ≠ .strap) → n.serv.faults.length < 7 →
        StrapActive ((n.acceptPlan p).conclude before).serv.faults) := by
  have hstop : n.acceptPlan p = (n.storePlan p).enterStop .strapFault .strap := if_pos hstrap
  have hworks := ((n.storePlan p).enterStop_works .strapFault .strap).conclude (before := before)
  rw [hstop]
  refine ⟨hworks.silent rfl rfl, hworks.sending, fun hnew hfew => ?_⟩
  obtain ⟨hstrapNew, hstrapRoom⟩ := Node.storePlan_strapRoom p hnew hfew
  exact Node.enterStop_strapActive before hstrapNew hstrapRoom

theorem Node.assembling_heardFrom (n : Node) (src : Nat) (a : Option Assembly) :
    ((n.heardFrom src).assembling a).pres = { n.pres with assembly := a }
      ∧ ((n.heardFrom src).assembling a).serv = n.serv ∧ ((n.heardFrom src).assembling a).mon = n.mon := by
  rw [Node.heardFrom_eq]
  exact ⟨rfl, rfl, rfl⟩

/-- Settles O10: a part is placed, opens the buffer or completes the plan, which is then stored, or refused with PLAN INVALID. -/
theorem planPartsMakePlan : Obligations.PlanPartsMakePlan := by
  intro n w h x hsettled hlaw hheard hnone
  obtain ⟨k, hk⟩ : ∃ k, n.heardFrom h.source = k := ⟨_, rfl⟩
  have hframe (a : Option Assembly) := hk ▸ n.assembling_heardFrom h.source a
  have hkpres : k.pres = n.pres := by rw [← hk, n.heardFrom_eq]
  have hknone : k.pres.plan = none := by rw [hkpres]; exact hnone
  have hexec : exec (.plan h) ⟨n, w⟩ = .next ⟨(k.heardPlan x).conclude n, w⟩ :=
    State.act_eq (f := fun n => n.hear .plan h) (by rw [Node.hear_plan hheard, hk])
  have hconclude : ((k.heardPlan x).conclude n).pres = (k.heardPlan x).pres := Node.Works.start.conclude.pres
  have hwaits (h : ∀ a, takePart n.pres.assembly x = some a → a.complete = false) :
      ((k.heardPlan x).conclude n).pres = { n.pres with assembly := takePart n.pres.assembly x } := by
    rw [hconclude, Node.heardPlan_waits hknone (by rw [hkpres]; exact h), hkpres]
    exact (hframe _).1
  have hcompletes {a : Assembly} (ha : takePart n.pres.assembly x = some a) (hcomplete : a.complete = true) :=
    Node.heardPlan_completes hknone (hkpres ▸ ha) hcomplete
  refine ⟨(k.heardPlan x).conclude n, hexec, ?_, fun hbad => ?_, fun hindex hcount hmore hfresh => ?_,
    fun b hb hidentity hsame hindex hcount hordered => ?_, fun a ha hcomplete p hsound => ?_, fun a ha hcomplete hunsound hroom => ?_⟩
  case refine_1 =>
    have hlive : ¬k.stopped := by
      rw [Node.stopped, hkpres]
      exact n.live_iff.1 hheard.2.1
    rw [hconclude, (Node.Leads.heardPlan hlive).address, hkpres]
  case refine_2 =>
    have hkept := takePart_of_bad (a := n.pres.assembly) hbad
    rw [hwaits fun a ha => hlaw a (hkept ▸ ha), hkept]
  case refine_3 =>
    have hopened := takePart_opens hindex hcount hfresh
    rw [hwaits fun a ha => ?_, hopened]
    rw [← Option.some.inj (hopened.symm.trans ha)]
    simp [Assembly.complete]
    omega
  case refine_4 =>
    intro parts
    have hplaced : takePart n.pres.assembly x = some { b with parts := parts } := by
      rw [hb, takePart_places hindex hcount hidentity hsame, insertPart_eq x.index x hordered]
    refine ⟨fun hmissing => ?_, fun hlast => ?_⟩
    · rw [hwaits fun a ha => ?_, hplaced]
      rw [← Option.some.inj (hplaced.symm.trans ha)]
      simpa [Assembly.complete, hsame] using hmissing
    · rw [hconclude, hcompletes hplaced (by simp [Assembly.complete, hsame, hlast])]
      split
      · rw [Node.acceptPlan_pres]
        split
        · rfl
        · split <;> rfl
      · rw [Node.Works.start.reportFault.pres]
        rfl
  case refine_5 =>
    obtain ⟨hpres, hserv, hmon⟩ := hframe none
    have hstored : k.heardPlan x = (k.assembling none).acceptPlan p := by
      rw [hcompletes ha hcomplete, checkPlan_eq_some.2 hsound]
    have hrows := (Node.Keeps.refl .gradeFail ((k.assembling none).acceptPlan p)).conclude (before := n)
    have haddress : (k.assembling none).address = n.address := by
      change k.pres.address = n.pres.address
      rw [hkpres]
    rw [hconclude, hstored, Node.acceptPlan_pres, haddress, hpres, hmon, hrows.rows, Node.acceptPlan_rows]
    refine ⟨?_, ?_, rfl, fun hstate hfits => ?_, fun hstate hfits => ?_, fun hstrap => ⟨?_, ?_⟩⟩
    · split
      · rfl
      · split <;> rfl
    · split
      · rfl
      · split <;> rfl
    · rw [if_neg (by omega), if_pos hstate]
      exact ⟨rfl, rfl, rfl⟩
    · rw [if_neg (by omega), if_neg (by rcases hstate with hstate | hstate <;> simp [hstate])]
    · rw [if_pos hstrap]
    · rw [← hserv]
      exact Node.acceptPlan_strapFault n (by rw [haddress]; exact hstrap)
  case refine_6 =>
    obtain ⟨hpres, hserv, hmon⟩ := hframe none
    have hrefused : k.heardPlan x = (k.assembling none).reportFault .planInvalid := by
      have hinvalid : checkPlan a.identity (a.parts.map Prod.snd) = none :=
        Option.eq_none_iff_forall_ne_some.2 fun p hp => hunsound p (checkPlan_eq_some.1 hp)
      rw [hcompletes ha hcomplete, hinvalid]
    have hroom' : (k.assembling none).faultRoom .planInvalid := by rw [Node.faultRoom, hserv]; exact hroom
    have hnew : (k.assembling none).newFault .planInvalid none = n.newFault .planInvalid none := by
      simp only [Node.newFault, hmon]
    have hquiet : ((k.assembling none).reportFault .planInvalid).Settled := by
      rw [Node.reportFault_eq]
      exact hk ▸ Node.heardFrom_settled hsettled h.source
    rw [hconclude, hrefused, Node.conclude_of_settled n hquiet, Node.withPresence_eq, Node.reportFault_eq, takeReport_of_room hroom',
      hserv, hnew]
    exact ⟨hpres, rfl⟩

end Sys2Proof.Machine
end

section
/-! PROOFS. HOLD and RESUME_NODE (R43, R46, R93-R97, R126, R142, R146, R161, R182, R183). -/

namespace Sys2Proof.Machine

/-! ### A directive heard, and its result (R182, R183) -/

/-- R24, R182: a DIRECTIVE of the command's kind reaches Status and Service after what every notice does. -/
theorem Node.hear_directive {n : Node} {h : Heard} {a k : Nat} {kinds : Nat → Bool} (hheard : n.hears .directive h (.directive a k))
    (hkind : kinds k = true) : n.hearDirective kinds h = (n.heardFrom h.source).heardDirective a k := by
  obtain ⟨hreceives, hlive, hsource, hdecode⟩ := hheard
  have hcarried : directiveKind h = some k := by rw [directiveKind, hdecode]
  rw [Node.hearDirective, if_neg fun hown => hsource hown.2, hcarried]
  dsimp only
  rw [if_pos hkind, Node.hear, if_pos hreceives, if_pos hlive, if_neg hsource, hdecode]
  exact congrArg (Node.heardDirective · a k) (if_neg hsource)

theorem Node.heardDirective_hold {n : Node} {a : Nat} (ha : a = 0 ∨ a = n.address) :
    n.heardDirective a 3 = if n.pres.state = .active then n.enterHold.result 3 0 else n.result 3 1 := by
  rw [Node.heardDirective, if_pos ha]
  change n.decide 3 n.holdRefusal Node.enterHold = _
  rw [Node.holdRefusal]
  split <;> rfl

theorem Node.heardDirective_resume {n : Node} {a : Nat} (ha : a = 0 ∨ a = n.address) :
    n.heardDirective a 4 = if n.pres.state = .hold then n.enterActive.result 4 0 else n.result 4 1 := by
  rw [Node.heardDirective, if_pos ha]
  change n.decide 4 n.resumeRefusal Node.enterActive = _
  rw [Node.resumeRefusal]
  split <;> rfl

/-- A notice that takes the place of its like stands there when it is offered anew (R26). -/
theorem replaceIn_again {q : Queued} (hself : q.replaces q = true) (l : List Queued) : replaceIn q (replaceIn q l) = replaceIn q l := by
  induction l with
  | nil => rfl
  | cons x xs ih =>
    by_cases hx : q.replaces x = true
    · simp [replaceIn, hx, hself]
    · simp [replaceIn, hx, ih]

theorem Node.rebuildPresence_again (n : Node) : n.rebuildPresence.rebuildPresence = n.rebuildPresence :=
  congrArg (fun l => { n with line := { n.line with queue := l } }) (replaceIn_again (by simp [Queued.replaces]) n.line.queue)

/-- R183: a result recorded has rebuilt the PRESENCE that the step's end would rebuild. -/
theorem Node.conclude_result {n : Node} (h : n.Settled) (before : Node) (kind outcome : Nat) :
    (n.result kind outcome).conclude before = n.result kind outcome := by
  have hresult : (n.result kind outcome).Settled := h
  rw [Node.conclude_of_settled before hresult]
  unfold Node.withPresence
  split
  · rfl
  · exact Node.rebuildPresence_again _

/-! ### The entry into HOLD (R43, R95, R111, R142, R161) -/

theorem Node.Keeps.abandonTest {c : FaultCode} {release : Bool} {n m : Node} (h : n.Keeps c m) :
    n.Keeps c (m.abandonTest release) := by
  refine h.trans ?_
  unfold Node.abandonTest
  split
  next htest => exact (Node.Keeps.refl c m).withdrawTest.enterRestA (by rw [htest]; exact nofun)
  next => exact .refl c m

theorem Node.Keeps.gradeHold {c : FaultCode} {n m : Node} (h : n.Keeps c m) : n.Keeps c m.gradeHold :=
  h.handGrade.endLevel.ite h.handGrade.abandonTest

theorem Node.Keeps.railHold {c : FaultCode} {n m : Node} (h : n.Keeps c m) : n.Keeps c m.railHold := by
  have hended : n.Keeps c (m.releaseOwn causeStop).endOffer := h.releaseOwn.onRail (.of_eq rfl (.inr rfl) (.inl rfl) rfl) id
  exact hended.backToWaiting.ite hended

/-- What HOLD has ended before the bond is looked at: the Grade Engine's test and the Rail Allocator's work (R111, R142). -/
def Node.held (n : Node) : Node := n.gradeHold.railHold

theorem Node.Keeps.held {c : FaultCode} {n m : Node} (h : n.Keeps c m) : n.Keeps c m.held := h.gradeHold.railHold

theorem Node.enterHold_eq (n : Node) : n.enterHold = (n.holdEntered.held.rederive.dissolve unbindHold true false).testEligible := rfl

/-- R135: a final RELEASE leaves the pair. -/
theorem Node.releaseOwn_pair (n : Node) (cause : Nat) : (n.releaseOwn cause).pair = n.pair := by
  unfold Node.releaseOwn
  split
  next o _ =>
    extract_lets n2
    have h2 : n2.pair = n.pair := by
      change (n.handRail (.release o.id 0 cause)).pair = n.pair
      rw [Node.handRail_eq]
    split
    · exact (Node.Converts.refl n2).endLevel.pair.trans h2
    · exact h2
  next => rfl

/-- R142: a test withdrawn at HOLD is requested no more, and the exchange initiated for it asked for no more. -/
theorem Node.withdrawTest_hold (n : Node) : (n.withdrawTest false).pair = n.pair ∧ (n.rail.testing = true →
    (n.withdrawTest false).rail.request = none
      ∧ (n.withdrawTest false).rail.own = n.rail.own.map fun o => { o with dropped := o.dropped || o.initiator }) := by
  unfold Node.withdrawTest
  split
  next htesting =>
    split
    · exact ⟨rfl, fun _ => ⟨rfl, rfl⟩⟩
    · cases hown : n.rail.own with
      | none =>
        simp only [Node.onRail, Rail.dropRequest, hown, Option.map_none]
        exact ⟨trivial, fun _ => ⟨trivial, trivial⟩⟩
      | some o =>
        simp only [Node.onRail, Rail.dropRequest, hown, Bool.false_eq_true, false_and, if_false, Option.map_some]
        exact ⟨trivial, fun _ => ⟨trivial, trivial⟩⟩
  next hnot => exact ⟨rfl, fun h => absurd h hnot⟩

theorem Node.handGrade_blocks (n : Node) :
    n.handGrade.rail = n.rail ∧ n.handGrade.pair = n.pair ∧ n.handGrade.grade.state = n.grade.state := by
  rw [Node.handGrade, Node.hand_eq]
  exact ⟨rfl, rfl, rfl⟩

/-- R111: HOLD withdraws a capacity test, and the rest before it begins anew. -/
theorem Node.gradeHold_of_capTest {n : Node} (h : n.grade.state = .capTest) :
    n.gradeHold = (n.handGrade.withdrawTest false).enterRestA := by
  have hhanded : n.handGrade.grade.state = .capTest := n.handGrade_blocks.2.2.trans h
  unfold Node.gradeHold Node.abandonTest
  simp only [hhanded, if_true, reduceCtorEq, if_false]

theorem Node.gradeHold_pair (n : Node) : n.gradeHold.pair = n.pair := by
  have hrested (m : Node) : m.enterRestA.pair = m.pair := by
    unfold Node.enterRestA Node.openRest
    split <;> rfl
  have hhanded := n.handGrade_blocks.2.1
  unfold Node.gradeHold
  extract_lets n1
  split
  · exact (Node.Converts.refl n1).endLevel.pair.trans hhanded
  · unfold Node.abandonTest
    split
    · rw [hrested, n1.withdrawTest_hold.1]
      exact hhanded
    · exact hhanded

/-- R161: what HOLD ends at the Grade Engine and the Rail Allocator leaves the pair. -/
theorem Node.held_pair (n : Node) : n.held.pair = n.pair := by
  have hunsent (m : Node) : m.railUnsent.pair = m.pair := by
    unfold Node.railUnsent
    split <;> rfl
  rw [Node.held, Node.railHold, hunsent]
  exact (Node.releaseOwn_pair _ _).trans n.gradeHold_pair

/-- R111: a test requested for the capacity test is withdrawn at HOLD, and its rest begins anew. -/
theorem Node.gradeHold_withdraws {n : Node} (hcap : n.grade.state = .capTest) (htesting : n.rail.testing = true) :
    n.gradeHold.grade.state = .restA ∧ n.gradeHold.rail.request = none
      ∧ n.gradeHold.rail.own = n.rail.own.map fun o => { o with dropped := o.dropped || o.initiator } := by
  obtain ⟨hrail, -⟩ := n.handGrade_blocks
  obtain ⟨hrequest, hown⟩ := n.handGrade.withdrawTest_hold.2 (by rw [hrail]; exact htesting)
  have hrests : (n.handGrade.withdrawTest false).enterRestA.grade.state = .restA := by
    unfold Node.enterRestA Node.openRest
    split <;> rfl
  rw [Node.gradeHold_of_capTest hcap, (Node.Seeks.refl _).enterRestA.rail, ← hrail]
  exact ⟨hrests, hrequest, hown⟩

/-- R142: at the Rail Allocator HOLD ends the offer held and releases the own exchange. -/
theorem Node.railHold_rail (n : Node) : n.railHold.rail.held = none
    ∧ n.railHold.rail.own = n.rail.own.map fun o => { o with released := true } := by
  have hunsent (m : Node) : m.railUnsent.rail.held = m.rail.held ∧ m.railUnsent.rail.own = m.rail.own := by
    unfold Node.railUnsent
    split <;> exact ⟨rfl, rfl⟩
  rw [Node.railHold, (hunsent _).1, (hunsent _).2, ← n.releaseOwn_own causeStop]
  exact ⟨rfl, rfl⟩

/-- R142: no offer is held in HOLD. -/
theorem Node.held_unoffered (n : Node) : n.held.rail.held = none := n.gradeHold.railHold_rail.1

/-- R111, R142: the own record of a TEST or a counterpart's through HOLD. -/
theorem Node.held_own {n : Node} {o : OwnRecord} (hown : n.rail.own = some o) (hjoin : o.join = false) :
    ∃ o', n.held.rail.own = some o' ∧ o.Stays o' ∧ o'.released = true
      ∧ (o.initiator = true → n.grade.state = .capTest → n.rail.testing = true → o'.dropped = true) := by
  obtain ⟨o', ho', hstays⟩ := (Node.Keeps.refl .gradeFail n).gradeHold.rail.own o hown hjoin
  refine ⟨{ o' with released := true }, ?_, hstays.trans ⟨rfl, fun _ => rfl, id, fun _ => rfl⟩, rfl,
    fun hinitiator hcap htesting => ?_⟩
  · rw [Node.held, (Node.railHold_rail _).2, ho']
    rfl
  · obtain ⟨-, -, hdropped⟩ := Node.gradeHold_withdraws hcap htesting
    rw [hown, ho'] at hdropped
    simp [Option.some.inj hdropped, hinitiator]

/-- The entry into HOLD as the Presence Controller makes it changes the queue and the node state alone. -/
theorem Node.holdEntered_eq (n : Node) : n.holdEntered = { n with
    line := { n.line with queue := n.holdEntered.line.queue }
    pres := { n.pres with state := .hold, listenTimer := none, quietTimer := none, holdFlag := true
                          presenceTimer := n.holdEntered.pres.presenceTimer } } := by
  rw [Node.holdEntered, Node.sendPresence, Node.hand_eq]
  rfl

/-- R161: the bond of a node in HOLD after the Pairing Engine has taken the report. -/
theorem Node.enterHold_pair (n : Node) :
    (n.pair.state = .seeking ∨ n.pair.state = .proposing → n.enterHold.pair.state = .unpaired)
      ∧ (∀ x, n.bonded = true → n.pair.partner = some x →
        n.enterHold.pair.state = .unpaired ∧ n.enterHold.pair.partner = none) := by
  obtain ⟨k, hk⟩ : ∃ k, n.holdEntered.held.rederive = k := ⟨_, rfl⟩
  have hpres : k.pres = n.holdEntered.pres := by
    rw [← hk]
    exact (Node.Keeps.refl .gradeFail n.holdEntered).held.rederive.pres
  have hinactive : k.active = false := by
    rw [Node.active, hpres, Node.holdEntered_eq]
    rfl
  have hlive : k.live = true := by
    rw [Node.live, hpres, Node.holdEntered_eq]
    rfl
  have hpair : k.pair.state = n.pair.state ∧ k.pair.partner = n.pair.partner := by
    have hheld : n.holdEntered.held.active = false := by
      rw [Node.active, (Node.Keeps.refl .gradeFail n.holdEntered).held.pres, Node.holdEntered_eq]
      rfl
    rw [← hk, Node.rederive_of_inactive hheld, Node.held_pair, Node.holdEntered_eq]
    exact ⟨rfl, rfl⟩
  rw [Node.enterHold_eq, hk]
  refine ⟨fun hstate => ?_, fun x hbonded hx => ?_⟩
  · have hsingle : k.bonded = false := by
      rw [Node.bonded, hpair.1]
      rcases hstate with h | h <;> rw [h] <;> rfl
    rw [Node.dissolve_of_not_bonded hsingle]
    exact (Node.testEligible_of_inactive hinactive).2 hlive (by rw [hpair.1]; exact hstate)
  · obtain ⟨-, hstate, hpartner, -⟩ := Node.dissolve_unpaired (n := k) (x := x) hinactive (by rw [Node.bonded, hpair.1]; exact hbonded)
      (hpair.2.trans hx) unbindHold true false
    have hstands : (k.dissolve unbindHold true false).stands :=
      ⟨(Node.Keeps.refl .gradeFail k).dissolve.active.trans hinactive, .inl hstate⟩
    rw [Node.testEligible_of_stands hstands]
    exact ⟨hstate, hpartner⟩

/-- What an accepted HOLD makes of a node by the end of its step (R43, R111, R142, R161, R183). -/
structure Node.Holds (n m : Node) : Prop where
  state : m.pres.state = .hold
  flag : m.pres.holdFlag = true
  plan : m.pres.plan = n.pres.plan
  lastResult : m.serv.lastResult = 48
  view : m.rail.view = n.rail.view
  held : m.rail.held = none
  own : ∀ o, n.rail.own = some o → o.join = false → ∃ o', m.rail.own = some o' ∧ o.Stays o' ∧ o'.released = true
    ∧ (o.initiator = true → n.grade.state = .capTest → n.rail.testing = true → o'.dropped = true)
  request : n.grade.state = .capTest → n.rail.testing = true → m.rail.request = none
  single : n.pair.state = .seeking ∨ n.pair.state = .proposing → m.pair.state = .unpaired
  bond : ∀ x, n.bonded = true → n.pair.partner = some x → m.pair.state = .unpaired ∧ m.pair.partner = none
  couple : n.pair.state = .joined ∨ n.pair.state = .leaving → m.pair.state = n.pair.state ∧ m.pair.partner = n.pair.partner
    ∧ m.pos.phase = n.pos.phase ∧ m.pos.contactor = n.pos.contactor ∧ m.pos.switch = n.pos.switch

theorem Node.hold_holds (n before : Node) : n.Holds ((n.enterHold.result 3 0).conclude before) := by
  have hentered := n.holdEntered_eq
  have hheld : n.holdEntered.Keeps .gradeFail n.holdEntered.held := (Node.Keeps.refl _ _).held
  have hblocks : n.holdEntered.held.Keeps .gradeFail n.enterHold := (Node.Keeps.refl _ n.holdEntered.held).rederive.dissolve.testEligible
  have hworks := n.enterHold_works
  obtain ⟨hsingle, hbond⟩ := n.enterHold_pair
  generalize n.enterHold = e at hblocks hworks hsingle hbond ⊢
  have hend : (e.result 3 0).Keeps .gradeFail ((e.result 3 0).conclude before) := (Node.Keeps.refl _ _).conclude
  generalize (e.result 3 0).conclude before = m at hend ⊢
  have hpres : m.pres = n.holdEntered.pres := hend.pres.trans hworks.pres
  have hrail : n.holdEntered.held.rail.Stays m.rail := hblocks.rail.trans hend.rail
  have hinactive : e.active = false := by
    rw [Node.active, hworks.pres, hentered]
    rfl
  have hunpaired (h : e.pair.state = .unpaired) : m.pair.state = .unpaired ∧ m.pair.partner = e.pair.partner := by
    obtain ⟨hstate, hpartner, -⟩ := hend.couple ⟨hinactive, .inl h⟩
    exact ⟨hstate.trans h, hpartner⟩
  have hgrade : n.holdEntered.grade = n.grade ∧ n.holdEntered.rail = n.rail := by
    rw [hentered]
    exact ⟨rfl, rfl⟩
  refine ⟨?_, ?_, ?_, ?_, ?_, hrail.held (Node.held_unoffered _), fun o hown hjoin => ?_, fun hcap htesting => ?_,
    fun hstate => (hunpaired (hsingle hstate)).1, fun x hbonded hx => ?_, fun hcouple => ?_⟩
  case refine_1 => rw [hpres, hentered]
  case refine_2 => rw [hpres, hentered]
  case refine_3 => rw [hpres, hentered]
  case refine_4 =>
    rw [hend.serv]
    rfl
  case refine_5 => rw [hrail.view, hheld.rail.view, hgrade.2]
  case refine_6 =>
    obtain ⟨o', ho', hstays, hreleased, hdropped⟩ := Node.held_own (n := n.holdEntered) (by rw [hgrade.2]; exact hown) hjoin
    rw [hgrade.1, hgrade.2] at hdropped
    obtain ⟨o'', ho'', hstays'⟩ := hrail.own o' ho' (hstays.join.trans hjoin)
    exact ⟨o'', ho'', hstays.trans hstays', hstays'.released hreleased,
      fun hi hcap htesting => hstays'.dropped (hdropped hi hcap htesting)⟩
  case refine_7 =>
    obtain ⟨hrests, hrequest, -⟩ := Node.gradeHold_withdraws (n := n.holdEntered) (by rw [hgrade.1]; exact hcap)
      (by rw [hgrade.2]; exact htesting)
    obtain ⟨hstate, -, hnone⟩ := ((Node.Keeps.refl .gradeFail n.holdEntered.gradeHold).railHold.trans hblocks).rests hrests
    exact (hend.rests hstate).2.2 (hnone hrequest)
  case refine_8 =>
    obtain ⟨hstate, hpartner⟩ := hunpaired (hbond x hbonded hx).1
    exact ⟨hstate, hpartner.trans (hbond x hbonded hx).2⟩
  case refine_9 =>
    have hstands : n.holdEntered.stands := by
      rw [hentered]
      exact ⟨rfl, .inr hcouple⟩
    have hthrough := (hheld.trans hblocks).couple hstands
    have hthen := hend.couple ((hheld.trans hblocks).standing hstands)
    rw [hentered] at hthrough
    obtain ⟨hstate, hpartner, hphase, hcontactor, hswitch⟩ := hthrough
    obtain ⟨hstate', hpartner', hphase', hcontactor', hswitch'⟩ := hthen
    exact ⟨hstate'.trans hstate, hpartner'.trans hpartner, hphase'.trans hphase, hcontactor'.trans hcontactor, hswitch'.trans hswitch⟩

end Sys2Proof.Machine
end

section
/-! PROOFS. The entry into ACTIVE by RESUME_NODE, and the decision of both directives (R43, R46, R93-R97, R126, R142, R146, R168). -/

namespace Sys2Proof.Machine

/-! ### What the Grade Engine makes of the entry into ACTIVE (R93, R95, R97) -/

/-- The entry into ACTIVE as the Presence Controller makes it changes the queue and the node state alone. -/
theorem Node.activeEntered_eq (n : Node) : n.activeEntered = { n with
    line := { n.line with queue := n.activeEntered.line.queue }
    pres := { n.pres with state := .active, listenTimer := none, quietTimer := none, holdFlag := false
                          presenceTimer := n.activeEntered.pres.presenceTimer } } := by
  rw [Node.activeEntered, Node.sendPresence, Node.hand_eq]
  rfl

/-- The GRADE handed, and the watch of a REST_A that has none opened, before the start conditions are tested (R95, R97). -/
def Node.graded (n : Node) : Node :=
  if n.handGrade.grade.state = .restA ∧ n.handGrade.mon.watchGrade = none then n.handGrade.openRest else n.handGrade

theorem Node.gradeActive_eq (n : Node) : n.gradeActive = n.graded.startRegime := rfl

theorem Node.handGrade_only (n : Node) : n.handGrade = { n with
    line := { n.line with queue := n.handGrade.line.queue }, grade := { n.grade with repeatTimer := n.gradeDue } } := by
  have hgrade : n.handGrade = (n.hand .grade (gradeFields n.grade.generation n.grade.published.cls.code n.grade.published)).onGrade
      fun g => { g with repeatTimer := n.gradeDue } := rfl
  rw [hgrade, Node.hand_eq]
  rfl

theorem Node.openRest_of_plan {n : Node} {p : Plan} (hplan : n.pres.plan = some p) :
    n.openRest = { n with mon := { n.mon with watchGrade := some { duration := p.restTime * 60000, sampled := false } } } := by
  rw [Node.openRest, hplan]
  rfl

theorem Node.graded_eq (n : Node) : n.graded = { n with
    line := { n.line with queue := n.handGrade.line.queue }, grade := { n.grade with repeatTimer := n.gradeDue }
    mon := { n.mon with watchGrade := n.graded.mon.watchGrade } } := by
  have hopened (k : Node) : k.openRest = { k with mon := { k.mon with watchGrade := k.openRest.mon.watchGrade } } := by
    unfold Node.openRest
    split <;> rfl
  unfold Node.graded
  split
  · rw [hopened, n.handGrade_only]
  · have hmon : n.handGrade.mon = n.mon := by rw [n.handGrade_only]
    rw [hmon]
    exact n.handGrade_only

/-- R95: the entry into ACTIVE leaves every block but the queue and the Grade Engine with its watch. -/
theorem Node.gradeActive_only (n : Node) : n.gradeActive = { n with
    line := { n.line with queue := n.handGrade.line.queue }
    grade := { n.grade with state := n.gradeActive.grade.state, working := n.gradeActive.grade.working, repeatTimer := n.gradeDue }
    mon := { n.mon with watchGrade := n.gradeActive.mon.watchGrade } } := by
  rw [Node.gradeActive_eq, Node.startRegime_eq, n.graded_eq]

/-- R97: a node of REST_A without a watch opens it when it becomes ACTIVE. -/
theorem Node.gradeActive_rests {n : Node} {p : Plan} (hplan : n.pres.plan = some p) (hrest : n.grade.state = .restA)
    (hwatch : n.mon.watchGrade = none) : n.gradeActive.grade.state = .restA
      ∧ n.gradeActive.mon.watchGrade = some { duration := p.restTime * 60000, sampled := false } := by
  have hhanded := n.handGrade_only
  have hgraded : n.graded = n.handGrade.openRest := if_pos (by rw [hhanded]; exact ⟨hrest, hwatch⟩)
  rw [Node.openRest_of_plan (p := p) (by rw [hhanded]; exact hplan)] at hgraded
  have hstate : n.graded.grade.state = .restA := by
    rw [hgraded, hhanded]
    exact hrest
  have hno : n.graded.mayStart = false := by simp [Node.mayStart, hstate]
  rw [Node.gradeActive_eq, Node.startRegime, if_neg (by simp [hno])]
  exact ⟨hstate, by rw [hgraded]⟩

/-- R93: an ungraded node with a valid tag and no partner begins its rest when it becomes ACTIVE. -/
theorem Node.gradeActive_starts {n : Node} (hactive : n.active = true) (hstate : n.grade.state = .ungraded ∨ n.grade.state = .regrading)
    (htag : n.mon.tagState = .valid) (hfree : n.pair.state = .unpaired ∨ n.pair.state = .seeking) :
    n.gradeActive.grade.state = .restA := by
  have hstart : n.graded.mayStart = true := by
    have hspeaks : n.graded.active = n.active := by
      rw [n.graded_eq]
      rfl
    rw [Node.mayStart, hspeaks, hactive, n.graded_eq]
    simp [hstate, htag, hfree]
  have hrested (k : Node) : k.enterRestA.grade.state = .restA := by
    unfold Node.enterRestA Node.openRest
    split <;> rfl
  rw [Node.gradeActive_eq, Node.startRegime, if_pos hstart, hrested]

/-- R93: a graded node stays so. -/
theorem Node.gradeActive_stays {n : Node} (h : n.grade.state = .graded ∨ n.grade.state = .selfRest) :
    n.gradeActive.grade.state = n.grade.state := by
  have hno : n.graded.mayStart = false := by
    rw [n.graded_eq, Node.mayStart]
    rcases h with h | h <;> simp [h]
  rw [Node.gradeActive_eq, Node.startRegime, if_neg (by simp [hno]), n.graded_eq]

/-! ### What the other blocks make of it (R46, R126, R146, R168) -/

/-- The node in ACTIVE once Peer Table, Rail Allocator and Pairing Engine have heard of it, before a lead that waits claims. -/
def Node.sought (n : Node) : Node := n.rederive.roomTest.testEligible

theorem Node.enterActive_eq (n : Node) : n.enterActive = n.activeEntered.gradeActive.sought.claimIfLead := rfl

theorem Node.Keeps.sought {c : FaultCode} {n m : Node} (h : n.Keeps c m) : n.Keeps c m.sought := h.rederive.roomTest.testEligible

/-- The Rail Allocator's test for room is the one change that its own part sees (R126). -/
theorem Node.sought_rail (n : Node) : n.sought.rail = n.rederive.roomTest.rail ∧ n.sought.duty = n.duty ∧ n.sought.pos = n.pos := by
  have hlist := (Node.Seeks.refl n).rederive
  have hroom : n.rederive.roomTest.duty = n.duty ∧ n.rederive.roomTest.pos = n.pos := by
    rw [Node.roomTest_eq]
    exact ⟨hlist.duty, hlist.pos⟩
  have hseeks := (Node.Seeks.refl n.rederive.roomTest).testEligible
  exact ⟨hseeks.rail, hseeks.duty.trans hroom.1, hseeks.pos.trans hroom.2⟩

/-- R101, R136: the entry into ACTIVE leaves no completion report to be taken. -/
theorem Node.sought_settled {n : Node} (h : n.Settled) : n.sought.Settled := by
  have hasks := n.rederive.roomTest_asks
  obtain ⟨hrail, hduty, -⟩ := n.sought_rail
  rw [Node.Settled, hduty, hrail, hasks.testEnded, hasks.testOrdinary, (Node.Seeks.refl n).rederive.rail]
  exact h

/-- R146: an UNPAIRED node with a graded pack, figures and a FREE position seeks. -/
theorem Node.sought_seeks {n : Node} (hactive : n.active = true) (hstate : n.pair.state = .unpaired)
    (hgraded : n.grade.state = .graded ∨ n.grade.state = .selfRest)
    (hclass : n.grade.published.cls = .a ∨ n.grade.published.cls = .b ∨ n.grade.published.cls = .c)
    (hcap : n.grade.published.cap.isSome = true) (hres : n.grade.published.res.isSome = true)
    (hfree : ∃ v, n.pos.view = some v ∧ ∃ x ∈ v, x.state = .free) :
    n.sought.pair.state = .seeking ∨ n.sought.pair.state = .proposing := by
  obtain ⟨k, hk⟩ : ∃ k, n.rederive.roomTest = k := ⟨_, rfl⟩
  have hlisted : n.rederive.pair.state = .unpaired ∧ n.rederive.grade = n.grade := by
    have hstays (m : Node) (h : m.pair.state = .unpaired) : m.seekOn = m := by
      unfold Node.seekOn
      split
      · exact if_neg (by simp [h])
      · rfl
    unfold Node.rederive
    split
    · exact ⟨hstate, rfl⟩
    · extract_lets n1
      split
      · rw [hstays n1.retarget hstate]
        exact ⟨hstate, rfl⟩
      · exact ⟨hstate, rfl⟩
  have hroom : k.pair = n.rederive.pair ∧ k.grade = n.rederive.grade ∧ k.pos = n.rederive.pos ∧ k.pres = n.rederive.pres := by
    rw [← hk, Node.roomTest_eq]
    exact ⟨rfl, rfl, rfl, rfl⟩
  obtain ⟨hpair, hgrade, hpos, hpres⟩ := hroom
  have hlist := (Node.Seeks.refl n).rederive
  have heligible : k.eligible = true := by
    obtain ⟨v, hv, x, hx, hxfree⟩ := hfree
    have hhas : k.hasFree = true := by
      rw [Node.hasFree, hpos, hlist.pos, hv]
      exact List.any_eq_true.2 ⟨x, hx, by simp [hxfree]⟩
    have hfigures : k.ownFigures.isSome = true := by
      obtain ⟨c, hc⟩ := Option.isSome_iff_exists.1 hcap
      obtain ⟨r, hr⟩ := Option.isSome_iff_exists.1 hres
      rw [Node.ownFigures, hgrade, hlisted.2, Class.pairs, Record.figures, hc, hr]
      rcases hclass with h | h | h <;> simp [h]
    have hk : k.active = true := by
      rw [Node.active, hpres, hlist.pres]
      exact hactive
    rw [Node.eligible, hk, hgrade, hlisted.2, hfigures, hhas]
    rcases hgraded with h | h <;> simp [h]
  have hlive : k.live = true := by
    have hk : n.pres.state = .active := by simpa [Node.active] using hactive
    simp [Node.live, hpres, hlist.pres, hk]
  have htested : n.sought = (k.setPair .seeking).seekOn := by
    rw [Node.sought, hk, Node.testEligible, if_pos hlive, hpair, hlisted.1]
    exact if_pos heligible
  rw [htested]
  unfold Node.seekOn Node.propose
  split
  · split
    · split
      · exact .inr (Node.setPair_state _ _)
      · exact .inl (Node.setPair_state _ _)
    · exact .inl (Node.setPair_state _ _)
  · exact .inl (Node.setPair_state _ _)

/-- R168: without a bond a lead that claims claims and no more. -/
theorem Node.claimIfLead_of_unbound {n : Node} (h : n.pair.state ≠ .bound) :
    n.claimIfLead.pair = n.pair ∧ n.claimIfLead.duty = n.duty ∧ n.claimIfLead.rail = n.rail := by
  have hnone (m : Node) (hm : m.pair = n.pair) : m.noPosition = m := if_neg (by rw [hm]; exact h)
  unfold Node.claimIfLead Node.chooseClaim
  split
  · extract_lets n1
    split
    · split
      · rw [Node.handPos_eq]
        exact ⟨rfl, rfl, rfl⟩
      · rw [hnone n1 rfl]
        exact ⟨rfl, rfl, rfl⟩
    · exact ⟨rfl, rfl, rfl⟩
  · exact ⟨rfl, rfl, rfl⟩

theorem Node.claimIfLead_of_other {n : Node} (h : n.pos.phase ≠ .bonded) : n.claimIfLead = n := if_neg fun hlead => h hlead.1

end Sys2Proof.Machine
end

section
/-! PROOFS. The queue of a node that enters ACTIVE by RESUME_NODE, and the decision of both directives (R26, R43, R46, R95, R182,
R183). -/

namespace Sys2Proof.Machine

/-! ### A queue with room (R26) -/

theorem mem_replaceIn_of_replaced {q : Queued} {l : List Queued} (h : ∃ x ∈ l, q.replaces x = true) : q ∈ replaceIn q l := by
  induction l with
  | nil => simp at h
  | cons y ys ih =>
    by_cases hy : q.replaces y = true
    · simp [replaceIn, hy]
    · have hrest : ∃ x ∈ ys, q.replaces x = true := by simpa [hy] using h
      simp [replaceIn, hy, ih hrest]

theorem mem_replaceIn_of_other {q x : Queued} {l : List Queued} (hx : x ∈ l) (hother : q.replaces x = false) : x ∈ replaceIn q l := by
  induction l with
  | nil => cases hx
  | cons y ys ih =>
    rcases List.mem_cons.1 hx with rfl | hin
    · simp [replaceIn, hother]
    · by_cases hy : q.replaces y = true
      · simp [replaceIn, hy, hin]
      · simp [replaceIn, hy, ih hin]

theorem replaceIn_length (q : Queued) (l : List Queued) : (replaceIn q l).length = l.length := by
  induction l with
  | nil => rfl
  | cons y ys ih =>
    rw [replaceIn]
    split
    · rfl
    · simp [ih]

/-- R26: in a queue with room a notice finds its place, and displaces none. -/
theorem offerQueue_of_room {q : Queued} {l : List Queued} (hroom : l.length < 8) : q ∈ offerQueue q l
    ∧ (offerQueue q l).length ≤ l.length + 1 ∧ ∀ x ∈ l, q.replaces x = false → x ∈ offerQueue q l := by
  unfold offerQueue
  split
  next hreplaced =>
    refine ⟨mem_replaceIn_of_replaced (by simpa using hreplaced), ?_, fun x hx hother => mem_replaceIn_of_other hx hother⟩
    rw [replaceIn_length]
    omega
  next =>
    rw [(placeAfter_perm q l).length_eq]
    exact ⟨mem_placeAfter.2 (.inl rfl), Nat.le_refl _, fun x hx _ => mem_placeAfter.2 (.inr hx)⟩

/-! ### PRESENCE and GRADE beside what the blocks hand (R46, R95) -/

/-- The queue holds a PRESENCE and this GRADE, and at most `k` notices. -/
structure Node.Announces (grade : Queued) (k : Nat) (n : Node) : Prop where
  short : n.line.queue.length ≤ k
  grade : grade ∈ n.line.queue
  presence : ∃ x ∈ n.line.queue, x.kind = .presence

namespace Node.Announces

variable {grade : Queued} {k : Nat} {n m : Node}

theorem of_line (h : n.Announces grade k) (hline : m.line = n.line) : m.Announces grade k := by
  obtain ⟨hshort, hgrade, hpresence⟩ := h
  rw [← hline] at hshort hgrade hpresence
  exact ⟨hshort, hgrade, hpresence⟩

theorem more (h : n.Announces grade k) : n.Announces grade (k + 1) := ⟨by have := h.short; omega, h.grade, h.presence⟩

/-- R26: a notice of another kind handed to a queue with room stands beside them. -/
theorem handPart {kind : Kind} {rank part : Nat} {fields : List (Nat × Value)} (h : n.Announces grade k) (hgrade : grade.kind = .grade)
    (hroom : k < 8) (hkind : kind ≠ .presence ∧ kind ≠ .grade) : (n.handPart kind rank part fields).Announces grade (k + 1) := by
  obtain ⟨hshort, hin, x, hx, hpresence⟩ := h
  obtain ⟨-, hlength, hkept⟩ := offerQueue_of_room (q := ⟨kind, kind.priority rank, part, encodeFields fields⟩)
    (Nat.lt_of_le_of_lt hshort hroom)
  have hqueue := n.handPart_queue kind rank part fields
  split at hqueue
  · refine ⟨by rw [hqueue]; omega, hqueue ▸ hkept _ hin ?_, x, hqueue ▸ hkept _ hx ?_, hpresence⟩
    · simp [Queued.replaces, hgrade, hkind.2]
    · simp [Queued.replaces, hpresence, hkind.1]
  · exact ⟨by rw [hqueue]; omega, hqueue ▸ hin, x, hqueue ▸ hx, hpresence⟩

theorem setPair {s : PairState} (h : n.Announces grade k) : (n.setPair s).Announces grade k :=
  h.of_line (by rw [Node.setPair_eq])

theorem propose {t : Nat} (h : n.Announces grade k) (hgrade : grade.kind = .grade) (hroom : k < 8) :
    (n.propose t).Announces grade (k + 1) := by
  unfold Node.propose
  split
  next c g _ _ _ =>
    have hhanded : (n.hand .propose (proposeFields t c.2 n.grade.generation g)).Announces grade (k + 1) :=
      h.handPart hgrade hroom (by simp)
    exact setPair (hhanded.of_line rfl)
  · exact h.more

theorem seekOn (h : n.Announces grade k) (hgrade : grade.kind = .grade) (hroom : k < 8) : n.seekOn.Announces grade (k + 1) := by
  unfold Node.seekOn
  split
  · split
    · exact h.propose hgrade hroom
    · exact h.more
  · exact h.more

theorem rederive (h : n.Announces grade k) (hgrade : grade.kind = .grade) (hroom : k < 8) : n.rederive.Announces grade (k + 1) := by
  unfold Node.rederive
  split
  · exact h.more
  · extract_lets n1
    split
    · exact (h.of_line (m := n1.retarget) rfl).seekOn hgrade hroom
    · exact (h.of_line (m := n1) rfl).more

theorem roomTest (h : n.Announces grade k) (hgrade : grade.kind = .grade) (hroom : k < 8) : n.roomTest.Announces grade (k + 1) := by
  unfold Node.roomTest
  split
  · split
    · split
      · exact (h.handPart (kind := .need) hgrade hroom (by simp)).of_line rfl
      · unfold Node.handJoin
        split
        · exact (h.handPart (kind := .agree) hgrade hroom (by simp)).of_line rfl
        · exact h.more
    · exact h.more
  · exact h.more

theorem testEligible (h : n.Announces grade k) (hgrade : grade.kind = .grade) (hroom : k < 8) :
    n.testEligible.Announces grade (k + 1) := by
  unfold Node.testEligible
  split
  · split
    · split
      · exact h.setPair.seekOn hgrade hroom
      · exact h.more
    · split
      · exact h.more
      · exact h.setPair.more
    · split
      · exact h.more
      · exact (h.of_line (m := n.endProposal) rfl).setPair.more
    all_goals exact h.more
  · exact h.more

theorem sought (h : n.Announces grade k) (hgrade : grade.kind = .grade) (hroom : k < 6) : n.sought.Announces grade (k + 3) :=
  ((h.rederive hgrade (by omega)).roomTest hgrade (by omega)).testEligible hgrade (by omega)

/-- R183: the result recorded brings the PRESENCE in the queue up to date. -/
theorem result {kind outcome : Nat} (h : n.Announces grade k) (hgrade : grade.kind = .grade) :
    (n.result kind outcome).presenceQueued ∈ (n.result kind outcome).line.queue ∧ grade ∈ (n.result kind outcome).line.queue := by
  have hqueue : (n.result kind outcome).line.queue = replaceIn (n.result kind outcome).presenceQueued n.line.queue := by
    rw [Node.result, Node.rebuildPresence, Node.presence_eq]
    rfl
  obtain ⟨-, hin, x, hx, hpresence⟩ := h
  rw [hqueue]
  exact ⟨mem_replaceIn_of_replaced ⟨x, hx, by simp [Queued.replaces, hpresence]⟩,
    mem_replaceIn_of_other hin (by simp [Queued.replaces, hgrade])⟩

end Node.Announces

/-- R46, R95: a node with an empty queue that enters ACTIVE has handed its PRESENCE and its GRADE. -/
theorem Node.gradeActive_announces {n : Node} {p : Plan} (hplan : n.pres.plan = some p) (hempty : n.line.queue = []) :
    n.activeEntered.gradeActive.Announces
      (noticeOf .grade 100 (gradeFields n.grade.generation n.grade.published.cls.code n.grade.published)) 2 := by
  obtain ⟨presence, hkind, hpresence⟩ : ∃ q : Queued, q.kind = .presence ∧ n.activeEntered.line.queue = [q] := by
    rw [Node.activeEntered, Node.sendPresence_eq rfl]
    refine ⟨_, ?_, congrArg (offerQueue _) hempty⟩
    rfl
  have hentered := n.activeEntered_eq
  have hqueue : n.activeEntered.gradeActive.line.queue = offerQueue
      (noticeOf .grade 100 (gradeFields n.grade.generation n.grade.published.cls.code n.grade.published)) [presence] := by
    rw [Node.gradeActive_only, Node.handGrade_eq (p := p) (by rw [hentered]; exact hplan) (by rw [hentered]; rfl) (by rw [hentered]; rfl),
      ← hpresence]
    rw [hentered]
  obtain ⟨hin, hlength, hkept⟩ := offerQueue_of_room
    (q := noticeOf .grade 100 (gradeFields n.grade.generation n.grade.published.cls.code n.grade.published)) (l := [presence]) (by simp)
  refine ⟨by rw [hqueue]; exact hlength, by rw [hqueue]; exact hin, presence, ?_, hkind⟩
  rw [hqueue]
  exact hkept _ (List.mem_singleton.2 rfl) (by simp [Queued.replaces, hkind])

/-! ### RESUME_NODE accepted -/

/-- What an accepted RESUME_NODE makes of a node by the end of its step (R43, R46, R93-R97, R126, R142, R146, R183). -/
structure Node.Resumes (n m : Node) : Prop where
  state : m.pres.state = .active
  flag : m.pres.holdFlag = false
  plan : m.pres.plan = n.pres.plan
  lastResult : m.serv.lastResult = 64
  view : m.rail.view = n.rail.view
  timers : ∀ p, n.pres.plan = some p → m.pres.presenceTimer = some (n.mon.now + p.presencePeriod)
    ∧ m.grade.repeatTimer = some (n.mon.now + 8 * p.presencePeriod)
  queue : ∀ p, n.pres.plan = some p → n.line.queue = [] → n.pos.phase ≠ .bonded → m.presenceQueued ∈ m.line.queue
    ∧ noticeOf .grade 100 (gradeFields n.grade.generation n.grade.published.cls.code n.grade.published) ∈ m.line.queue
  rests : ∀ p, n.pres.plan = some p → n.grade.state = .restA → n.mon.watchGrade = none →
    m.mon.watchGrade = some { duration := p.restTime * 60000, sampled := false }
  starts : n.grade.state = .ungraded ∨ n.grade.state = .regrading → n.mon.tagState = .valid →
    n.pair.state = .unpaired ∨ n.pair.state = .seeking → m.grade.state = .restA
  room : ∀ p q, n.pres.plan = some p → n.rail.request = some q → n.rail.side = .waiting → n.rail.retryTimer = none →
    n.pos.phase ≠ .bonded → ({ n with pres := { n.pres with state := .active } } : Node).hasRoom p (n.asks p q.units) →
    (q.isTest = true → m.rail.side = .needing ∧ m.rail.current = some n.nextId)
      ∧ (q.isTest = false → n.pair.partner.isSome = true → m.rail.side = .agreeing ∧ m.rail.current = some n.nextId)
  seeks : n.pair.state = .unpaired → n.grade.state = .graded ∨ n.grade.state = .selfRest →
    n.grade.published.cls = .a ∨ n.grade.published.cls = .b ∨ n.grade.published.cls = .c → n.grade.published.cap.isSome = true →
    n.grade.published.res.isSome = true → (∃ v, n.pos.view = some v ∧ ∃ x ∈ v, x.state = .free) →
    m.pair.state = .seeking ∨ m.pair.state = .proposing

/-- The node in ACTIVE once the Grade Engine has heard of it (R46, R95). -/
theorem Node.resumed_eq (n : Node) : n.activeEntered.gradeActive = { n with
    line := { n.line with queue := n.activeEntered.gradeActive.line.queue }
    pres := n.activeEntered.pres
    grade := { n.grade with state := n.activeEntered.gradeActive.grade.state, working := n.activeEntered.gradeActive.grade.working
                            repeatTimer := n.activeEntered.gradeDue }
    mon := { n.mon with watchGrade := n.activeEntered.gradeActive.mon.watchGrade } } := by
  have hentered := n.activeEntered_eq
  have hgraded := n.activeEntered.gradeActive_only
  generalize n.activeEntered.gradeActive = g at hgraded ⊢
  rw [hgraded]
  generalize n.activeEntered.gradeDue = due
  generalize n.activeEntered.handGrade = k
  rw [hentered]

/-- R95: the moment of the next GRADE, of a node in ACTIVE under a plan. -/
theorem Node.gradeDue_active {n : Node} {p : Plan} (hplan : n.pres.plan = some p) (hstate : n.pres.state = .active) :
    n.gradeDue = some (n.mon.now + 8 * p.presencePeriod) := by
  simp only [Node.gradeDue, hplan, hstate]
  rfl

/-- R126: a waiting request for which the node in ACTIVE has room goes on. -/
theorem Node.sought_room {n : Node} {p : Plan} {q : Request} (hplan : n.pres.plan = some p) (hrequest : n.rail.request = some q)
    (hside : n.rail.side = .waiting) (hretry : n.rail.retryTimer = none) (hroom : n.hasRoom p (n.askedUnits p q)) :
    (q.isTest = true → n.sought.rail.side = .needing ∧ n.sought.rail.current = some n.nextId)
      ∧ (q.isTest = false → n.pair.partner.isSome = true → n.sought.rail.side = .agreeing
        ∧ n.sought.rail.current = some n.nextId) := by
  have hlist := (Node.Seeks.refl n).rederive
  have hasked : n.rederive.askedUnits p q = n.askedUnits p q := by
    rw [Node.askedUnits, Node.askedUnits, Node.address, Node.address, hlist.pres, hlist.rail]
  have hnext : n.rederive.nextId = n.nextId := by
    rw [Node.nextId, Node.nextId, Node.address, Node.address, hlist.pres, hlist.rail]
  have hfits : n.rederive.hasRoom p (n.rederive.askedUnits p q) := by
    rw [hasked, Node.hasRoom, hlist.pres, hlist.rail]
    exact hroom
  obtain ⟨htest, hjoin⟩ := Node.roomTest_of_room (n := n.rederive) (by rw [hlist.pres]; exact hplan)
    (by rw [hlist.rail]; exact hrequest) (by rw [hlist.rail]; exact hside) (by rw [hlist.rail]; exact hretry) hfits
  rw [hnext] at htest hjoin
  rw [hlist.partner] at hjoin
  rw [n.sought_rail.1]
  refine ⟨fun hq => ?_, fun hq hpartner => ?_⟩
  · obtain ⟨hneeding, hcurrent, -⟩ := htest hq
    exact ⟨hneeding, hcurrent⟩
  · obtain ⟨hagreeing, hcurrent, -⟩ := hjoin hq hpartner
    exact ⟨hagreeing, hcurrent⟩

theorem Node.resume_resumes {n : Node} (hsettled : n.Settled) (before : Node) : n.Resumes ((n.enterActive.result 4 0).conclude before) := by
  have hentered := n.activeEntered_eq
  have hresumed := n.resumed_eq
  have hworks := n.enterActive_works
  have hrests {p : Plan} (hplan : n.pres.plan = some p) (hrest : n.grade.state = .restA) (hwatch : n.mon.watchGrade = none) :=
    Node.gradeActive_rests (n := n.activeEntered) (p := p) (by rw [hentered]; exact hplan) (by rw [hentered]; exact hrest)
      (by rw [hentered]; exact hwatch)
  have hstarts (hstate : n.grade.state = .ungraded ∨ n.grade.state = .regrading) (htag : n.mon.tagState = .valid)
      (hfree : n.pair.state = .unpaired ∨ n.pair.state = .seeking) :=
    Node.gradeActive_starts (n := n.activeEntered) (by rw [hentered]; rfl) (by rw [hentered]; exact hstate)
      (by rw [hentered]; exact htag) (by rw [hentered]; exact hfree)
  have hstays (h : n.grade.state = .graded ∨ n.grade.state = .selfRest) :=
    Node.gradeActive_stays (n := n.activeEntered) (by rw [hentered]; exact h)
  have hannounces {p : Plan} (hplan : n.pres.plan = some p) (hempty : n.line.queue = []) := Node.gradeActive_announces hplan hempty
  have hlead := n.enterActive_eq
  generalize n.activeEntered.gradeActive = g at *
  generalize n.enterActive = e at *
  have hblocks : g.Keeps .gradeFail e := hlead ▸ (Node.Keeps.refl _ g).sought.claimIfLead
  have hend : (e.result 4 0).Keeps .gradeFail ((e.result 4 0).conclude before) := (Node.Keeps.refl _ _).conclude
  have hquiet : g.sought.Settled := by
    refine Node.sought_settled ?_
    rw [hresumed]
    exact hsettled
  have hother (hphase : n.pos.phase ≠ .bonded) : e = g.sought := by
    rw [hlead, Node.claimIfLead_of_other]
    rw [g.sought_rail.2.2, hresumed]
    exact hphase
  have hdone (h : e.Settled) : (e.result 4 0).conclude before = e.result 4 0 := Node.conclude_result h before 4 0
  have hpres : ((e.result 4 0).conclude before).pres = n.activeEntered.pres := hend.pres.trans hworks.pres
  have hactive : g.active = true := by
    rw [hresumed, hentered]
    rfl
  refine ⟨?_, ?_, ?_, ?_, ?_, fun p hplan => ⟨?_, ?_⟩, fun p hplan hempty hphase => ?_, fun p hplan hrest hwatch => ?_,
    fun hstate htag hfree => ?_, fun p q hplan hrequest hside hretry hphase hroom => ?_,
    fun hstate hgraded hclass hcap hres hfree => ?_⟩
  case refine_1 | refine_2 | refine_3 => rw [hpres, hentered]
  case refine_4 =>
    rw [hend.serv]
    rfl
  case refine_5 =>
    rw [hend.rail.view]
    exact hblocks.rail.view.trans (by rw [hresumed])
  case refine_6 => rw [hpres, Node.activeEntered_pres hplan]; rfl
  case refine_7 =>
    have hdue : n.activeEntered.gradeDue = some (n.mon.now + 8 * p.presencePeriod) := by
      rw [Node.gradeDue_active (p := p) (by rw [hentered]; exact hplan) (by rw [hentered]), hentered]
    have hgdue : g.gradeDue = some (n.mon.now + 8 * p.presencePeriod) := by
      rw [Node.gradeDue_active (p := p) (by rw [hresumed, hentered]; exact hplan) (by rw [hresumed, hentered]), hresumed]
    have hg : g.grade.repeatTimer = some (n.mon.now + 8 * p.presencePeriod) := by
      rw [hresumed]
      exact hdue
    have he : e.grade.repeatTimer = some (n.mon.now + 8 * p.presencePeriod) := by
      rcases hblocks.repeats with h | h
      · rw [h, hg]
      · rw [h, hgdue]
    rcases hend.repeats with h | h
    · exact h.trans he
    · exact h.trans (hblocks.gradeDue.trans hgdue)
  case refine_8 =>
    rw [hdone (by rw [hother hphase]; exact hquiet), hother hphase]
    exact ((hannounces hplan hempty).sought rfl (by omega)).result rfl
  case refine_9 =>
    obtain ⟨hstate, hopened⟩ := hrests hplan hrest hwatch
    obtain ⟨hstays, hkept, -⟩ := hblocks.rests hstate
    obtain ⟨-, hkept', -⟩ := hend.rests hstays
    exact hkept'.trans (hkept.trans hopened)
  case refine_10 =>
    obtain ⟨hrests, -, -⟩ := hblocks.rests (hstarts hstate htag hfree)
    exact (hend.rests hrests).1
  case refine_11 =>
    rw [hdone (by rw [hother hphase]; exact hquiet), hother hphase]
    have hfound := Node.sought_room (n := g) (p := p) (q := q) (by rw [hresumed, hentered]; exact hplan)
      (by rw [hresumed]; exact hrequest) (by rw [hresumed]; exact hside) (by rw [hresumed]; exact hretry)
      (by rw [hresumed, hentered]; exact hroom)
    have hnext : g.nextId = n.nextId := by
      rw [hresumed, hentered]
      rfl
    have hpartner : g.pair.partner = n.pair.partner := by rw [hresumed]
    rw [hnext, hpartner] at hfound
    exact hfound
  case refine_12 =>
    have hsought := Node.sought_seeks (n := g) hactive (by rw [hresumed]; exact hstate)
      (by rw [hstays hgraded]; rw [hentered]; exact hgraded) (by rw [hresumed]; exact hclass) (by rw [hresumed]; exact hcap)
      (by rw [hresumed]; exact hres) (by rw [hresumed]; exact hfree)
    obtain ⟨hpair, hduty, hrail⟩ := Node.claimIfLead_of_unbound (n := g.sought) (by rcases hsought with h | h <;> rw [h] <;> nofun)
    rw [hdone (by rw [hlead, Node.Settled, hduty, hrail]; exact hquiet), hlead]
    change g.sought.claimIfLead.pair.state = _ ∨ g.sought.claimIfLead.pair.state = _
    rw [hpair]
    exact hsought

/-! ### Both directives -/

/-- Settles O47: each directive is accepted in its one state, with the entry into the other, and refused elsewhere. -/
theorem holdAndResumeNode : Obligations.HoldAndResumeNode := by
  intro n w h a k hsettled hheard ha
  have hframe := n.heardFrom_eq h.source
  have hfrom : (n.heardFrom h.source).Settled := Node.heardFrom_settled hsettled _
  have hnamed : a = 0 ∨ a = (n.heardFrom h.source).address := by
    rw [Node.address, hframe]
    exact ha
  have hpres : (n.heardFrom h.source).pres = n.pres := by rw [hframe]
  have hserv : (n.heardFrom h.source).serv = n.serv := by rw [hframe]
  refine ⟨?_, ?_, ?_, ?_⟩
  case refine_1 =>
    rintro rfl hstate
    have hexec : exec (.hold h) ⟨n, w⟩ = .next ⟨((n.heardFrom h.source).enterHold.result 3 0).conclude n, w⟩ :=
      State.act_eq (f := fun n => n.hearDirective (· == 3) h) (by
        rw [Node.hear_directive hheard rfl, Node.heardDirective_hold hnamed, hpres, if_pos hstate])
    have hholds := (n.heardFrom h.source).hold_holds n
    generalize ((n.heardFrom h.source).enterHold.result 3 0).conclude n = m at hexec hholds
    generalize n.heardFrom h.source = k at *
    refine ⟨m, hexec, hholds.state, hholds.flag,
      hholds.plan.trans (by rw [hframe]), hholds.lastResult, hholds.view.trans (by rw [hframe]), hholds.held, fun o hown hjoin => ?_,
      fun hcap htesting => hholds.request (by rw [hframe]; exact hcap) (by rw [hframe]; exact htesting),
      fun hsingle => hholds.single (by rw [hframe]; exact hsingle),
      fun x hbonded hx => hholds.bond x (by rw [hframe]; exact hbonded) (by rw [hframe]; exact hx), fun hcouple => ?_⟩
    · obtain ⟨o', ho', hstays, hreleased, hdropped⟩ := hholds.own o (by rw [hframe]; exact hown) hjoin
      refine ⟨o'.dropped, ?_, hstays.counterpart, fun hi hcap htesting =>
        hdropped hi (by rw [hframe]; exact hcap) (by rw [hframe]; exact htesting)⟩
      rw [ho', hstays.eq, hreleased]
    · obtain ⟨hpair, hpartner, hphase, hcontactor, hswitch⟩ := hholds.couple (by rw [hframe]; exact hcouple)
      rw [hpair, hpartner, hphase, hcontactor, hswitch, hframe]
      exact ⟨rfl, rfl, rfl, rfl, rfl⟩
  case refine_2 =>
    rintro rfl hstate
    have hexec : exec (.resumeNode h) ⟨n, w⟩ = .next ⟨((n.heardFrom h.source).enterActive.result 4 0).conclude n, w⟩ :=
      State.act_eq (f := fun n => n.hearDirective (· == 4) h) (by
        rw [Node.hear_directive hheard rfl, Node.heardDirective_resume hnamed, hpres, if_pos hstate])
    have hresumes := Node.resume_resumes hfrom n
    generalize ((n.heardFrom h.source).enterActive.result 4 0).conclude n = m at hexec hresumes
    generalize n.heardFrom h.source = k at *
    refine ⟨m, hexec, hresumes.state, hresumes.flag,
      hresumes.plan.trans (by rw [hframe]), hresumes.lastResult, hresumes.view.trans (by rw [hframe]), fun p hplan => ?_⟩
    have hkplan : k.pres.plan = some p := by rw [hframe]; exact hplan
    obtain ⟨hpresence, hrepeat⟩ := hresumes.timers p hkplan
    have hqueue := hresumes.queue p hkplan
    have hrests := hresumes.rests p hkplan
    have hroom := fun q => hresumes.room p q hkplan
    have hstarts := hresumes.starts
    have hseeks := hresumes.seeks
    rw [hframe] at hpresence hrepeat hqueue hrests hstarts hroom hseeks
    exact ⟨hpresence, hrepeat, hqueue, hrests, hstarts, hroom, hseeks⟩
  case refine_3 =>
    rintro rfl hstate
    refine State.act_eq (f := fun n => n.hearDirective (· == 3) h) ?_
    rw [Node.hear_directive hheard rfl, Node.heardDirective_hold hnamed, hpres, if_neg hstate, Node.conclude_result hfrom, ← hserv]
    rfl
  case refine_4 =>
    rintro rfl hstate
    refine State.act_eq (f := fun n => n.hearDirective (· == 4) h) ?_
    rw [Node.hear_directive hheard rfl, Node.heardDirective_resume hnamed, hpres, if_neg hstate, Node.conclude_result hfrom, ← hserv]
    rfl

end Sys2Proof.Machine
end

section
/-! PROOFS. What the blocks leave of the tables that a peer's notices fill (R48, R122-R124, R165): the entries of the Peer Table, the
rail view with its certainty, and the row view; each operation of a block once. -/

namespace Sys2Proof.Machine

/-! ### What is retained -/

/-- The rail view and its certainty stand, and no own exchange comes to a rail block without one. -/
structure Rail.Retains (r r' : Rail) : Prop where
  view : r'.view = r.view
  certain : r'.certain = r.certain
  boot : r'.boot = r.boot
  heardSince : r'.heardSince = r.heardSince
  certainTimer : r'.certainTimer = r.certainTimer
  free : r.own = none → r'.own = none

/-- The entries of the Peer Table, the Presence Controller, the clock and the row view stand. -/
structure Node.Leaves (n m : Node) : Prop where
  entries : m.peers.entries = n.peers.entries
  pres : m.pres = n.pres
  now : m.mon.now = n.mon.now
  rows : m.pos.view = n.pos.view

/-- The rail view stands too. -/
structure Node.Retains (n m : Node) : Prop extends n.Leaves m where
  rail : n.rail.Retains m.rail

namespace Rail.Retains

variable {r r' r'' : Rail}

theorem refl (r : Rail) : r.Retains r := ⟨rfl, rfl, rfl, rfl, rfl, id⟩

theorem trans (h : r.Retains r') (h' : r'.Retains r'') : r.Retains r'' where
  view := h'.view.trans h.view
  certain := h'.certain.trans h.certain
  boot := h'.boot.trans h.boot
  heardSince := h'.heardSince.trans h.heardSince
  certainTimer := h'.certainTimer.trans h.certainTimer
  free := h'.free ∘ h.free

theorem sameBut (h : r.sameBut r') : r.Retains r' := by
  have heq : r' = { r with repeats := r'.repeats } := h
  rw [heq]
  exact ⟨rfl, rfl, rfl, rfl, rfl, id⟩

/-- The end of an own record, or a mark of it. -/
theorem map_own {f : OwnRecord → OwnRecord} : r.Retains { r with own := r.own.map f } :=
  ⟨rfl, rfl, rfl, rfl, rfl, fun hown => by simp [hown]⟩

theorem dropRequest (r : Rail) : r.Retains r.dropRequest := ⟨rfl, rfl, rfl, rfl, rfl, fun hown => by simp [Rail.dropRequest, hown]⟩

end Rail.Retains

namespace Node.Leaves

variable {n m k : Node}

theorem trans (h : n.Leaves m) (hk : m.Leaves k) : n.Leaves k :=
  ⟨hk.entries.trans h.entries, hk.pres.trans h.pres, hk.now.trans h.now, hk.rows.trans h.rows⟩

theorem peer (h : n.Leaves m) (a : Nat) : m.peer a = n.peer a := by rw [Node.peer, h.entries]; rfl

theorem ownRow (h : n.Leaves m) (a : Nat) : m.ownRow a = n.ownRow a := by simp only [Node.ownRow, Node.address, h.pres]

end Node.Leaves

namespace Node.Retains

variable {n m k : Node}

theorem refl (n : Node) : n.Retains n := ⟨⟨rfl, rfl, rfl, rfl⟩, .refl _⟩

theorem trans (h : n.Retains m) (hk : m.Retains k) : n.Retains k := ⟨h.toLeaves.trans hk.toLeaves, h.rail.trans hk.rail⟩

theorem ite {p : Prop} [Decidable p] {a b : Node} (ha : n.Retains a) (hb : n.Retains b) : n.Retains (if p then a else b) := by
  split
  · exact ha
  · exact hb

theorem foldl {α : Type} {f : Node → α → Node} (hf : ∀ k x, n.Retains k → n.Retains (f k x)) {l : List α} (h : n.Retains m) :
    n.Retains (l.foldl f m) := by
  induction l generalizing m with
  | nil => exact h
  | cons x xs ih => exact ih (hf m x h)

/-! ### One block at a time -/

theorem onLine {f : Line → Line} (h : n.Retains m) : n.Retains (m.onLine f) := h.trans ⟨⟨rfl, rfl, rfl, rfl⟩, .refl _⟩

theorem setCands {l : List (Nat × Fig)} (h : n.Retains m) : n.Retains (m.onPeers fun t => { t with cands := l }) :=
  h.trans ⟨⟨rfl, rfl, rfl, rfl⟩, .refl _⟩

theorem onMon {f : Monitor → Monitor} (hnow : (f m.mon).now = m.mon.now) (h : n.Retains m) : n.Retains (m.onMon f) :=
  h.trans ⟨⟨rfl, rfl, hnow, rfl⟩, .refl _⟩

theorem onDuty {f : Duty → Duty} (h : n.Retains m) : n.Retains (m.onDuty f) := h.trans ⟨⟨rfl, rfl, rfl, rfl⟩, .refl _⟩

theorem onGrade {f : Grader → Grader} (h : n.Retains m) : n.Retains (m.onGrade f) := h.trans ⟨⟨rfl, rfl, rfl, rfl⟩, .refl _⟩

theorem onPair {f : Pairing → Pairing} (h : n.Retains m) : n.Retains (m.onPair f) := h.trans ⟨⟨rfl, rfl, rfl, rfl⟩, .refl _⟩

theorem onRail {f : Rail → Rail} (hrail : m.rail.Retains (f m.rail)) (h : n.Retains m) : n.Retains (m.onRail f) :=
  h.trans ⟨⟨rfl, rfl, rfl, rfl⟩, hrail⟩

theorem onPos {f : Positions → Positions} (hrows : (f m.pos).view = m.pos.view) (h : n.Retains m) : n.Retains (m.onPos f) :=
  h.trans ⟨⟨rfl, rfl, rfl, hrows⟩, .refl _⟩

theorem hand {q : Kind} {fields : List (Nat × Value)} (h : n.Retains m) : n.Retains (m.hand q fields) := h.onLine.ite h

theorem handRail {x : RailNotice} (h : n.Retains m) : n.Retains (m.handRail x) := by
  refine h.trans ⟨?_, .sameBut (m.handRail_rail x)⟩
  rw [Node.handRail_eq]
  exact ⟨rfl, rfl, rfl, rfl⟩

theorem handPos {x : PosNotice} (h : n.Retains m) : n.Retains (m.handPos x) :=
  h.trans (by rw [Node.handPos_eq]; exact ⟨⟨rfl, rfl, rfl, rfl⟩, .refl _⟩)

theorem reportFault {code : FaultCode} (h : n.Retains m) : n.Retains (m.reportFault code) :=
  h.trans (by rw [Node.reportFault_eq]; exact ⟨⟨rfl, rfl, rfl, rfl⟩, .refl _⟩)

/-! ### Levels and the own exchange (R81, R126, R133, R135) -/

theorem endLevel {i : LevelId} (h : n.Retains m) : n.Retains (m.endLevel i) := by
  have hends := (Node.Converts.refl m).endLevel (i := i)
  exact h.trans ⟨⟨by rw [hends.peers], hends.pres, by rw [hends.mon], by rw [hends.pos]⟩, .sameBut hends.rail⟩

theorem roomTest (h : n.Retains m) : n.Retains m.roomTest := by
  refine h.trans ?_
  rw [Node.roomTest_eq]
  refine ⟨⟨rfl, rfl, rfl, rfl⟩, ?_⟩
  change m.rail.Retains m.roomTest.rail
  unfold Node.roomTest
  split
  · split
    · split
      · rw [Node.handNeed_rail]
        exact ⟨rfl, rfl, rfl, rfl, rfl, id⟩
      · unfold Node.handJoin
        split
        · rw [Node.onRail_rail, Node.handAgree_rail]
          exact ⟨rfl, rfl, rfl, rfl, rfl, id⟩
        · exact .refl _
    · exact .refl _
  · exact .refl _

theorem freedTest (h : n.Retains m) : n.Retains m.freedTest := by
  unfold Node.freedTest
  split
  · exact (h.onRail ⟨rfl, rfl, rfl, rfl, rfl, id⟩).ite h.roomTest
  · exact h

theorem backToWaiting (h : n.Retains m) : n.Retains m.backToWaiting := h.onRail ⟨rfl, rfl, rfl, rfl, rfl, id⟩

theorem releaseOwn {cause : Nat} (h : n.Retains m) : n.Retains (m.releaseOwn cause) := by
  unfold Node.releaseOwn
  split
  next o hown =>
    extract_lets n2
    have h2 : n.Retains n2 := by
      refine h.handRail.onRail ⟨rfl, rfl, rfl, rfl, rfl, fun hnone => ?_⟩
      rw [Node.handRail_eq] at hnone
      cases hown.symm.trans hnone
    exact h2.endLevel.ite h2
  next => exact h

theorem withdrawJoin {release : Bool} (h : n.Retains m) : n.Retains (m.withdrawJoin release) := by
  have hreleased : n.Retains (if release = true then m.releaseOwn causeStop else m) := h.releaseOwn.ite h
  unfold Node.withdrawJoin
  extract_lets n0 n1
  have h1 : n.Retains n1 := by
    change n.Retains (match m.rail.own with | some o => _ | none => _)
    split
    · exact ite (ite ((hreleased.onRail ⟨rfl, rfl, rfl, rfl, rfl, fun _ => rfl⟩).onPos rfl) (hreleased.onRail .map_own)) h
    · exact (h.backToWaiting.onRail ⟨rfl, rfl, rfl, rfl, rfl, id⟩).ite h
  exact (h1.onRail (.dropRequest _)).ite h1

theorem dropOwn {ordinary : Bool} (h : n.Retains m) : n.Retains (m.dropOwn ordinary) := by
  unfold Node.dropOwn
  split
  · exact onRail ⟨rfl, rfl, rfl, rfl, rfl, fun _ => rfl⟩ (h.endLevel.ite h)
  · exact h

/-! ### Seeking and grading (R93, R95, R146-R149) -/

theorem pairReported (h : n.Retains m) : n.Retains m.pairReported :=
  h.trans (by rw [Node.pairReported_eq]; exact ⟨⟨rfl, rfl, rfl, rfl⟩, .refl _⟩)

theorem setPair {s : PairState} (h : n.Retains m) : n.Retains (m.setPair s) := h.ite h.onPair.pairReported

theorem retarget (h : n.Retains m) : n.Retains m.retarget := h.onPair

theorem bar {x : Nat} (h : n.Retains m) : n.Retains (m.bar x) := by
  unfold Node.bar
  split
  · exact h.onPair.retarget
  · exact h

theorem propose {t : Nat} (h : n.Retains m) : n.Retains (m.propose t) := by
  unfold Node.propose
  split
  · exact h.hand.onPair.setPair
  · exact h

theorem seekOn (h : n.Retains m) : n.Retains m.seekOn := by
  unfold Node.seekOn
  split
  · exact h.propose.ite h
  · exact h

theorem testEligible (h : n.Retains m) : n.Retains m.testEligible := by
  unfold Node.testEligible
  split
  · split
    · exact h.setPair.seekOn.ite h
    · exact h.ite h.setPair
    · exact h.ite (setPair h.onPair)
    all_goals exact h
  · exact h

theorem proposalEnds (h : n.Retains m) : n.Retains m.proposalEnds := by
  unfold Node.proposalEnds
  split
  · exact h.propose
  · exact setPair h.onPair

theorem rederive (h : n.Retains m) : n.Retains m.rederive := h.ite (h.setCands.retarget.seekOn.ite h.setCands)

theorem openRest (h : n.Retains m) : n.Retains m.openRest := by
  unfold Node.openRest
  split
  · exact h.onMon rfl
  · exact h

theorem enterRestA (h : n.Retains m) : n.Retains m.enterRestA := h.onGrade.openRest

/-! ### The end of a bond, claims and rounds (R154, R155, R168, R170, R176) -/

theorem endBond {release : Bool} (h : n.Retains m) : n.Retains (m.endBond release) := by
  unfold Node.endBond
  split
  · extract_lets n1 n2
    have hopened : n.Retains ((m.driveContactor false none).bypass none) :=
      h.trans (by rw [m.opens.eq]; exact ⟨⟨rfl, rfl, rfl, m.opens.view⟩, .refl _⟩)
    have h2 : n.Retains n2 := ((hopened.withdrawJoin.onMon rfl).onPos rfl).onPos rfl
    obtain ⟨queue, repeats, hclaims, -⟩ := n2.withdrawClaim_spec m.pos.lead m.pos.partner
    rw [hclaims]
    exact h2.trans ⟨⟨rfl, rfl, rfl, rfl⟩, .refl _⟩
  · exact h

theorem dissolve {cause : Nat} {send release : Bool} (h : n.Retains m) : n.Retains (m.dissolve cause send release) := by
  unfold Node.dissolve
  split
  · split
    · extract_lets n1 n2 n3
      have h2 : n.Retains n2 := onPair (h.hand.ite h)
      have h3 : n.Retains n3 := h2.bar.ite h2
      exact h3.endBond.setPair.testEligible
    · exact h
  · exact h

theorem testBond (h : n.Retains m) : n.Retains m.testBond := by
  unfold Node.testBond
  split
  · exact h.dissolve.ite h
  · exact h

theorem noPosition (h : n.Retains m) : n.Retains m.noPosition := h.dissolve.ite h

theorem chooseClaim (h : n.Retains m) : n.Retains m.chooseClaim := by
  unfold Node.chooseClaim
  extract_lets n1
  have h1 : n.Retains n1 := h.onPos rfl
  split
  · split
    · exact ((h1.onPos rfl).onPos rfl).handPos
    · exact h1.noPosition
  · exact h1.onPos rfl

theorem loseClaim (h : n.Retains m) : n.Retains m.loseClaim := (h.chooseClaim.ite h.noPosition).ite ((h.onPos rfl).onPos rfl)

theorem beginRound (h : n.Retains m) : n.Retains m.beginRound := by
  unfold Node.beginRound
  split
  · exact ((h.onPos rfl).onPos rfl).onMon rfl
  · exact h

theorem joinEnded {ordinary : Bool} (h : n.Retains m) : n.Retains (m.joinEnded ordinary) := by
  unfold Node.joinEnded Node.countAttempt
  have h1 : n.Retains (m.onPos fun q => { q with liveTimer := none }) := h.onPos rfl
  exact (h1.beginRound.ite ((h1.onPos rfl).dissolve.reportFault.ite (h1.onPos rfl).beginRound)).ite h1

theorem ownLeft {ordinary : Bool} (h : n.Retains m) : n.Retains (m.ownLeft ordinary) := by
  unfold Node.ownLeft
  split
  · exact h.ite (((h.dropOwn.onPos rfl).ite h.dropOwn.joinEnded).ite h.dropOwn)
  · exact h

theorem pairRemoval {a : Nat} (h : n.Retains m) : n.Retains (m.pairRemoval a) := h.dissolve.ite (h.proposalEnds.ite h)

theorem pairPresence {src : Nat} {p : PresenceNotice} (h : n.Retains m) : n.Retains (m.pairPresence src p) :=
  (h.onPair.dissolve.ite h.onPair).ite h

/-! ### Publication and completions (R95, R98-R105, R136) -/

theorem publish {r : Record} (h : n.Retains m) : n.Retains (m.publish r) :=
  h.onGrade.hand.onGrade.rederive.testBond.testEligible

theorem beginRequest {q : Request} (h : n.Retains m) : n.Retains (m.beginRequest q) := by
  have h1 : n.Retains (m.onRail fun r => { r with request := some q }) := h.onRail ⟨rfl, rfl, rfl, rfl, rfl, id⟩
  exact h1.backToWaiting.roomTest.ite h1

theorem failAttempt (h : n.Retains m) : n.Retains m.failAttempt :=
  h.onGrade.enterRestA.ite h.onGrade.onGrade.testEligible.reportFault.publish

theorem testDone {ordinary : Bool} (h : n.Retains m) : n.Retains (m.testDone ordinary) := (h.onGrade.openRest.ite h.failAttempt).ite h

theorem enterCapTest (h : n.Retains m) : n.Retains m.enterCapTest := by
  unfold Node.enterCapTest
  split
  · exact h.onGrade.beginRequest
  · exact h

theorem pulseDone {x : Completion} (h : n.Retains m) : n.Retains (m.pulseDone x) := by
  unfold Node.pulseDone
  refine ite ?_ h
  split
  · exact h.onGrade.enterCapTest.ite h.enterRestA
  · exact h.enterRestA

theorem testStopped {exchange : Option Nat} (h : n.Retains m) : n.Retains (m.testStopped exchange) := by
  have htaken : m.rail.Retains (m.rail.testTaken exchange) := by
    unfold Rail.testTaken
    split
    · exact Rail.Retains.map_own (f := fun o => { o with dropped := true }) |>.trans ⟨rfl, rfl, rfl, rfl, rfl, id⟩
    · exact ⟨rfl, rfl, rfl, rfl, rfl, id⟩
  exact (h.onRail (f := fun r => r.testTaken exchange) htaken).testDone.ite h

theorem takeCompletion {x : Completion} (h : n.Retains m) : n.Retains (m.takeCompletion x) := by
  unfold Node.takeCompletion
  split
  · exact h.pulseDone
  · exact h.testStopped
  · exact h.testStopped
  · exact h.onRail ⟨rfl, rfl, rfl, rfl, rfl, id⟩
  all_goals exact h

theorem settleTest (h : n.Retains m) : n.Retains m.settleTest := by
  unfold Node.settleTest
  split
  · exact (h.onRail ⟨rfl, rfl, rfl, rfl, rfl, id⟩).testDone.ite h
  · exact h

/-- The end of a step retains what its completions do. -/
theorem conclude {before : Node} (h : n.Retains m) : n.Retains (m.conclude before) := by
  rw [Node.conclude_eq]
  exact ((foldl (fun _ _ hk => hk.takeCompletion) h).settleTest.onDuty (f := fun d => { d with reports := [] })).onLine
    (f := fun l => { l with queue := (m.conclude before).line.queue })

end Node.Retains
end Sys2Proof.Machine
end

section
/-! PROOFS. The removal of a peer's entry (R53-R55, R123, R154, R167): what the Rail Allocator, the Position Manager, the candidate list
and the Pairing Engine make of it. -/

namespace Sys2Proof.Machine

/-! ### A bond that stands or ends with the own exchange (R136, R154, R172) -/

/-- The node has no partner and is UNPAIRED, SEEKING or PROPOSING: what the end of a bond leaves. -/
structure Node.Single (n : Node) : Prop where
  partner : n.pair.partner = none
  state : n.pair.state.single

/-- The Pairing Engine stands, or its bond has ended. -/
def Node.PairStands (n m : Node) : Prop := m.pair = n.pair ∨ m.Single

theorem Node.Single.seeks {n m : Node} (h : n.Single) (hm : n.Seeks m) : m.Single := ⟨hm.partner.trans h.partner, hm.single h.state⟩

theorem Node.Single.bondGraded {n : Node} (h : n.Single) : n.BondGraded := fun hbonded => by
  simp [Node.not_bonded_of_single h.state] at hbonded

/-- The end of a step brings no partner. -/
theorem Node.Single.conclude {n : Node} (h : n.Single) (before : Node) : (n.conclude before).Single := by
  have hreports := Node.takeCompletions_reports h.bondGraded
  exact ⟨by rw [Node.conclude_pair, hreports.partner, h.partner], by rw [Node.conclude_pair]; exact hreports.single h.state⟩

theorem Node.not_single_of_bonded {n : Node} (h : n.bonded = true) : ¬n.pair.state.single := fun hs => by
  rw [Node.not_bonded_of_single hs] at h
  cases h

/-- Seeking leaves a bond. -/
theorem Node.Seeks.bond {n m : Node} (h : n.Seeks m) (hbonded : n.bonded = true) :
    m.bonded = true ∧ m.pair.partner = n.pair.partner := by
  refine ⟨?_, h.partner⟩
  rw [Node.bonded, h.state_of_not_single (Node.not_single_of_bonded hbonded)]
  exact hbonded

theorem Node.dissolve_single {n : Node} {x : Nat} (hbonded : n.bonded = true) (hpartner : n.pair.partner = some x) (cause : Nat)
    (send release : Bool) : (n.dissolve cause send release).Single := by
  have hdissolved := Node.dissolve_dissolves hbonded hpartner cause send release
  exact ⟨hdissolved.partner, hdissolved.state⟩

theorem Node.dissolve_pairStands (n : Node) (cause : Nat) (send release : Bool) : n.PairStands (n.dissolve cause send release) := by
  cases hbonded : n.bonded with
  | false => exact .inl (by rw [Node.dissolve_of_not_bonded hbonded])
  | true =>
    cases hpartner : n.pair.partner with
    | none =>
      refine .inl ?_
      unfold Node.dissolve
      rw [hpartner]
    | some x => exact .inr (Node.dissolve_single hbonded hpartner cause send release)

/-- R172: the end of a JOIN ends the bond where the equalization failed for the third time. -/
theorem Node.joinEnded_pairStands (n : Node) (ordinary : Bool) : n.PairStands (n.joinEnded ordinary) := by
  have hround (k : Node) (hk : k.pair = n.pair) : n.PairStands k.beginRound := .inl (by rw [Node.beginRound_eq]; exact hk)
  unfold Node.joinEnded
  extract_lets n1
  split
  · split
    · exact hround n1 rfl
    · unfold Node.countAttempt
      extract_lets n2
      split
      · unfold Node.equalizeFail
        rw [Node.reportFault_eq]
        exact (n2.dissolve_pairStands unbindEqualize true true).imp_right fun h => ⟨h.partner, h.state⟩
      · exact hround n2 rfl
  · exact .inl rfl

theorem Node.ownLeft_pairStands (n : Node) (ordinary : Bool) : n.PairStands (n.ownLeft ordinary) := by
  unfold Node.ownLeft
  split
  next o hown =>
    have hpair : (n.dropOwn ordinary).pair = n.pair := (Node.dropOwn_leaves hown ordinary).2.2.2.1
    have hended := (n.dropOwn ordinary).joinEnded_pairStands ordinary
    rw [Node.PairStands, hpair] at hended
    split
    · exact .inl rfl
    · split
      · split
        · exact .inl hpair
        · exact hended
      · exact .inl hpair
  next => exact .inl rfl

/-! ### The Rail Allocator (R123, R124) -/

/-- R124: a view that becomes certain changes the rail block and the transmit queue alone, and no record of the view. -/
theorem Node.certainIfHeard_leaves (n : Node) :
    n.Leaves n.certainIfHeard ∧ n.certainIfHeard.rail.view = n.rail.view ∧ n.certainIfHeard.pair = n.pair := by
  unfold Node.certainIfHeard
  split
  · have htested := (Node.Retains.refl (n.onRail fun r => { r with certain := true, boot := false, heardSince := [], certainTimer := none })).roomTest
    refine ⟨⟨htested.entries, htested.pres, htested.now, htested.rows⟩, htested.rail.view, ?_⟩
    rw [Node.makeCertain, Node.roomTest_eq]
    rfl
  · exact ⟨⟨rfl, rfl, rfl, rfl⟩, rfl, rfl⟩

/-- R123: the exchanges of the peer leave the view, and with the own one a bond may end. -/
theorem Node.railRemoval_spec (n : Node) (a : Nat) : n.Leaves (n.railRemoval a)
    ∧ (n.railRemoval a).rail.view = n.rail.view.filter (fun e => !(e.initiator == a || e.counterpart == a))
    ∧ n.PairStands (n.railRemoval a) := by
  unfold Node.railRemoval
  split
  · let v := n.rail.view.filter fun e => !e.has a
    have hfreed := (Node.Retains.refl (n.setRail v)).ownLeft (ordinary := false) |>.freedTest
    obtain ⟨hleaves, hview, hpair⟩ := (n.freeRail v false).certainIfHeard_leaves
    refine ⟨((⟨rfl, rfl, rfl, rfl⟩ : n.Leaves (n.setRail v)).trans hfreed.toLeaves).trans hleaves, hview.trans hfreed.rail.view, ?_⟩
    have hstands := (n.setRail v).ownLeft_pairStands false
    have hretries : (n.freeRail v false).pair = ((n.setRail v).ownLeft false).pair := by
      rw [Node.freeRail, ((n.setRail v).ownLeft false).freedTest_retries.eq]
    have hlast := hpair.trans hretries
    exact hstands.imp hlast.trans fun h => ⟨hlast ▸ h.partner, hlast ▸ h.state⟩
  next hnone =>
    obtain ⟨hleaves, hview, hpair⟩ := n.certainIfHeard_leaves
    refine ⟨hleaves, hview.trans (List.filter_eq_self.2 fun e he => ?_).symm, .inl hpair⟩
    rw [Bool.not_eq_true']
    exact Bool.eq_false_of_not_eq_true fun hparty => hnone (List.any_eq_true.2 ⟨e, he, hparty⟩)

/-! ### Row view and bond (R154, R167) -/

/-- R165: a change of the row view leaves the other tables. -/
theorem Node.setView_retains (n : Node) (v : List PosRecord) : (n.onPos fun q => { q with view := some v }).Retains (n.setView v) :=
  (Node.Retains.refl _).ite (Node.Retains.refl _).testEligible

/-- The row view after the removal of a peer's entry. -/
def Node.viewShed (n : Node) (a : Nat) : Node := n.onPos fun q => { q with view := q.view.map fun v => takeRemoval v a }

/-- R167: the claims that the peer leads are freed; the Pairing Engine hears of a FREE record. -/
theorem Node.posRemoval_spec (n : Node) (a : Nat) :
    (n.viewShed a).Retains (n.posRemoval a) ∧ (n.viewShed a).Seeks (n.posRemoval a) := by
  have hshed : n.viewShed a = n.onPos fun q => { q with view := n.pos.view.map fun v => takeRemoval v a } := rfl
  rw [hshed]
  unfold Node.posRemoval
  cases hview : n.pos.view with
  | none =>
    have hsame : (n.onPos fun q => { q with view := none }) = n := by
      unfold Node.onPos
      rw [← hview]
    rw [Option.map_none, hsame]
    exact ⟨.refl n, .refl n⟩
  | some v => exact ⟨n.setView_retains _, n.setView_seeks _⟩

/-- R149: a proposal ended is work of seeking. -/
theorem Node.proposalEnds_seeks {n : Node} (h : n.pair.state = .proposing) : n.Seeks n.proposalEnds := by
  unfold Node.proposalEnds
  split
  · exact (Node.Seeks.refl n).propose (.inr (.inr h))
  · exact (Node.Seeks.refl n).endProposal.setPair (.inr (.inr h)) (.inr (.inl rfl))

/-- R154: the bond with the peer removed ends. -/
theorem Node.pairRemoval_single {n : Node} {a : Nat} (h : n.Single ∨ n.bonded = true ∧ n.pair.partner = some a) :
    (n.pairRemoval a).Single := by
  unfold Node.pairRemoval
  rcases h with hsingle | hbond
  · rw [if_neg fun hbond => by rw [Node.not_bonded_of_single hsingle.state] at hbond; cases hbond.1]
    split
    next hproposing => exact hsingle.seeks (Node.proposalEnds_seeks hproposing.1)
    next => exact hsingle
  · rw [if_pos hbond]
    exact Node.dissolve_single hbond.1 hbond.2 _ _ _

/-! ### The removal -/

/-- The node without the entry of this address. -/
def Node.dropEntry (n : Node) (a : Nat) : Node := n.onPeers fun t => { t with entries := t.entries.filter fun e => e.address != a }

theorem Node.removePeer_eq (n : Node) (a : Nat) :
    n.removePeer a = ((((n.dropEntry a).railRemoval a).posRemoval a).rederive).pairRemoval a := rfl

theorem Node.dropEntry_peer (n : Node) (a b : Nat) : (n.dropEntry a).peer b = if b = a then none else n.peer b := by
  change (n.peers.entries.filter fun e => e.address != a).find? (fun e => e.address == b) = _
  rw [List.find?_filter]
  split
  next hsame => exact List.find?_eq_none.2 fun e _ => by simp [hsame]
  next hother =>
    refine congrArg (List.find? · n.peers.entries) (funext fun e => ?_)
    by_cases haddress : e.address = b <;> simp [haddress, hother]

/-- R55, R123, R167: the tables after a removal. -/
theorem Node.removePeer_tables (n : Node) (a : Nat) (before : Node) :
    let m := (n.removePeer a).conclude before
    (∀ b, m.peer b = if b = a then none else n.peer b) ∧ m.pres = n.pres
      ∧ m.rail.view = n.rail.view.filter (fun e => !(e.initiator == a || e.counterpart == a))
      ∧ m.pos.view = n.pos.view.map fun v => takeRemoval v a := by
  intro m
  obtain ⟨hrail, hview, -⟩ := (n.dropEntry a).railRemoval_spec a
  have hlast : (((n.dropEntry a).railRemoval a).viewShed a).Retains m :=
    (((n.dropEntry a).railRemoval a).posRemoval_spec a).1.rederive.pairRemoval.conclude
  refine ⟨fun b => ?_, hlast.pres.trans hrail.pres, hlast.rail.view.trans hview, hlast.rows.trans ?_⟩
  · rw [hlast.peer, ← n.dropEntry_peer, ← hrail.peer]
    rfl
  · exact congrArg (Option.map fun v => takeRemoval v a) hrail.rows

/-- R154: with the entry of the partner the bond goes. -/
theorem Node.removePeer_single {n : Node} {a : Nat} (hbonded : n.bonded = true) (hpartner : n.pair.partner = some a) (before : Node) :
    ((n.removePeer a).conclude before).Single := by
  obtain ⟨-, -, hpair⟩ := (n.dropEntry a).railRemoval_spec a
  have hseeks := (((n.dropEntry a).railRemoval a).posRemoval_spec a).2.rederive
  rw [Node.removePeer_eq]
  refine (Node.pairRemoval_single ?_).conclude before
  rcases hpair with hstands | hended
  · have hsame : (((n.dropEntry a).railRemoval a).viewShed a).pair = n.pair := hstands
    obtain ⟨hbonded', hpartner'⟩ := hseeks.bond (by rw [Node.bonded, hsame]; exact hbonded)
    exact .inr ⟨hbonded', hpartner'.trans (by rw [hsame]; exact hpartner)⟩
  · exact .inl (Node.Single.seeks (n := ((n.dropEntry a).railRemoval a).viewShed a) ⟨hended.partner, hended.state⟩ hseeks)

/-- Settles O18: the tables without the peer, and the bond with it ended. -/
theorem entryExpiresRemovesPeer : Obligations.EntryExpiresRemovesPeer := by
  intro n w a hsettled hlive hplan hentry
  have hremoved : n.entryExpires a = n.removePeer a := if_pos ⟨hlive, hplan, hentry⟩
  obtain ⟨hpeer, hpres, hview, hrows⟩ := n.removePeer_tables a n
  refine ⟨(n.removePeer a).conclude n, State.act_eq (f := fun n => n.entryExpires a) (by rw [hremoved]), ?_, fun b hb => ?_, hview, hrows,
    fun hbonded hpartner => ?_, hpres⟩
  · rw [hpeer, if_pos rfl]
  · rw [hpeer, if_neg hb]
  · have hsingle := Node.removePeer_single hbonded hpartner n
    exact ⟨hsingle.partner, hsingle.state⟩

end Sys2Proof.Machine
end

section
/-! PROOFS. The candidate list (R56-R58) and the mismatch score (R147), said by the words of the manual. -/

namespace Sys2Proof.Machine

/-! ### The mismatch score (R147) -/

/-- R147: the component by its words. -/
theorem scoreComponent_eq (a b : Nat) : scoreComponent a b = scorePart a b := by
  have hzero : max a b = 0 ↔ a = 0 ∧ b = 0 := by omega
  have hdifference : ((a : Int) - b).natAbs = max a b - min a b := by omega
  simp only [scoreComponent, scorePart, hzero, hdifference]
  push_cast
  rfl

/-- A component of the score is at most 1000. -/
theorem scorePart_le (a b : Nat) : scorePart a b ≤ 1000 := by
  unfold scorePart
  split
  · omega
  next hne =>
    have hden : 0 < max a b := by omega
    have hnum : ((1000 * (max a b - min a b) : Nat) : Int) ≤ 1000 * (max a b : Nat) := by omega
    have hlow := (roundHalfUp_bounds (num := ((1000 * (max a b - min a b) : Nat) : Int)) (by omega) hden).1
    by_contra hmore
    have hround : (1001 : Int) ≤ roundHalfUp ((1000 * (max a b - min a b) : Nat) : Int) (max a b) := by omega
    have hproduct : (1001 : Int) * (max a b : Nat) ≤ roundHalfUp ((1000 * (max a b - min a b) : Nat) : Int) (max a b) * (max a b : Nat) :=
      Int.mul_le_mul_of_nonneg_right hround (by omega)
    omega

/-- The score of the plan's weights keeps within the digits of its figure. -/
theorem formFig_sco_mag {score : Nat} (h : score ≤ 99999) : (formFig .sco (score : Int)).mag = score := by
  have hfits : ¬FigKind.sco.top < (score : Int).natAbs := by
    have htop : FigKind.sco.top = 99999 := rfl
    omega
  have hsign : ¬(FigKind.sco.signed = false ∧ (score : Int) < 0) := by omega
  have hkind : ¬(FigKind.sco = .soc ∧ 10000 < (score : Int)) := nofun
  by_cases hzero : (score : Int) = 0
  · rw [formFig, if_pos hzero]
    change 0 = score
    omega
  · rw [formFig, if_neg hzero, if_neg hsign, if_neg hkind, if_neg hfits]
    exact Int.natAbs_natCast score

/-- The score of a node's published record against a peer's held one (R147). -/
theorem Node.scoreOf_eq_some_iff {n : Node} {p : Plan} {e : Peer} {s : Fig} : n.scoreOf p e = some s ↔
    ∃ c d, n.grade.published.cap = some c ∧ n.grade.published.res = some d ∧ ∃ c' d', e.cap = some c' ∧ e.res = some d'
      ∧ s = formFig .sco ((p.wQ * scorePart c.mag c'.mag + p.wR * scorePart d.mag d'.mag : Nat) : Int) := by
  simp only [Node.scoreOf, Record.figures, mismatch, scoreComponent_eq]
  cases n.grade.published.cap <;> cases n.grade.published.res <;> cases e.cap <;> cases e.res <;> simp [eq_comm]

theorem score_le {wQ wR : Nat} (hQ : wQ ≤ 15) (hR : wR ≤ 15) (a b c d : Nat) :
    wQ * scorePart a b + wR * scorePart c d ≤ 99999 := by
  have h1 := Nat.mul_le_mul hQ (scorePart_le a b)
  have h2 := Nat.mul_le_mul hR (scorePart_le c d)
  omega

/-! ### The candidate tests (R57, R155) -/

theorem Class.pairs_iff (x : Class) : x.pairs = true ↔ x = .a ∨ x = .b ∨ x = .c := by simp [Class.pairs, or_assoc]

theorem classGap_eq (x y : Class) : classGap x y = max x.code y.code - min x.code y.code := by unfold classGap; omega

/-- R57, R155: the tests that candidate list and bond share hold with one score, that of R147. -/
theorem Node.matched_iff {n : Node} {p : Plan} (hQ : p.wQ ≤ 15) (hR : p.wR ≤ 15) (e : Peer) : n.matched p e = true ↔
    ∃ score : Nat, n.matchesWith p e score ∧ n.scoreOf p e = some (formFig .sco (score : Int)) := by
  cases hs : n.scoreOf p e with
  | none => simp [Node.matched, hs]
  | some s =>
    obtain ⟨c, d, hc, hd, c', d', hc', hd', rfl⟩ := Node.scoreOf_eq_some_iff.1 hs
    simp only [Node.matched, hs, Bool.and_eq_true, Class.pairs_iff, classGap_eq, decide_eq_true_iff, beq_iff_eq,
      formFig_sco_mag (score_le hQ hR c.mag c'.mag d.mag d'.mag)]
    constructor
    · rintro ⟨⟨⟨⟨⟨hown, hpeer⟩, hsome⟩, hprofile⟩, hgap⟩, hlimit⟩
      exact ⟨_, ⟨⟨c, d, hc, hd, c', d', hc', hd', rfl⟩, hown, hpeer, hgap, hsome, hprofile, hlimit⟩, rfl⟩
    · rintro ⟨score, ⟨⟨c₁, d₁, hc₁, hd₁, c₁', d₁', hc₁', hd₁', rfl⟩, hown, hpeer, hgap, hsome, hprofile, hlimit⟩, -⟩
      obtain ⟨rfl, rfl⟩ : c = c₁ ∧ d = d₁ := ⟨Option.some.inj (hc.symm.trans hc₁), Option.some.inj (hd.symm.trans hd₁)⟩
      obtain ⟨rfl, rfl⟩ : c' = c₁' ∧ d' = d₁' := ⟨Option.some.inj (hc'.symm.trans hc₁'), Option.some.inj (hd'.symm.trans hd₁')⟩
      exact ⟨⟨⟨⟨⟨hown, hpeer⟩, hsome⟩, hprofile⟩, hgap⟩, hlimit⟩

/-- R57: every test of a candidate of the node's own table. -/
theorem Node.isCandidate_iff {n : Node} {p : Plan} (hplan : n.pres.plan = some p) {e : Peer} (hlow : 1 ≤ e.address)
    (hhigh : e.address ≤ 48) : n.isCandidate p e = true ↔ n.wouldTake p e ∧ n.matched p e = true := by
  have hrow : n.ownRow e.address = true ↔ (e.address - 1) / p.rowLength = (n.address - 1) / p.rowLength := by
    simp [Node.ownRow, hplan, hlow, hhigh, Plan.row]
  simp only [Node.isCandidate, Bool.and_eq_true, Bool.or_eq_true, hrow, decide_eq_true_iff, beq_iff_eq]
  constructor
  · rintro ⟨⟨⟨⟨⟨⟨⟨hroster, hrow⟩, hheld⟩, hannounced⟩, hmatched⟩, hpair⟩, hnode⟩, hgrade⟩
    exact ⟨⟨hroster, hrow, hheld, hannounced, hnode, hpair, hgrade⟩, hmatched⟩
  · rintro ⟨⟨hroster, hrow, hheld, hannounced, hnode, hpair, hgrade⟩, hmatched⟩
    exact ⟨⟨⟨⟨⟨⟨⟨hroster, hrow⟩, hheld⟩, hannounced⟩, hmatched⟩, hpair⟩, hnode⟩, hgrade⟩

/-! ### The order of the list (R58) -/

/-- Candidates by rising score, and by rising address among equal scores (R58). -/
def candBefore (x y : Nat × Fig) : Prop := x.2.mag < y.2.mag ∨ (x.2.mag = y.2.mag ∧ x.1 < y.1)

theorem mem_insertCand {c x : Nat × Fig} {l : List (Nat × Fig)} : x ∈ insertCand c l ↔ x = c ∨ x ∈ l := by
  induction l with
  | nil => simp [insertCand]
  | cons y ys ih =>
    rw [insertCand]
    split
    · rw [List.mem_cons, ih, List.mem_cons, or_left_comm]
    · rw [List.mem_cons]

/-- A candidate of a new address placed keeps the order. -/
theorem insertCand_sorted {c : Nat × Fig} {l : List (Nat × Fig)} (h : l.Pairwise candBefore) (hnew : ∀ x ∈ l, x.1 ≠ c.1) :
    (insertCand c l).Pairwise candBefore := by
  induction l with
  | nil => simp [insertCand]
  | cons y ys ih =>
    obtain ⟨hfirst, hrest⟩ := List.pairwise_cons.1 h
    rw [insertCand]
    split
    next hbefore =>
      refine List.pairwise_cons.2 ⟨fun x hx => ?_, ih hrest fun x hx => hnew x (.tail _ hx)⟩
      rcases mem_insertCand.1 hx with rfl | hx
      · exact hbefore
      · exact hfirst x hx
    next hafter =>
      have hcy : candBefore c y := by
        have hne := hnew y (.head _)
        unfold candBefore
        omega
      refine List.pairwise_cons.2 ⟨fun x hx => ?_, h⟩
      rcases List.mem_cons.1 hx with rfl | hx
      · exact hcy
      · have hyx := hfirst x hx
        unfold candBefore at hcy hyx ⊢
        omega

/-- R57, R58: the candidates are the entries that pass every test, each with its score. -/
theorem Node.mem_candsOf {n : Node} {p : Plan} {l : List Peer} {a : Nat} {s : Fig} : (a, s) ∈ n.candsOf p l ↔
    ∃ e ∈ l, e.address = a ∧ n.isCandidate p e = true ∧ n.scoreOf p e = some s := by
  induction l with
  | nil => simp [Node.candsOf]
  | cons e es ih =>
    have hskip (hnot : ¬(n.isCandidate p e = true ∧ ∃ t, n.scoreOf p e = some t)) : (a, s) ∈ n.candsOf p es ↔
        ∃ x ∈ e :: es, x.address = a ∧ n.isCandidate p x = true ∧ n.scoreOf p x = some s := by
      rw [ih]
      constructor
      · rintro ⟨x, hx, hcand⟩
        exact ⟨x, .tail _ hx, hcand⟩
      · rintro ⟨x, hx, haddress, hcand, hscore⟩
        rcases List.mem_cons.1 hx with rfl | hx
        · exact absurd ⟨hcand, s, hscore⟩ hnot
        · exact ⟨x, hx, haddress, hcand, hscore⟩
    rw [Node.candsOf]
    split
    next hcand =>
      split
      next t ht =>
        rw [mem_insertCand, ih]
        constructor
        · rintro (heq | ⟨x, hx, hrest⟩)
          · obtain ⟨rfl, rfl⟩ := Prod.mk.inj heq
            exact ⟨e, .head _, rfl, hcand, ht⟩
          · exact ⟨x, .tail _ hx, hrest⟩
        · rintro ⟨x, hx, rfl, hxcand, hscore⟩
          rcases List.mem_cons.1 hx with rfl | hx
          · exact .inl (by rw [Option.some.inj (ht.symm.trans hscore)])
          · exact .inr ⟨x, hx, rfl, hxcand, hscore⟩
      next hnone => exact hskip fun ⟨_, t, ht⟩ => by cases hnone.symm.trans ht
    next hnot => exact hskip fun hcand => hnot hcand.1

theorem Node.candsOf_sorted (n : Node) (p : Plan) {l : List Peer} (h : l.Pairwise fun e f => e.address < f.address) :
    (n.candsOf p l).Pairwise candBefore := by
  induction l with
  | nil => exact .nil
  | cons e es ih =>
    obtain ⟨hfirst, hrest⟩ := List.pairwise_cons.1 h
    rw [Node.candsOf]
    split
    · split
      · refine insertCand_sorted (ih hrest) fun x hx => ?_
        obtain ⟨y, hy, haddress, -⟩ := Node.mem_candsOf.1 hx
        have habove := hfirst y hy
        dsimp only
        omega
      · exact ih hrest
    · exact ih hrest

/-! ### The list as derived (R56) -/

/-- R48: under the table's law the entry of an address is the one that the table holds under it. -/
theorem Node.peer_eq_some_iff {n : Node} (h : n.PeerLaw) {a : Nat} {e : Peer} :
    n.peer a = some e ↔ e ∈ n.peers.entries ∧ e.address = a := by
  have hdistinct : ∀ {l : List Peer}, l.Pairwise (fun e f => e.address < f.address) →
      (l.find? (fun x => x.address == a) = some e ↔ e ∈ l ∧ e.address = a) := by
    intro l hl
    induction l with
    | nil => simp
    | cons y ys ih =>
      obtain ⟨hfirst, hrest⟩ := List.pairwise_cons.1 hl
      by_cases hy : y.address = a
      · rw [List.find?_cons_of_pos (by simpa using hy)]
        constructor
        · rintro ⟨⟩
          exact ⟨.head _, hy⟩
        · rintro ⟨he, haddress⟩
          rcases List.mem_cons.1 he with rfl | he
          · rfl
          · have habove := hfirst e he
            omega
      · rw [List.find?_cons_of_neg (by simpa using hy), ih hrest]
        constructor
        · exact fun ⟨he, haddress⟩ => ⟨.tail _ he, haddress⟩
        · rintro ⟨he, haddress⟩
          rcases List.mem_cons.1 he with rfl | he
          · exact absurd haddress hy
          · exact ⟨he, haddress⟩
  exact hdistinct h.1

/-- R56: without plan, ACTIVE or a published grade that pairs, the list is empty. -/
theorem Node.derive_of_unfit {n : Node} (h : n.pres.plan = none ∨ n.pres.state ≠ .active ∨ n.grade.published.cap = none
    ∨ n.grade.published.res = none ∨ n.grade.published.cls = .none ∨ n.grade.published.cls = .reject) : n.derive = [] := by
  unfold Node.derive
  split
  next p hplan =>
    rw [if_neg]
    rintro ⟨hactive, hfigures⟩
    rcases h with h | h | h | h | h | h
    · cases hplan.symm.trans h
    · exact h (by simpa [Node.active] using hactive)
    all_goals simp [Node.ownFigures, Record.figures, Class.pairs, h] at hfigures
  next => rfl

/-- R56: an ACTIVE node with a plan takes its candidates from its table. -/
theorem Node.mem_derive {n : Node} {p : Plan} (hplan : n.pres.plan = some p) (hactive : n.pres.state = .active) (hQ : p.wQ ≤ 15)
    (hR : p.wR ≤ 15) (hlaw : n.PeerLaw) (a : Nat) (s : Fig) : (a, s) ∈ n.derive ↔
      ∃ x score, n.peer a = some x ∧ n.wouldTake p x ∧ n.matchesWith p x score ∧ s = formFig .sco (score : Int) := by
  have hcands : (a, s) ∈ n.candsOf p n.peers.entries ↔
      ∃ x score, n.peer a = some x ∧ n.wouldTake p x ∧ n.matchesWith p x score ∧ s = formFig .sco (score : Int) := by
    rw [Node.mem_candsOf]
    constructor
    · rintro ⟨e, he, haddress, hcand, hscore⟩
      obtain ⟨hlow, hhigh, -⟩ := hlaw.2 e he
      obtain ⟨htake, hmatched⟩ := (Node.isCandidate_iff hplan hlow hhigh).1 hcand
      obtain ⟨score, hmatches, hformed⟩ := (Node.matched_iff hQ hR e).1 hmatched
      exact ⟨e, score, (Node.peer_eq_some_iff hlaw).2 ⟨he, haddress⟩, htake, hmatches, Option.some.inj (hscore.symm.trans hformed)⟩
    · rintro ⟨e, score, hpeer, htake, hmatches, rfl⟩
      obtain ⟨he, haddress⟩ := (Node.peer_eq_some_iff hlaw).1 hpeer
      obtain ⟨hlow, hhigh, -⟩ := hlaw.2 e he
      obtain ⟨c, d, hc, hd, c', d', hc', hd', hscore⟩ := hmatches.1
      have hformed : n.scoreOf p e = some (formFig .sco (score : Int)) :=
        Node.scoreOf_eq_some_iff.2 ⟨c, d, hc, hd, c', d', hc', hd', by rw [hscore]⟩
      exact ⟨e, he, haddress, (Node.isCandidate_iff hplan hlow hhigh).2 ⟨htake, (Node.matched_iff hQ hR e).2 ⟨score, hmatches, hformed⟩⟩,
        hformed⟩
  unfold Node.derive
  rw [hplan]
  dsimp only
  split
  · exact hcands
  next hunfit =>
    refine ⟨nofun, fun ⟨x, score, hpeer, htake, hmatches, hs⟩ => absurd ⟨by simp [Node.active, hactive], ?_⟩ hunfit⟩
    obtain ⟨⟨c, d, hc, hd, -⟩, hcls, -⟩ := hmatches
    simp [Node.ownFigures, (Class.pairs_iff _).2 hcls, Record.figures, hc, hd]

theorem Node.derive_sorted {n : Node} (hlaw : n.PeerLaw) : n.derive.Pairwise candBefore := by
  unfold Node.derive
  split
  · split
    · exact n.candsOf_sorted _ hlaw.1
    · exact .nil
  · exact .nil

end Sys2Proof.Machine
end

section
/-! PROOFS. GRADE of a peer (R48, R51, R56-R58, R147, R155): its entry, the candidate list, and the bond test. -/

namespace Sys2Proof.Machine

/-! ### What a notice of a peer does before the Peer Table takes it -/

/-- The line is BUSY and the silence timers have restarted (R20, R139, R159). -/
def Node.noticed (n : Node) (src : Nat) : Node := (n.lineBusy.railNote src).pairNote src

theorem Node.noticed_eq (n : Node) (src : Nat) : ∃ railTimer silent pairTimer, n.noticed src = { n with
    line := { n.line with state := .busy }
    rail := { n.rail with silenceTimer := railTimer }
    pair := { n.pair with silent := silent, silenceTimer := pairTimer } } := by
  have hnoted (m : Node) : ∃ silent pairTimer, m.pairNote src = { m with
      pair := { m.pair with silent := silent, silenceTimer := pairTimer } } := by
    unfold Node.pairNote Node.startSilence
    split
    · split <;> exact ⟨_, _, rfl⟩
    · exact ⟨_, _, rfl⟩
  obtain ⟨silent, pairTimer, heq⟩ := hnoted (n.lineBusy.railNote src)
  exact ⟨(n.lineBusy.railNote src).rail.silenceTimer, silent, pairTimer, by rw [Node.noticed, heq, Node.railNote_eq]; rfl⟩

/-- R29: PRESENCE and GRADE come from the nodes of the rack alone. -/
theorem Node.hears.source {n : Node} {k : Kind} {h : Heard} {x : Notice} (hheard : n.hears k h x) (hk : k = .presence ∨ k = .grade) :
    1 ≤ h.source ∧ h.source ≤ 48 := by
  have hcome := (decode_spec hheard.2.2.2).1
  rcases hk with rfl | rfl <;> simpa [Kind.mayCome] using hcome

/-! ### The entry stored (R48) -/

theorem Node.putPeer_peer (n : Node) (e : Peer) (a : Nat) : (n.putPeer e).peer a = if a = e.address then some e else n.peer a := by
  split
  next h => rw [h]; exact find_insertPeer e n.peers.entries
  next h => exact find_insertPeer_other h n.peers.entries

theorem Node.putPeer_peerLaw {n : Node} {e : Peer} (h : n.PeerLaw) (hlow : 1 ≤ e.address) (hhigh : e.address ≤ 48)
    (hother : e.address ≠ n.address) : (n.putPeer e).PeerLaw :=
  (Node.Works.start.putPeer (.inr ⟨hlow, hhigh, hother⟩)).peerLaw h

/-! ### The candidate list and the grade at the end of a bond -/

/-- The grade state of a node that may seek or be bonded (R146). -/
abbrev Node.Graded (n : Node) : Prop := n.grade.state = .graded ∨ n.grade.state = .selfRest

/-- The candidate list stands, and a graded node is graded still: what the end of a bond leaves (R154, R155). -/
structure Node.Lists (n m : Node) : Prop where
  cands : m.peers.cands = n.peers.cands
  graded : n.Graded → m.Graded

namespace Node.Lists

variable {n m : Node}

theorem refl (n : Node) : n.Lists n := ⟨rfl, id⟩

theorem trans {k : Node} (h : n.Lists m) (hk : m.Lists k) : n.Lists k := ⟨hk.cands.trans h.cands, hk.graded ∘ h.graded⟩

theorem ite {p : Prop} [Decidable p] {a b : Node} (ha : n.Lists a) (hb : n.Lists b) : n.Lists (if p then a else b) := by
  split
  · exact ha
  · exact hb

theorem onPair {f : Pairing → Pairing} (h : n.Lists m) : n.Lists (m.onPair f) := h.trans ⟨rfl, id⟩

theorem hand {k : Kind} {fields : List (Nat × Value)} (h : n.Lists m) : n.Lists (m.hand k fields) :=
  h.trans ⟨by rw [Node.hand_peers], fun hm => by rwa [Node.Graded, Node.hand_grade]⟩

/-- R93, R107: a report of the pair state takes a graded node to GRADED at most. -/
theorem pairReported (h : n.Lists m) : n.Lists m.pairReported := by
  refine h.trans ⟨by rw [Node.pairReported_eq], fun hm => ?_⟩
  have hstart (k : Node) (hk : k.Graded) : k.startRegime.Graded := by
    have hnot : k.mayStart = false := by rcases hk with hk | hk <;> simp [Node.mayStart, hk]
    rw [Node.startRegime, if_neg (by simp [hnot])]
    exact hk
  refine hstart _ ?_
  split
  · exact hm
  · unfold Node.abortSelfRest
    split
    · exact .inl rfl
    · exact hm

theorem setPair {s : PairState} (h : n.Lists m) : n.Lists (m.setPair s) := h.ite h.onPair.pairReported

theorem bar {x : Nat} (h : n.Lists m) : n.Lists (m.bar x) := by
  unfold Node.bar
  split
  · exact h.onPair.onPair
  · exact h

theorem propose {t : Nat} (h : n.Lists m) : n.Lists (m.propose t) := by
  unfold Node.propose
  split
  · exact h.hand.onPair.setPair
  · exact h

theorem seekOn (h : n.Lists m) : n.Lists m.seekOn := by
  unfold Node.seekOn
  split
  · exact h.propose.ite h
  · exact h

theorem testEligible (h : n.Lists m) : n.Lists m.testEligible := by
  unfold Node.testEligible
  split
  · split
    · exact h.setPair.seekOn.ite h
    · exact h.ite h.setPair
    · exact h.ite (setPair h.onPair)
    all_goals exact h
  · exact h

theorem endBond {release : Bool} (h : n.Lists m) : n.Lists (m.endBond release) := by
  have hends := m.endBond_unbonds release
  exact h.trans ⟨by rw [hends.peers], fun hm => by rwa [Node.Graded, hends.grade]⟩

theorem dissolve {cause : Nat} {send release : Bool} (h : n.Lists m) : n.Lists (m.dissolve cause send release) := by
  unfold Node.dissolve
  split
  · split
    · extract_lets n1 n2 n3
      have h2 : n.Lists n2 := onPair (h.hand.ite h)
      have h3 : n.Lists n3 := h2.bar.ite h2
      exact h3.endBond.setPair.testEligible
    · exact h
  · exact h

theorem testBond (h : n.Lists m) : n.Lists m.testBond := by
  unfold Node.testBond
  split
  · exact h.dissolve.ite h
  · exact h

end Node.Lists

/-- R58: whatever list was handed last, the list is the one derived now. -/
theorem Node.rederive_cands (n : Node) : n.rederive.peers.cands = n.derive := by
  unfold Node.rederive
  split
  next hsame => exact hsame.symm
  next =>
    split
    · exact ((Node.Lists.refl _).onPair.seekOn).cands
    · rfl

/-- R149: a new list moves a node that does not seek by its target alone. -/
theorem Node.rederive_of_not_seeking {n : Node} (h : n.pair.state ≠ .seeking) : ∃ target, n.rederive = { n with
    peers := { n.peers with cands := n.derive }, pair := { n.pair with target := target } } := by
  have hstands (m : Node) (hm : m.pair.state ≠ .seeking) : m.seekOn = m := by
    unfold Node.seekOn
    split
    · exact if_neg hm
    · rfl
  unfold Node.rederive
  split
  next hsame =>
    refine ⟨n.pair.target, ?_⟩
    rw [hsame]
  next =>
    extract_lets n1
    split
    · exact ⟨_, hstands n1.retarget h⟩
    · exact ⟨n.pair.target, rfl⟩

theorem Node.bonded_not_seeking {n : Node} (h : n.bonded = true) : n.pair.state ≠ .seeking := fun hs => by
  simp [Node.bonded, hs] at h

/-! ### Completions of a graded node (R98, R101) -/

/-- A graded node takes no completion: the Rail Allocator alone hears of the end of its test. -/
theorem Node.conclude_of_graded {n : Node} (h : n.Graded) (before : Node) :
    (n.conclude before).peers = n.peers ∧ (n.conclude before).pair = n.pair := by
  have hdone (m : Node) (hm : m.grade = n.grade) (ordinary : Bool) : m.testDone ordinary = m :=
    if_neg fun htest => by rcases h with h | h <;> simp [hm, h] at htest
  have htake (m : Node) (hm : m.grade = n.grade) (c : Completion) : ∃ r, m.takeCompletion c = { m with rail := r } := by
    have hpulse : m.pulseDone c = m := if_neg fun hpulse => by rcases h with h | h <;> simp [hm, h] at hpulse
    have hstopped : ∃ r, m.testStopped c.exchange = { m with rail := r } := by
      unfold Node.testStopped
      split
      · exact ⟨_, hdone (m.onRail fun r => r.testTaken c.exchange) hm true⟩
      · exact ⟨m.rail, rfl⟩
    unfold Node.takeCompletion
    split
    · exact ⟨m.rail, hpulse⟩
    · exact hstopped
    · exact hstopped
    all_goals exact ⟨_, rfl⟩
  have hfold (cs : List Completion) : ∀ m : Node, m.grade = n.grade → ∃ r, cs.foldl Node.takeCompletion m = { m with rail := r } := by
    induction cs with
    | nil => exact fun m _ => ⟨m.rail, rfl⟩
    | cons c cs ih =>
      intro m hm
      obtain ⟨r, hr⟩ := htake m hm c
      obtain ⟨r', hr'⟩ := ih { m with rail := r } hm
      exact ⟨r', by rw [List.foldl_cons, hr, hr']⟩
  obtain ⟨r, hr⟩ := hfold n.duty.reports n rfl
  have hsettled : ∃ r', (n.duty.reports.foldl Node.takeCompletion n).settleTest = { n with rail := r' } := by
    rw [hr]
    unfold Node.settleTest
    split
    · split
      · exact ⟨_, hdone _ (by rfl) _⟩
      · exact ⟨r, rfl⟩
    · exact ⟨r, rfl⟩
  obtain ⟨r', hr'⟩ := hsettled
  rw [Node.conclude_peers, Node.conclude_pair, Node.takeCompletions, hr']
  exact ⟨rfl, rfl⟩

/-! ### GRADE heard (R51, R155) -/

/-- R24, R29: a GRADE heard reaches the Peer Table. -/
theorem Node.hear_grade {n : Node} {h : Heard} {g c : Nat} {pr : Option Nat} {cap res : Option Fig}
    (hheard : n.hears .grade h (.grade g c pr cap res)) : n.hear .grade h = (n.noticed h.source).peerGrade h.source g c pr cap res := by
  obtain ⟨hreceives, hlive, hsource, hdecode⟩ := hheard
  rw [Node.hear, if_pos hreceives, if_pos hlive, if_neg hsource, hdecode]
  exact if_neg hsource

/-- The node whose Peer Table holds this GRADE of `src`, before the list is derived. -/
def Node.gradeStored (n : Node) (src g c : Nat) (pr : Option Nat) (cap res : Option Fig) : Node :=
  n.putPeer ((n.entry src).graded n.mon.now g c pr cap res)

theorem Node.peerGrade_eq (n : Node) (src g c : Nat) (pr : Option Nat) (cap res : Option Fig) :
    n.peerGrade src g c pr cap res =
      if (n.entry src).takesGrade g c pr = true ∧ n.pair.partner = some src then ((n.gradeStored src g c pr cap res).rederive).testBond
      else (n.gradeStored src g c pr cap res).rederive := rfl

/-- R51: the conditions under which the grade fields are replaced. -/
theorem Peer.takesGrade_iff (e : Peer) (g c : Nat) (pr : Option Nat) :
    e.takesGrade g c pr = true ↔ (classOf c).isSome = true ∧ (∀ i, pr = some i → i ≤ 3) ∧ e.heldGen ≠ some g := by
  cases pr <;> simp [Peer.takesGrade, and_assoc]

/-- R51: what the entry holds after a GRADE. -/
theorem Peer.graded_of_takes {e : Peer} {g c : Nat} {cl : Class} {pr : Option Nat} (hc : classOf c = some cl)
    (h : e.takesGrade g c pr = true) (now : Nat) (cap res : Option Fig) : e.graded now g c pr cap res
      = { e with heardAt := now, heldGen := some g, cls := cl, profile := pr, cap := cap, res := res } := by
  rw [Peer.graded, if_pos h, hc]
  rfl

section

variable {n : Node} {src g c : Nat} {pr : Option Nat} {cap res : Option Fig}

theorem Node.gradeStored_peer (n : Node) (src g c : Nat) (pr : Option Nat) (cap res : Option Fig) (a : Nat) :
    (n.gradeStored src g c pr cap res).peer a = if a = src then some ((n.entry src).graded n.mon.now g c pr cap res) else n.peer a := by
  rw [Node.gradeStored, Node.putPeer_peer, Peer.graded_address, Node.entry_address]

theorem Node.gradeStored_peerLaw (hlaw : n.PeerLaw) (hlow : 1 ≤ src) (hhigh : src ≤ 48) (hother : src ≠ n.address) :
    (n.gradeStored src g c pr cap res).PeerLaw :=
  Node.putPeer_peerLaw hlaw (by simpa using hlow) (by simpa using hhigh) (by simpa using hother)

/-- A GRADE stored leaves the other tables to the end of the step. -/
theorem Node.peerGrade_retains (before : Node) :
    (n.gradeStored src g c pr cap res).Retains ((n.peerGrade src g c pr cap res).conclude before) := by
  rw [Node.peerGrade_eq]
  exact ((Node.Retains.refl _).rederive.testBond.ite (Node.Retains.refl _).rederive).conclude

/-- The end of the step leaves the Peer Table and the Pairing Engine as the GRADE left them: a bonded node is graded, and another has
nothing to complete. -/
theorem Node.peerGrade_concludes (hsettled : n.Settled) (hlive : n.live = true) (hpair : n.PairLaw) (before : Node) :
    ((n.peerGrade src g c pr cap res).conclude before).peers = (n.peerGrade src g c pr cap res).peers
      ∧ ((n.peerGrade src g c pr cap res).conclude before).pair = (n.peerGrade src g c pr cap res).pair := by
  have hseeks := (Node.Seeks.refl (n.gradeStored src g c pr cap res)).rederive
  cases hbonded : n.bonded with
  | true =>
    obtain ⟨target, hlisted⟩ := Node.rederive_of_not_seeking (n := n.gradeStored src g c pr cap res) (Node.bonded_not_seeking hbonded)
    have hgraded : ((n.gradeStored src g c pr cap res).rederive).Graded := by
      rw [hlisted]
      exact Node.bondGraded_of_pairLaw hpair hlive hbonded
    refine Node.conclude_of_graded ?_ before
    rw [Node.peerGrade_eq]
    exact ((Node.Lists.refl _).testBond.ite (.refl _)).graded hgraded
  | false =>
    have hunbonded : ((n.gradeStored src g c pr cap res).rederive).bonded = false := hseeks.bonded hbonded
    have huntested : ((n.gradeStored src g c pr cap res).rederive).testBond = (n.gradeStored src g c pr cap res).rederive := by
      unfold Node.testBond
      split
      · exact if_neg fun htest => by rw [hunbonded] at htest; cases htest.1
      · rfl
    have hend : ((n.gradeStored src g c pr cap res).rederive).Settled := by
      rw [Node.Settled, hseeks.duty, hseeks.rail]
      exact hsettled
    rw [Node.peerGrade_eq, huntested, ite_self, Node.conclude_peers, Node.conclude_pair, Node.takeCompletions_of_settled hend]
    exact ⟨rfl, rfl⟩

/-- R58: the list after a GRADE is the one derived from the table with it. -/
theorem Node.peerGrade_cands (hsettled : n.Settled) (hlive : n.live = true) (hpair : n.PairLaw) (before : Node) :
    ((n.peerGrade src g c pr cap res).conclude before).peers.cands = (n.gradeStored src g c pr cap res).derive := by
  rw [(Node.peerGrade_concludes hsettled hlive hpair before).1, ← Node.rederive_cands, Node.peerGrade_eq]
  exact ((Node.Lists.refl _).testBond.ite (.refl _)).cands

/-- R155: the bond test of the partner's new grade. -/
theorem Node.bondTest_stored {p : Plan} (hplan : n.pres.plan = some p) (hQ : p.wQ ≤ 15) (hR : p.wR ≤ 15) (hbonded : n.bonded = true) :
    ((n.gradeStored src g c pr cap res).rederive).bondTest src = true ↔
      ∃ score, n.matchesWith p ((n.entry src).graded n.mon.now g c pr cap res) score := by
  obtain ⟨target, hlisted⟩ := Node.rederive_of_not_seeking (n := n.gradeStored src g c pr cap res) (Node.bonded_not_seeking hbonded)
  have hgrade : ((n.gradeStored src g c pr cap res).rederive).grade = n.grade := by rw [hlisted]; rfl
  have htest : ((n.gradeStored src g c pr cap res).rederive).bondTest src
      = ((n.gradeStored src g c pr cap res).rederive).matched p ((n.entry src).graded n.mon.now g c pr cap res) := by
    have hretains := (Node.Retains.refl (n.gradeStored src g c pr cap res)).rederive
    unfold Node.bondTest
    rw [hretains.peer, Node.gradeStored_peer, if_pos rfl, hretains.pres, show (n.gradeStored src g c pr cap res).pres.plan = some p from hplan]
  rw [htest, Node.matched_iff hQ hR]
  simp only [Node.matchesWith, hgrade]
  constructor
  · exact fun ⟨score, hmatches, _⟩ => ⟨score, hmatches⟩
  · rintro ⟨score, hmatches⟩
    obtain ⟨c', d, hc, hd, c'', d', hc', hd', hscore⟩ := hmatches.1
    refine ⟨score, hmatches, Node.scoreOf_eq_some_iff.2 ⟨c', d, ?_, ?_, c'', d', hc', hd', by rw [hscore]⟩⟩
    · rw [hgrade]; exact hc
    · rw [hgrade]; exact hd

/-- R155: a replaced grade of the partner that fails the bond test ends the bond, and no other GRADE touches it. -/
theorem Node.peerGrade_bond {p : Plan} (hplan : n.pres.plan = some p) (hQ : p.wQ ≤ 15) (hR : p.wR ≤ 15) (hbonded : n.bonded = true)
    (hpartner : n.pair.partner = some src) :
    let m := n.peerGrade src g c pr cap res
    ((n.entry src).takesGrade g c pr = true → (∀ score, ¬n.matchesWith p ((n.entry src).graded n.mon.now g c pr cap res) score) →
        m.Single ∧ m.pair.lastCause = some 2)
    ∧ (¬(n.entry src).takesGrade g c pr = true ∨ (∃ score, n.matchesWith p ((n.entry src).graded n.mon.now g c pr cap res) score) →
        m.pair.state = n.pair.state ∧ m.pair.partner = some src ∧ m.pair.lastCause = n.pair.lastCause) := by
  intro m
  have hseeks := (Node.Seeks.refl (n.gradeStored src g c pr cap res)).rederive
  obtain ⟨hbonded', hpartner'⟩ := hseeks.bond hbonded
  have hheld : ((n.gradeStored src g c pr cap res).rederive).pair.partner = some src := hpartner'.trans hpartner
  have htested : ((n.gradeStored src g c pr cap res).rederive).testBond =
      if ((n.gradeStored src g c pr cap res).rederive).bondTest src = false then
        ((n.gradeStored src g c pr cap res).rederive).dissolve 2 else (n.gradeStored src g c pr cap res).rederive := by
    unfold Node.testBond
    rw [hheld]
    simp only [hbonded', true_and]
    rfl
  refine ⟨fun htakes hfails => ?_, fun hstands => ?_⟩
  · have hfalse : ((n.gradeStored src g c pr cap res).rederive).bondTest src = false := by
      rw [← Bool.not_eq_true, Node.bondTest_stored hplan hQ hR hbonded]
      exact fun ⟨score, hmatches⟩ => hfails score hmatches
    have hm : m = ((n.gradeStored src g c pr cap res).rederive).dissolve 2 := by
      change n.peerGrade src g c pr cap res = _
      rw [Node.peerGrade_eq, if_pos ⟨htakes, hpartner⟩, htested, if_pos hfalse]
    rw [hm]
    exact ⟨Node.dissolve_single hbonded' hheld _ _ _, (Node.dissolve_dissolves hbonded' hheld _ _ _).lastCause⟩
  · have hm : m = (n.gradeStored src g c pr cap res).rederive := by
      change n.peerGrade src g c pr cap res = _
      rw [Node.peerGrade_eq]
      rcases hstands with hkeeps | hmatches
      · exact if_neg fun htakes => hkeeps htakes.1
      · have htrue := (Node.bondTest_stored hplan hQ hR hbonded).2 hmatches
        rw [htested, htrue, if_neg (by decide : ¬true = false), ite_self]
    rw [hm]
    exact ⟨hseeks.state_of_not_single (Node.not_single_of_bonded hbonded), hheld, hseeks.lastCause⟩

end

/-- Settles O16: the entry stored, the list derived from it, and the bond test of the partner's new grade. -/
theorem gradeReplacesEntry : Obligations.GradeReplacesEntry := by
  intro n w h g c pr cap res hsettled hpeers hheard hpair
  obtain ⟨hlow, hhigh⟩ := hheard.source (.inr rfl)
  have hlive := hheard.2.1
  have hother := hheard.2.2.1
  have hexec : ∀ m, (n.noticed h.source).peerGrade h.source g c pr cap res = m → exec (.grade h) ⟨n, w⟩ = .next ⟨m.conclude n, w⟩ :=
    fun m hm => State.act_eq (f := fun n => n.hear .grade h) (by rw [Node.hear_grade hheard, hm])
  obtain ⟨railTimer, silent, pairTimer, hnoted⟩ := n.noticed_eq h.source
  rw [hnoted] at hexec
  let k : Node := { n with
    line := { n.line with state := .busy }
    rail := { n.rail with silenceTimer := railTimer }
    pair := { n.pair with silent := silent, silenceTimer := pairTimer } }
  let m : Node := (k.peerGrade h.source g c pr cap res).conclude n
  let e : Peer := (k.entry h.source).graded n.mon.now g c pr cap res
  have hretains : (k.gradeStored h.source g c pr cap res).Retains m := Node.peerGrade_retains n
  have hpeer (a : Nat) : m.peer a = if a = h.source then some e else n.peer a := by
    rw [hretains.peer, Node.gradeStored_peer]
    rfl
  have hcands : m.peers.cands = (k.gradeStored h.source g c pr cap res).derive :=
    Node.peerGrade_cands (n := k) hsettled hlive hpair n
  have htakes := (k.entry h.source).takesGrade_iff g c pr
  refine ⟨m, e, hexec _ rfl, ?_, hretains.pres, fun a ha => ?_, fun cl hcl hprofile hgen => ?_, fun hkeeps => ?_, fun hunfit => ?_,
    fun p hplan hQ hR hactive => ⟨?_, fun a sc => ?_⟩, fun p hplan hQ hR hbonded hpartner => ?_⟩
  · rw [hpeer, if_pos rfl]
  · rw [hpeer, if_neg ha]
  · exact Peer.graded_of_takes hcl (htakes.2 ⟨by rw [hcl]; rfl, hprofile, hgen⟩) _ _ _
  · exact if_neg fun htaken => hkeeps (htakes.1 htaken)
  · rw [hcands]
    exact Node.derive_of_unfit hunfit
  · rw [hcands]
    exact Node.derive_sorted (Node.gradeStored_peerLaw (n := k) hpeers hlow hhigh hother)
  · rw [hcands, Node.mem_derive (n := k.gradeStored h.source g c pr cap res) hplan hactive hQ hR
      (Node.gradeStored_peerLaw (n := k) hpeers hlow hhigh hother), ← hretains.peer]
    exact Iff.rfl
  · have hbond := Node.peerGrade_bond (n := k) (g := g) (c := c) (pr := pr) (cap := cap) (res := res) hplan hQ hR hbonded hpartner
    have hkept : m.pair = (k.peerGrade h.source g c pr cap res).pair := (Node.peerGrade_concludes (n := k) hsettled hlive hpair n).2
    rw [hkept]
    refine ⟨fun hreplaces hfails => ?_, fun hstands => hbond.2 (hstands.imp_left fun hkeeps htaken => hkeeps (htakes.1 htaken))⟩
    obtain ⟨hsingle, hcause⟩ := hbond.1 (htakes.2 hreplaces) hfails
    exact ⟨hsingle.partner, hsingle.state, hcause⟩

end Sys2Proof.Machine
end

section
/-! PROOFS. PRESENCE of a peer as the Rail Allocator takes it (R122-R125): the view, its certainty, and the own exchange. -/

namespace Sys2Proof.Machine

/-! ### Changes of the rail block and the transmit queue alone -/

/-- The rail block and the transmit queue alone have changed, and nothing more waits to be taken at the end of the step. -/
structure Node.RailOnly (n m : Node) : Prop where
  eq : m = { n with line := { n.line with queue := m.line.queue }, rail := m.rail }
  settled : n.Settled → m.Settled

namespace Node.RailOnly

variable {n m : Node}

theorem refl (n : Node) : n.RailOnly n := ⟨rfl, id⟩

theorem trans {k : Node} (h : n.RailOnly m) (hk : m.RailOnly k) : n.RailOnly k := ⟨by rw [hk.eq, h.eq], hk.settled ∘ h.settled⟩

theorem ite {p : Prop} [Decidable p] {a b : Node} (ha : n.RailOnly a) (hb : n.RailOnly b) : n.RailOnly (if p then a else b) := by
  split
  · exact ha
  · exact hb

theorem onRail {f : Rail → Rail} (hended : (f m.rail).testEnded = m.rail.testEnded)
    (hordinary : (f m.rail).testOrdinary = m.rail.testOrdinary) (h : n.RailOnly m) : n.RailOnly (m.onRail f) :=
  h.trans ⟨rfl, fun hm => ⟨hm.1, by rw [Node.onRail_rail, hended, hordinary]; exact hm.2⟩⟩

theorem roomTest (h : n.RailOnly m) : n.RailOnly m.roomTest := h.trans ⟨m.roomTest_eq, Node.roomTest_settled⟩

theorem freedTest (h : n.RailOnly m) : n.RailOnly m.freedTest := h.trans ⟨m.freedTest_retries.eq, m.freedTest_retries.settled⟩

theorem certainIfHeard (h : n.RailOnly m) : n.RailOnly m.certainIfHeard := (h.onRail rfl rfl).roomTest.ite h

theorem uncertain {boot : Bool} (h : n.RailOnly m) : n.RailOnly (m.uncertain boot) :=
  (h.onRail (f := fun r => { r with held := none, heldTimer := none }) rfl rfl).onRail rfl rfl

end Node.RailOnly

/-! ### The statement taken (R122) -/

/-- The node whose rail view has taken the statement, an own exchange that left the view ended with it (R122, R125). -/
def Node.restated (n : Node) (p : Plan) (src : Nat) (st : Stated) : Node :=
  (n.setRail (takeStatement p n.rail.view src st).1).ownLeft false

/-- Then the view is uncertain, or the peer counts as heard (R124). -/
def Node.rejudged (n : Node) (p : Plan) (src : Nat) (st : Stated) : Node :=
  if (takeStatement p n.rail.view src st).2 = false then (n.restated p src st).uncertain false
  else if src = n.address then (n.restated p src st).certainIfHeard
  else ((n.restated p src st).onRail fun r => { r with heardSince := insertHeard src r.heardSince }).certainIfHeard

section

variable {n : Node} {p : Plan} {src : Nat} {st : Stated}

theorem Node.railPresence_eq (hplan : n.pres.plan = some p) : n.railPresence src st =
    if n.rail.view.all (fun e => inView e.id (takeStatement p n.rail.view src st).1) then (n.rejudged p src st).roomTest
    else (n.rejudged p src st).freedTest := by
  unfold Node.railPresence
  rw [hplan]
  rfl

/-- R126: the test for room retains what the statement made of the view. -/
theorem Node.railPresence_retains (hplan : n.pres.plan = some p) : (n.rejudged p src st).Retains (n.railPresence src st) := by
  rw [Node.railPresence_eq hplan]
  exact (Node.Retains.refl _).roomTest.ite (Node.Retains.refl _).freedTest

theorem Node.railPresence_railOnly (hplan : n.pres.plan = some p) : (n.restated p src st).RailOnly (n.railPresence src st) := by
  have hjudged : (n.restated p src st).RailOnly (n.rejudged p src st) :=
    (Node.RailOnly.refl _).uncertain.ite
      ((Node.RailOnly.refl _).certainIfHeard.ite ((Node.RailOnly.refl (n.restated p src st)).onRail rfl rfl).certainIfHeard)
  rw [Node.railPresence_eq hplan]
  exact hjudged.roomTest.ite hjudged.freedTest

theorem Node.restated_retains (n : Node) (p : Plan) (src : Nat) (st : Stated) :
    (n.setRail (takeStatement p n.rail.view src st).1).Retains (n.restated p src st) := (Node.Retains.refl _).ownLeft

/-- A PRESENCE taken into the view leaves the Peer Table, the clock and the row view. -/
theorem Node.railPresence_leaves (n : Node) (src : Nat) (st : Stated) : n.Leaves (n.railPresence src st) := by
  cases hplan : n.pres.plan with
  | none =>
    unfold Node.railPresence
    rw [hplan]
    exact ⟨rfl, rfl, rfl, rfl⟩
  | some p =>
    have hrestated : n.Leaves (n.restated p src st) :=
      (⟨rfl, rfl, rfl, rfl⟩ : n.Leaves (n.setRail (takeStatement p n.rail.view src st).1)).trans (n.restated_retains p src st).toLeaves
    refine hrestated.trans ?_
    rw [(Node.railPresence_railOnly (n := n) (src := src) (st := st) hplan).eq]
    exact ⟨rfl, rfl, rfl, rfl⟩

/-- The judgement of the view leaves its records and an absent own record. -/
theorem Node.rejudged_view (n : Node) (p : Plan) (src : Nat) (st : Stated) :
    (n.rejudged p src st).rail.view = (takeStatement p n.rail.view src st).1
      ∧ ((n.restated p src st).rail.own = none → (n.rejudged p src st).rail.own = none) := by
  have hview : (n.restated p src st).rail.view = (takeStatement p n.rail.view src st).1 := (n.restated_retains p src st).rail.view
  have hcertain (m : Node) : m.certainIfHeard.rail.view = m.rail.view ∧ (m.rail.own = none → m.certainIfHeard.rail.own = none) := by
    unfold Node.certainIfHeard
    split
    · have htested := (Node.Retains.refl (m.onRail fun r => { r with certain := true, boot := false, heardSince := [], certainTimer := none })).roomTest
      exact ⟨htested.rail.view, htested.rail.free⟩
    · exact ⟨rfl, id⟩
  unfold Node.rejudged
  split
  · exact ⟨hview, id⟩
  · split
    · obtain ⟨hsame, hfree⟩ := hcertain (n.restated p src st)
      exact ⟨hsame.trans hview, hfree⟩
    · obtain ⟨hsame, hfree⟩ := hcertain ((n.restated p src st).onRail fun r => { r with heardSince := insertHeard src r.heardSince })
      exact ⟨hsame.trans hview, hfree⟩

/-- R135: an own exchange that is not in the new view has ended. -/
theorem Node.restated_free {o : OwnRecord} (hown : n.rail.own = some o)
    (hgone : ∀ x ∈ (takeStatement p n.rail.view src st).1, x.id ≠ o.id) : (n.restated p src st).rail.own = none := by
  have hleft : inView o.id (n.setRail (takeStatement p n.rail.view src st).1).rail.view = false := by
    rw [← Bool.not_eq_true, inView_iff]
    rintro ⟨x, hx, hid⟩
    exact hgone x hx hid
  exact (Node.ownLeft_stands (n := n.setRail _) hown hleft false).frees.own

/-! ### Certainty (R124) -/

theorem mem_insertHeard {a x : Nat} {l : List Nat} : x ∈ insertHeard a l ↔ x = a ∨ x ∈ l := by
  induction l with
  | nil => simp [insertHeard]
  | cons y ys ih =>
    rw [insertHeard]
    split
    · rw [List.mem_cons, ih, List.mem_cons, or_left_comm]
    · split
      next heq => simp [heq]
      next => rw [List.mem_cons]

/-- R124: an uncertain view becomes certain where every entry has been heard since, and holds a last presence. -/
theorem Node.certainIfHeard_certain {n : Node} (huncertain : n.rail.certain = false) (hboot : n.rail.boot = false)
    (hplan : n.pres.plan.isSome = true) : n.certainIfHeard.rail.certain = true ↔
      ∀ e ∈ n.peers.entries, e.address ∈ n.rail.heardSince ∧ e.lastPresence.isSome = true := by
  have hall : n.peers.entries.all (fun e => n.rail.heardSince.contains e.address && e.lastPresence.isSome) = true ↔
      ∀ e ∈ n.peers.entries, e.address ∈ n.rail.heardSince ∧ e.lastPresence.isSome = true := by simp
  rw [← hall]
  unfold Node.certainIfHeard
  split
  next h =>
    refine iff_of_true ?_ h.2.2.2
    exact (Node.Retains.refl (n.onRail fun r => { r with certain := true, boot := false, heardSince := [], certainTimer := none })).roomTest.rail.certain
  next h => exact iff_of_false (by simp [huncertain]) fun hheard => h ⟨huncertain, hboot, hplan, hheard⟩

/-- R122, R124: a statement that is none or broken lets the view become certain; `src` counts as heard. -/
theorem Node.rejudged_certain (hplan : n.pres.plan = some p) (hst : st = .omitted ∨ st = .broken) (hother : src ≠ n.address)
    (huncertain : n.rail.certain = false) (hboot : n.rail.boot = false) : (n.rejudged p src st).rail.certain = true ↔
      ∀ e ∈ n.peers.entries, (e.address = src ∨ e.address ∈ n.rail.heardSince) ∧ e.lastPresence.isSome = true := by
  have hretains := n.restated_retains p src st
  have htaken : ¬(takeStatement p n.rail.view src st).2 = false := by rcases hst with rfl | rfl <;> exact Bool.true_eq_false.mp
  unfold Node.rejudged
  rw [if_neg htaken, if_neg hother, Node.certainIfHeard_certain]
  · change (∀ e ∈ (n.restated p src st).peers.entries, e.address ∈ insertHeard src (n.restated p src st).rail.heardSince ∧ _) ↔ _
    rw [hretains.entries, hretains.rail.heardSince]
    simp only [mem_insertHeard]
    exact Iff.rfl
  · exact hretains.rail.certain.trans huncertain
  · exact hretains.rail.boot.trans hboot
  · change (n.restated p src st).pres.plan.isSome = true
    rw [hretains.pres]
    exact Option.isSome_of_eq_some hplan

/-- R124: the peer lifetime runs from the latest cause. -/
theorem Node.uncertain_certainTimer {n : Node} (hplan : n.pres.plan = some p) (boot : Bool) :
    (n.uncertain boot).rail.certainTimer = some (n.mon.now + p.lifetimeCount * p.presencePeriod) := by
  simp [Node.uncertain, Node.endOffer, hplan, Node.after, Plan.lifetime]

/-- R122, R124: a statement that does not fit makes the view uncertain from now on. -/
theorem Node.rejudged_uncertain (hplan : n.pres.plan = some p) (hfails : (takeStatement p n.rail.view src st).2 = false) :
    (n.rejudged p src st).rail.certain = false
      ∧ (n.rejudged p src st).rail.certainTimer = some (n.mon.now + p.lifetimeCount * p.presencePeriod) := by
  have hretains := n.restated_retains p src st
  have hnow : (n.restated p src st).mon.now = n.mon.now := hretains.now
  have hstored : (n.restated p src st).pres.plan = some p := by rw [hretains.pres]; exact hplan
  unfold Node.rejudged
  rw [if_pos hfails, Node.uncertain_certainTimer hstored, hnow]
  exact ⟨rfl, rfl⟩

/-! ### The view with the statement (R122) -/

/-- R122: the view without the sender's other exchanges. -/
def keptBeside (v : List Exchange) (src id : Nat) : List Exchange :=
  v.filter fun x => !(x.initiator == src || x.counterpart == src) || x.id == id

/-- R122: what a whole statement must meet to be taken. -/
def StatementFits (p : Plan) (v : List Exchange) (src : Nat) (s : Statement) (x : Exchange) : Prop :=
  s.record p src = some x
    ∧ (((keptBeside v src s.id).filter fun y => y.id != s.id).map Exchange.draw).sum + x.draw ≤ p.pool
    ∧ ((∃ y ∈ v, y.id = s.id) ∨ (keptBeside v src s.id).length < p.slots)

theorem Statement.record_id {s : Statement} {p : Plan} {src : Nat} {x : Exchange} (h : s.record p src = some x) : x.id = s.id := by
  unfold Statement.record at h
  split at h
  · cases h
  · split at h
    · split at h
      · cases h; rfl
      · cases h
    · split at h
      · split at h
        · cases h; rfl
        · cases h
      · cases h

theorem keptBeside_inView (v : List Exchange) (src id : Nat) : inView id (keptBeside v src id) = true ↔ ∃ y ∈ v, y.id = id := by
  rw [inView_iff]
  constructor
  · rintro ⟨y, hy, hid⟩
    exact ⟨y, List.mem_of_mem_filter hy, hid⟩
  · rintro ⟨y, hy, hid⟩
    exact ⟨y, List.mem_filter.2 ⟨hy, by simp [hid]⟩, hid⟩

/-- R122: a statement of 1 to 8 units is taken where it fits, and else the view keeps what stands beside it. -/
theorem takeStatement_whole (p : Plan) (v : List Exchange) (src : Nat) {s : Statement} (hlow : 1 ≤ s.units) (hhigh : s.units ≤ 8) :
    (∀ x, StatementFits p v src s x →
        ∀ y, y ∈ (takeStatement p v src (.whole s)).1 ↔ y = x ∨ y ∈ (keptBeside v src s.id).filter fun y => y.id != s.id)
    ∧ ((∀ x, ¬StatementFits p v src s x) → takeStatement p v src (.whole s) = (keptBeside v src s.id, false)) := by
  have hwhole : takeStatement p v src (.whole s) = match s.record p src with
      | some e => match placeStated p (keptBeside v src s.id) e with
        | some w => (w, true)
        | none => (keptBeside v src s.id, false)
      | none => (keptBeside v src s.id, false) := by
    rw [takeStatement, if_neg (by omega)]
    rfl
  have hplaced {x : Exchange} (hrecord : s.record p src = some x) : placeStated p (keptBeside v src s.id) x =
      if (((keptBeside v src s.id).filter fun y => y.id != s.id).map Exchange.draw).sum + x.draw ≤ p.pool
          ∧ ((∃ y ∈ v, y.id = s.id) ∨ (keptBeside v src s.id).length < p.slots) then
        some (insertExchange x ((keptBeside v src s.id).filter fun y => y.id != s.id)) else none := by
    unfold placeStated
    simp only [Statement.record_id hrecord, keptBeside_inView]
    rfl
  refine ⟨fun x hfits y => ?_, fun hnone => ?_⟩
  · obtain ⟨hrecord, hroom⟩ := hfits
    rw [hwhole, hrecord]
    dsimp only
    rw [hplaced hrecord, if_pos hroom]
    exact mem_insertExchange
  · rw [hwhole]
    cases hrecord : s.record p src with
    | none => rfl
    | some x =>
      dsimp only
      rw [hplaced hrecord, if_neg fun hroom => hnone x ⟨hrecord, hroom⟩]

end

end Sys2Proof.Machine
end

section
/-! PROOFS. PRESENCE of a peer as the Peer Table and the Position Manager take it (R50, R59, R167, R169): the entry, and the row view
with a conflict in the quiet window. -/

namespace Sys2Proof.Machine

/-! ### The entry (R50) -/

theorem heldPosition_eq (x : Option Nat) : heldPosition x = x.filter fun k => decide (1 ≤ k ∧ k ≤ 8) := by
  cases x with
  | none => rfl
  | some k => simp [heldPosition, Option.filter]

theorem heldPartner_eq (src : Nat) (x : Option Nat) : heldPartner src x = x.filter fun y => decide (1 ≤ y ∧ y ≤ 48 ∧ y ≠ src) := by
  cases x with
  | none => rfl
  | some y => simp [heldPartner, Option.filter]

theorem PresenceNotice.numbered_iff (p : PresenceNotice) : p.numbered = true ↔
    (nodeStateOf p.nodeState).isSome = true ∧ (gradeStateOf p.gradeState).isSome = true ∧ (pairStateOf p.pairState).isSome = true := by
  simp [PresenceNotice.numbered, and_assoc]

/-- R50: the entry after a PRESENCE within the numberings. -/
theorem Peer.presence_of_numbered {p : PresenceNotice} {ns : NodeState} {gs : GradeState} {ps : PairState}
    (hns : nodeStateOf p.nodeState = some ns) (hgs : gradeStateOf p.gradeState = some gs) (hps : pairStateOf p.pairState = some ps)
    (e : Peer) (now : Nat) : e.presence now p = { e with
      heardAt := now, lastPresence := some now, nodeState := some ns, gradeState := some gs, pairState := some ps, planId := p.planId
      announced := some p.generation, partner := heldPartner e.address p.partner, position := heldPosition p.position
      statement := heldStatement e.statement p.stated } := by
  simp [Peer.presence, hns, hgs, hps]

/-- R50: one outside them counts for the age alone. -/
theorem Peer.presence_of_not_numbered {p : PresenceNotice} (h : p.numbered = false) (e : Peer) (now : Nat) :
    e.presence now p = { e with heardAt := now, lastPresence := some now } := by
  unfold Peer.presence
  split
  next hns hgs hps => simp [PresenceNotice.numbered, hns, hgs, hps] at h
  next => rfl

theorem Peer.presence_lastPresence (e : Peer) (now : Nat) (p : PresenceNotice) : (e.presence now p).lastPresence = some now := by
  unfold Peer.presence
  extract_lets e1
  split <;> rfl

/-- The node whose Peer Table holds this PRESENCE of `src`, before the list is derived. -/
def Node.presenceStored (n : Node) (src : Nat) (p : PresenceNotice) : Node := n.putPeer ((n.entry src).presence n.mon.now p)

theorem Node.presenceStored_peer (n : Node) (src : Nat) (p : PresenceNotice) (a : Nat) :
    (n.presenceStored src p).peer a = if a = src then some ((n.entry src).presence n.mon.now p) else n.peer a := by
  rw [Node.presenceStored, Node.putPeer_peer, Peer.presence_address, Node.entry_address]

theorem Node.peerPresence_retains (n : Node) (src : Nat) (p : PresenceNotice) :
    (n.presenceStored src p).Retains (n.peerPresence src p) := (Node.Retains.refl _).rederive

theorem Node.peerPresence_seeks (n : Node) (src : Nat) (p : PresenceNotice) : n.Seeks (n.peerPresence src p) :=
  (Node.Seeks.refl n).onPeers.rederive

/-- A bonded node goes on as it stands but for its target (R149). -/
theorem Node.peerPresence_of_bonded {n : Node} (h : n.bonded = true) (src : Nat) (p : PresenceNotice) :
    ∃ peers target, n.peerPresence src p = { n with peers := peers, pair := { n.pair with target := target } } := by
  obtain ⟨target, hlisted⟩ := Node.rederive_of_not_seeking (n := n.presenceStored src p) (Node.bonded_not_seeking h)
  exact ⟨_, target, hlisted⟩

theorem Node.peerPresence_bondGraded {n : Node} (h : n.BondGraded) (src : Nat) (p : PresenceNotice) :
    (n.peerPresence src p).BondGraded := by
  cases hbonded : n.bonded with
  | true =>
    obtain ⟨peers, target, heq⟩ := Node.peerPresence_of_bonded hbonded src p
    rw [heq]
    exact h
  | false =>
    intro hstill
    rw [(n.peerPresence_seeks src p).bonded hbonded] at hstill
    cases hstill

theorem mem_insertPeer_iff {e x : Peer} {l : List Peer} (h : l.Pairwise fun x y => x.address < y.address) :
    x ∈ insertPeer e l ↔ x = e ∨ x ∈ l ∧ x.address ≠ e.address := by
  induction l with
  | nil => simp [insertPeer]
  | cons y ys ih =>
    obtain ⟨hfirst, hrest⟩ := List.pairwise_cons.1 h
    have habove : x ∈ ys → y.address < x.address := hfirst x
    rw [insertPeer]
    split
    next hbelow =>
      rw [List.mem_cons, ih hrest, List.mem_cons]
      have hy : x = y → x.address ≠ e.address := by rintro rfl; omega
      tauto
    next hnot =>
      split
      next hsame =>
        rw [List.mem_cons, List.mem_cons]
        have hy : x = y → x.address = e.address := by rintro rfl; exact hsame
        have hys : x ∈ ys → x.address ≠ e.address := fun hx => by have := habove hx; omega
        tauto
      next hother =>
        rw [List.mem_cons, List.mem_cons]
        have hy : x = y → x.address ≠ e.address := by rintro rfl; omega
        have hys : x ∈ ys → x.address ≠ e.address := fun hx => by have := habove hx; omega
        tauto

/-! ### What the row view takes (R59, R167) -/

theorem pairStateOf_code {c : Nat} {s : PairState} (h : pairStateOf c = some s) : s.code = c := by
  unfold pairStateOf at h
  split at h <;> cases h <;> rfl

theorem pairStateOf_le {c : Nat} (h : (pairStateOf c).isSome = true) : c ≤ 6 := by
  obtain ⟨s, hs⟩ := Option.isSome_iff_exists.1 h
  rw [← pairStateOf_code hs]
  cases s <;> decide

/-- R59: what the Position Manager reads of the entry is what the PRESENCE has stored. -/
theorem Node.rowStatement_stored {n : Node} {src : Nat} (hother : src ≠ n.address) (p : PresenceNotice) :
    (n.peerPresence src p).rowStatement src p =
      if p.numbered = true then some ⟨heldPosition p.position, heldPartner src p.partner, p.pairState⟩ else none := by
  have hretains := n.peerPresence_retains src p
  have hsource : ¬src = (n.peerPresence src p).address := by
    rw [Node.address, hretains.pres]
    exact hother
  have hentry : (n.peerPresence src p).peer src = some ((n.entry src).presence n.mon.now p) := by
    rw [hretains.peer, n.presenceStored_peer, if_pos rfl]
  unfold Node.rowStatement
  rw [if_neg hsource, hentry]
  split
  next hnumbered =>
    obtain ⟨hns, hgs, hps⟩ := p.numbered_iff.1 hnumbered
    obtain ⟨ns, hns⟩ := Option.isSome_iff_exists.1 hns
    obtain ⟨gs, hgs⟩ := Option.isSome_iff_exists.1 hgs
    obtain ⟨ps, hps⟩ := Option.isSome_iff_exists.1 hps
    rw [Peer.presence_of_numbered hns hgs hps]
    simp [pairStateOf_code hps]
  next => rfl

/-- The Position Manager takes the statement, where there is one (R167, R169). -/
def Node.viewStated (n : Node) (src : Nat) : Option RowStatement → Node
  | some x => n.viewPresence src x
  | none => n

/-- R167, R169: of the tables a row statement changes the row view alone. -/
theorem Node.viewStated_retains (n : Node) (src : Nat) (x : Option RowStatement) :
    ∃ rows, (n.onPos fun q => { q with view := rows }).Retains (n.viewStated src x) := by
  have hstands : ∃ rows, (n.onPos fun q => { q with view := rows }).Retains n := ⟨n.pos.view, .refl n⟩
  have hset (v : List PosRecord) : ∃ rows, (n.onPos fun q => { q with view := rows }).Retains (n.setView v) := ⟨_, n.setView_retains v⟩
  unfold Node.viewStated
  split
  · unfold Node.viewPresence
    split
    · split
      · split
        · exact hset _
        · split
          · split
            · exact ⟨_, (n.setView_retains _).loseClaim⟩
            · exact hset _
          · exact hstands
        · exact hstands
      · exact hstands
    · exact hstands
  · exact hstands

/-! ### The row view by the words of R167 -/

section

variable {n : Node} {src : Nat} {v : List PosRecord}

/-- R167: a PRESENCE without a position frees what its node leads. -/
theorem Node.viewPresence_unplaced (hview : n.pos.view = some v) (hrow : n.ownRow src = true) (y : Option Nat) (s : Nat) :
    n.viewPresence src ⟨none, y, s⟩ = n.setView (freeLead src 0 1 v) := by
  unfold Node.viewPresence
  rw [hview]
  simp only [hrow, if_true]

/-- A position without a partner of the row changes nothing (log entry 48), and one without a bond neither (R167). -/
theorem Node.viewPresence_idle {x : RowStatement} (hplaced : x.position.isSome = true)
    (hidle : ∀ y, x.partner = some y → n.ownRow y = false ∨ statedState x.pairState = none) : n.viewPresence src x = n := by
  obtain ⟨position, partner, s⟩ := x
  cases position with
  | none => cases hplaced
  | some k =>
    unfold Node.viewPresence
    split
    · split
      · cases partner with
        | none => rfl
        | some y => exact if_neg fun h => by rcases hidle y rfl with hy | hy <;> simp_all
      · rfl
    · rfl

theorem Node.viewPresence_stated (hview : n.pos.view = some v) (hrow : n.ownRow src = true) {k y s : Nat} (hy : n.ownRow y = true)
    (hother : y ≠ src) (hs : (statedState s).isSome = true) : n.viewPresence src ⟨some k, some y, s⟩ =
      if n.conflicts src k s then (n.setView (takeStated (setRecord v k .free) src k y s)).loseClaim
      else n.setView (takeStated v src k y s) := by
  unfold Node.viewPresence
  rw [hview]
  simp only [hrow, hy, hs, ne_eq, hother, not_false_eq_true, and_self, if_true]

end

/-- R167: the records that a node leads are set FREE. -/
theorem freeLead_zero (x : Nat) (v : List PosRecord) {k : Nat} (hk : k ≠ 0) : freeLead x 0 k v =
    v.map fun r => if r.couple.map Prod.fst = some x then { state := .free, couple := none } else r := by
  induction v generalizing k with
  | nil => rfl
  | cons r rs ih =>
    rw [freeLead, ih (Nat.succ_ne_zero k), List.map_cons]
    simp only [ne_eq, hk, not_false_eq_true, and_true]
    rfl

/-- The state that a PRESENCE of a bonded node states for its record (R167). -/
def presenceState (s : Nat) : PosState := if s = 5 then .engaged else if s = 6 then .leaving else .claimed

theorem statedState_of_bond {s : Nat} (hlow : 3 ≤ s) (hhigh : s ≤ 6) : statedState s = some (presenceState s) := by
  interval_cases s <;> rfl

theorem statedState_of_single {s : Nat} (h : s < 3) : statedState s = none := by interval_cases s <;> rfl

theorem presenceState_engaged_iff {s : Nat} (hhigh : s ≤ 6) :
    presenceState s = .engaged ∨ presenceState s = .leaving ↔ 5 ≤ s := by
  unfold presenceState
  split
  next h => simp [h]
  next h5 =>
    split
    next h => simp [h]
    next h6 => exact iff_of_false (by simp) (by omega)

theorem coupleOf_eq {x y : Nat} : coupleOf x y = (min x y, max x y) := by
  unfold coupleOf
  split
  · rw [min_eq_left (by omega), max_eq_right (by omega)]
  · rw [min_eq_right (by omega), max_eq_left (by omega)]

/-- R167: only the record of the position stated changes, where it is FREE or holds the couple. -/
theorem takeStated_moves (v : List PosRecord) (src k y : Nat) {s : Nat} (hlow : 3 ≤ s) (hhigh : s ≤ 6) :
    (takeStated v src k y s).length = v.length ∧ (∀ j, j ≠ k → recordAt (takeStated v src k y s) j = recordAt v j)
      ∧ ∀ r, recordAt v k = some r → recordAt (takeStated v src k y s) k = some
          (if r.state = .free then { state := presenceState s, couple := some (min src y, max src y) }
            else if r.couple = some (min src y, max src y) ∧ 5 ≤ s then { r with state := presenceState s } else r) := by
  unfold takeStated
  rw [statedState_of_bond hlow hhigh]
  cases hrecord : recordAt v k with
  | none => exact ⟨rfl, fun _ _ => rfl, nofun⟩
  | some r =>
    simp only [coupleOf_eq, presenceState_engaged_iff hhigh]
    by_cases hfree : r.state = .free
    · rw [if_pos hfree]
      refine ⟨setRecord_length _ _ _, fun j hj => recordAt_setRecord_other v hj _, ?_⟩
      rintro _ ⟨⟩
      rw [recordAt_setRecord_same hrecord, if_pos hfree]
    · rw [if_neg hfree]
      by_cases hheld : r.couple = some (min src y, max src y) ∧ 5 ≤ s
      · rw [if_pos hheld]
        refine ⟨setRecord_length _ _ _, fun j hj => recordAt_setRecord_other v hj _, ?_⟩
        rintro _ ⟨⟩
        rw [recordAt_setRecord_same hrecord, if_neg hfree, if_pos hheld]
      · rw [if_neg hheld]
        refine ⟨rfl, fun _ _ => rfl, ?_⟩
        rintro _ ⟨⟩
        rw [if_neg hfree, if_neg hheld, hrecord]

/-! ### The quiet window beside an own exchange that ends (R136, R169, R172) -/

/-- However the bond ends, its couple's phase is NONE or stands. -/
theorem Node.dissolve_phase (n : Node) (cause : Nat) (send release : Bool) :
    (n.dissolve cause send release).pos.phase = .none ∨ (n.dissolve cause send release).pos.phase = n.pos.phase := by
  have hends (m : Node) : (m.endBond release).pos.phase = .none ∨ (m.endBond release).pos.phase = m.pos.phase := by
    unfold Node.endBond
    split
    · extract_lets n1 n2
      obtain ⟨queue, repeats, hclaims, -⟩ := n2.withdrawClaim_spec m.pos.lead m.pos.partner
      rw [hclaims]
      exact .inl rfl
    · exact .inr rfl
  cases hbonded : n.bonded with
  | false => exact .inr (by rw [Node.dissolve_of_not_bonded hbonded])
  | true =>
    cases hpartner : n.pair.partner with
    | none =>
      refine .inr ?_
      unfold Node.dissolve
      rw [hpartner]
    | some x =>
      obtain ⟨k, hk, hcleared⟩ := n.unbinding_seeks x cause send
      have hpos : (n.unbinding x cause send).pos = n.pos := hcleared.pos.trans hk.pos
      rw [Node.dissolve_of_bonded hbonded hpartner, (Node.Seeks.refl _).testEligible.pos, Node.setPair_eq, ← hpos]
      exact hends _

/-- R136: the end of a JOIN neither begins a quiet window nor touches one but for the live reports. -/
theorem Node.joinEnded_window (n : Node) (ordinary : Bool) :
    (n.joinEnded ordinary).pos = { n.pos with liveTimer := none }
      ∨ n.pos.phase ≠ .claimWait ∧ (n.joinEnded ordinary).pos.phase ≠ .claimWait := by
  unfold Node.joinEnded
  extract_lets n1
  split
  next hphase =>
    have hquiet {k : Node} (hk : k.pos.phase = n.pos.phase) : k.pos.phase ≠ .claimWait := by
      rw [hk]
      rcases hphase with h | h | h <;> rw [h] <;> nofun
    have hround (k : Node) (hk : k.pos.phase = n.pos.phase) : k.beginRound.pos.phase ≠ .claimWait := by
      unfold Node.beginRound
      split
      · nofun
      · exact hquiet hk
    refine .inr ⟨hquiet rfl, ?_⟩
    split
    · exact hround n1 rfl
    · unfold Node.countAttempt
      extract_lets n2
      split
      · unfold Node.equalizeFail
        rw [Node.reportFault_eq]
        rcases n2.dissolve_phase unbindEqualize true true with hnone | hsame
        · change (n2.dissolve unbindEqualize).pos.phase ≠ _
          rw [hnone]
          nofun
        · exact hquiet hsame
      · exact hround n2 rfl
  next => exact .inl rfl

theorem Node.ownLeft_window (n : Node) (ordinary : Bool) :
    (∃ liveTimer, (n.ownLeft ordinary).pos = { n.pos with liveTimer := liveTimer })
      ∨ n.pos.phase ≠ .claimWait ∧ (n.ownLeft ordinary).pos.phase ≠ .claimWait := by
  unfold Node.ownLeft
  split
  next o hown =>
    obtain ⟨-, -, -, -, hpos, -⟩ := Node.dropOwn_leaves hown ordinary
    split
    · exact .inl ⟨_, rfl⟩
    · split
      · split
        · exact .inl ⟨none, by rw [Node.onPos_pos, hpos]⟩
        · have hended := (n.dropOwn ordinary).joinEnded_window ordinary
          rw [hpos] at hended
          exact hended.imp_left fun h => ⟨none, h⟩
      · exact .inl ⟨_, hpos⟩
  next => exact .inl ⟨_, rfl⟩

/-- R169: a conflict in the quiet window. -/
theorem Node.conflicts_iff {n : Node} {src k s : Nat} (hother : src ≠ n.address) (hhigh : s ≤ 6) : n.conflicts src k s = true ↔
    n.pos.phase = .claimWait ∧ n.pos.position = some k ∧ n.pos.partner ≠ some src ∧ 4 ≤ s := by
  have hs : ((s = 4 ∨ s = 5) ∨ s = 6) ↔ 4 ≤ s := by omega
  simp only [Node.conflicts, Bool.and_eq_true, Bool.or_eq_true, beq_iff_eq, bne_iff_ne, hs, hother, ne_eq, not_false_eq_true, and_true,
    and_assoc]

end Sys2Proof.Machine
end

section
/-! PROOFS. PRESENCE of a peer taken whole (R50, R122-R125, R156, R167, R169): the Peer Table, the Rail Allocator, the Position Manager
and the Pairing Engine in their order, and the end of the step. -/

namespace Sys2Proof.Machine

/-! ### The step -/

/-- The rail view after a PRESENCE, before the row view takes it (R122). -/
def Node.presenceRailed (n : Node) (src : Nat) (p : PresenceNotice) : Node := (n.peerPresence src p).railPresence src p.stated

/-- The row view after a PRESENCE, before the Pairing Engine takes it (R167). -/
def Node.presenceViewed (n : Node) (src : Nat) (p : PresenceNotice) : Node :=
  (n.presenceRailed src p).viewStated src ((n.peerPresence src p).rowStatement src p)

/-- The node at the end of a step, begun at `before`, that has heard a PRESENCE. -/
def Node.presenceEnd (n : Node) (src : Nat) (p : PresenceNotice) (before : Node) : Node :=
  ((n.presenceViewed src p).pairPresence src p).conclude before

/-- R24, R29: a PRESENCE heard reaches the four blocks that read it. -/
theorem Node.hear_presence {n : Node} {h : Heard} {p : PresenceNotice} (hheard : n.hears .presence h (.presence p)) :
    n.hear .presence h = ((n.noticed h.source).presenceViewed h.source p).pairPresence h.source p := by
  obtain ⟨hreceives, hlive, hsource, hdecode⟩ := hheard
  have hpeer : (if h.source = n.lineBusy.address then n.noticed h.source else (n.noticed h.source).peerPresence h.source p)
      = (n.noticed h.source).peerPresence h.source p := if_neg hsource
  rw [Node.hear, if_pos hreceives, if_pos hlive, if_neg hsource, hdecode]
  unfold Node.presenceViewed Node.presenceRailed
  rw [← hpeer]
  unfold Node.viewStated
  rfl

section

variable {n : Node} {src : Nat} {p : PresenceNotice} {pl : Plan}

/-- Of the tables, the row view alone changes after the rail block has taken its part. -/
theorem Node.presenceEnd_retains (n : Node) (src : Nat) (p : PresenceNotice) (before : Node) :
    ∃ rows, ((n.presenceRailed src p).onPos fun q => { q with view := rows }).Retains (n.presenceEnd src p before) := by
  obtain ⟨rows, hviewed⟩ := (n.presenceRailed src p).viewStated_retains src ((n.peerPresence src p).rowStatement src p)
  exact ⟨rows, hviewed.pairPresence.conclude⟩

theorem Node.presenceRailed_leaves (n : Node) (src : Nat) (p : PresenceNotice) :
    (n.presenceStored src p).Leaves (n.presenceRailed src p) :=
  (n.peerPresence_retains src p).toLeaves.trans (Node.railPresence_leaves _ _ _)

/-- R48, R50: the entry of the sender, and every other as it was. -/
theorem Node.presenceEnd_tables (n : Node) (src : Nat) (p : PresenceNotice) (before : Node) :
    (∀ a, (n.presenceEnd src p before).peer a = if a = src then some ((n.entry src).presence n.mon.now p) else n.peer a)
      ∧ (n.presenceEnd src p before).pres = n.pres := by
  obtain ⟨rows, hretains⟩ := n.presenceEnd_retains src p before
  have hleaves := n.presenceRailed_leaves src p
  refine ⟨fun a => ?_, hretains.pres.trans hleaves.pres⟩
  rw [hretains.peer, ← n.presenceStored_peer, ← hleaves.peer]
  rfl

/-! ### The rail view (R122-R125) -/

theorem Node.presenceEnd_rail (hplan : n.pres.plan = some pl) (before : Node) :
    ((n.peerPresence src p).rejudged pl src p.stated).rail.Retains (n.presenceEnd src p before).rail := by
  obtain ⟨rows, hretains⟩ := n.presenceEnd_retains src p before
  have hstored : (n.peerPresence src p).pres.plan = some pl := by rw [(n.peerPresence_seeks src p).pres]; exact hplan
  exact (Node.railPresence_retains hstored).rail.trans hretains.rail

/-- R122: the rail view is the one that has taken the statement. -/
theorem Node.presenceEnd_view (hplan : n.pres.plan = some pl) (before : Node) :
    (n.presenceEnd src p before).rail.view = (takeStatement pl n.rail.view src p.stated).1 := by
  rw [(Node.presenceEnd_rail hplan before).view, ((n.peerPresence src p).rejudged_view pl src p.stated).1,
    (n.peerPresence_seeks src p).rail]

/-- R125: an own exchange that the view does not hold has ended. -/
theorem Node.presenceEnd_free (hplan : n.pres.plan = some pl) (before : Node) {o : OwnRecord} (hown : n.rail.own = some o)
    (hgone : ∀ x ∈ (n.presenceEnd src p before).rail.view, x.id ≠ o.id) : (n.presenceEnd src p before).rail.own = none := by
  have hrail := (n.peerPresence_seeks src p).rail
  refine (Node.presenceEnd_rail hplan before).free (((n.peerPresence src p).rejudged_view pl src p.stated).2 ?_)
  refine Node.restated_free (o := o) (by rw [hrail]; exact hown) ?_
  rw [hrail, ← Node.presenceEnd_view hplan before]
  exact hgone

/-- R124: certainty after a PRESENCE whose statement is none or broken. -/
theorem Node.presenceEnd_certain (hplan : n.pres.plan = some pl) (hlaw : n.PeerLaw) (hother : src ≠ n.address) (before : Node)
    (hst : p.stated = .omitted ∨ p.stated = .broken) (huncertain : n.rail.certain = false) (hboot : n.rail.boot = false) :
    (n.presenceEnd src p before).rail.certain = true ↔
      ∀ x ∈ n.peers.entries, x.address ≠ src → x.address ∈ n.rail.heardSince ∧ x.lastPresence.isSome = true := by
  have hseeks := n.peerPresence_seeks src p
  have hentries : (n.peerPresence src p).peers.entries = insertPeer ((n.entry src).presence n.mon.now p) n.peers.entries :=
    (n.peerPresence_retains src p).entries
  rw [(Node.presenceEnd_rail hplan before).certain, Node.rejudged_certain (by rw [hseeks.pres]; exact hplan) hst
    (by rw [Node.address, hseeks.pres]; exact hother) (by rw [hseeks.rail]; exact huncertain) (by rw [hseeks.rail]; exact hboot), hentries,
    hseeks.rail]
  simp only [mem_insertPeer_iff hlaw.1, Peer.presence_address, Node.entry_address]
  constructor
  · intro hall x hx hxsrc
    obtain ⟨hheard, hlast⟩ := hall x (.inr ⟨hx, hxsrc⟩)
    exact ⟨hheard.resolve_left hxsrc, hlast⟩
  · rintro hall x (rfl | ⟨hx, hxsrc⟩)
    · exact ⟨.inl (by rw [Peer.presence_address, Node.entry_address]), by rw [Peer.presence_lastPresence]; rfl⟩
    · exact ⟨.inr (hall x hx hxsrc).1, (hall x hx hxsrc).2⟩

/-- R122, R124: after a statement that does not fit the view is uncertain. -/
theorem Node.presenceEnd_uncertain (hplan : n.pres.plan = some pl) (before : Node)
    (hfails : (takeStatement pl n.rail.view src p.stated).2 = false) : (n.presenceEnd src p before).rail.certain = false
      ∧ (n.presenceEnd src p before).rail.certainTimer = some (n.mon.now + pl.lifetimeCount * pl.presencePeriod) := by
  have hseeks := n.peerPresence_seeks src p
  have hend := Node.presenceEnd_rail (src := src) (p := p) hplan before
  obtain ⟨huncertain, htimer⟩ := Node.rejudged_uncertain (n := n.peerPresence src p) (p := pl) (src := src) (st := p.stated)
    (by rw [hseeks.pres]; exact hplan) (by rw [hseeks.rail]; exact hfails)
  have hnow : (n.peerPresence src p).mon.now = n.mon.now := by rw [hseeks.mon]
  exact ⟨hend.certain.trans huncertain, by rw [hend.certainTimer, htimer, hnow]⟩

/-! ### The row view (R167) -/

theorem Node.presenceRailed_rows (n : Node) (src : Nat) (p : PresenceNotice) : (n.presenceRailed src p).pos.view = n.pos.view :=
  (n.presenceRailed_leaves src p).rows

theorem Node.presenceRailed_ownRow (n : Node) (src : Nat) (p : PresenceNotice) (a : Nat) : (n.presenceRailed src p).ownRow a = n.ownRow a :=
  (n.presenceRailed_leaves src p).ownRow a

/-- The Pairing Engine and the end of the step leave the row view. -/
theorem Node.presenceEnd_rows (n : Node) (src : Nat) (p : PresenceNotice) (before : Node) :
    (n.presenceEnd src p before).pos.view = (n.presenceViewed src p).pos.view :=
  ((Node.Retains.refl (n.presenceViewed src p)).pairPresence (src := src) (p := p) |>.conclude (before := before)).rows

theorem Node.presenceViewed_unnumbered (hother : src ≠ n.address) (h : p.numbered = false) :
    n.presenceViewed src p = n.presenceRailed src p := by
  rw [Node.presenceViewed, Node.rowStatement_stored hother, h]
  rfl

theorem Node.presenceViewed_numbered (hother : src ≠ n.address) (h : p.numbered = true) : n.presenceViewed src p =
    (n.presenceRailed src p).viewPresence src ⟨heldPosition p.position, heldPartner src p.partner, p.pairState⟩ := by
  rw [Node.presenceViewed, Node.rowStatement_stored hother, if_pos h]
  rfl

/-- R136, R169: the rail block's part neither begins a quiet window nor touches one. -/
theorem Node.presenceRailed_window (n : Node) (src : Nat) (p : PresenceNotice) :
    (∃ liveTimer, (n.presenceRailed src p).pos = { n.pos with liveTimer := liveTimer })
      ∨ n.pos.phase ≠ .claimWait ∧ (n.presenceRailed src p).pos.phase ≠ .claimWait := by
  have hpos := (n.peerPresence_seeks src p).pos
  unfold Node.presenceRailed
  cases hplan : (n.peerPresence src p).pres.plan with
  | none =>
    refine .inl ⟨n.pos.liveTimer, ?_⟩
    unfold Node.railPresence
    rw [hplan]
    exact hpos
  | some pl =>
    have hwindow := ((n.peerPresence src p).setRail (takeStatement pl (n.peerPresence src p).rail.view src p.stated).1).ownLeft_window false
    rw [(Node.railPresence_railOnly (st := p.stated) (src := src) hplan).eq, ← hpos]
    exact hwindow

/-- R169: the quiet window knows the conflict of a PRESENCE by what the node held before it. -/
theorem Node.presenceRailed_conflicts (hother : src ≠ n.address) {k s : Nat} (hhigh : s ≤ 6) :
    (n.presenceRailed src p).conflicts src k s = true ↔
      n.pos.phase = .claimWait ∧ n.pos.position = some k ∧ n.pos.partner ≠ some src ∧ 4 ≤ s := by
  rw [Node.conflicts_iff (by rw [Node.address, (n.presenceRailed_leaves src p).pres]; exact hother) hhigh]
  rcases n.presenceRailed_window src p with ⟨liveTimer, heq⟩ | ⟨hn, hm⟩
  · rw [heq]
  · exact iff_of_false (fun h => hm h.1) fun h => hn h.1

/-- The row view that a PRESENCE of a bonded node of the row makes of `v`; a conflict frees the record first (R167, R169). -/
def statedView (v : List PosRecord) (src k y s : Nat) (clash : Bool) : List PosRecord :=
  takeStated (if clash then setRecord v k .free else v) src k y s

theorem Node.presenceViewed_stated {v : List PosRecord} {k y : Nat} (hother : src ≠ n.address) (hnumbered : p.numbered = true)
    (hview : n.pos.view = some v) (hrow : n.ownRow src = true) (hposition : heldPosition p.position = some k)
    (hpartner : heldPartner src p.partner = some y) (hy : n.ownRow y = true) (hbond : 3 ≤ p.pairState) :
    n.presenceViewed src p =
      if (n.presenceRailed src p).conflicts src k p.pairState = true then
        ((n.presenceRailed src p).setView (statedView v src k y p.pairState true)).loseClaim
      else (n.presenceRailed src p).setView (statedView v src k y p.pairState false) := by
  have hne : y ≠ src := by
    rw [heldPartner_eq] at hpartner
    have hheld := (Option.filter_eq_some_iff.1 hpartner).2
    simp only [decide_eq_true_iff] at hheld
    exact hheld.2.2
  have hhigh := pairStateOf_le (p.numbered_iff.1 hnumbered).2.2
  rw [Node.presenceViewed_numbered hother hnumbered, hposition, hpartner,
    Node.viewPresence_stated (by rw [n.presenceRailed_rows]; exact hview) (by rw [n.presenceRailed_ownRow]; exact hrow)
      (by rw [n.presenceRailed_ownRow]; exact hy) hne (by rw [statedState_of_bond hbond hhigh]; rfl)]
  rfl

theorem statedView_moves (v : List PosRecord) (src k y : Nat) {s : Nat} (clash : Bool) (hlow : 3 ≤ s) (hhigh : s ≤ 6) :
    (statedView v src k y s clash).length = v.length ∧ (∀ j, j ≠ k → recordAt (statedView v src k y s clash) j = recordAt v j)
      ∧ ∀ r, recordAt v k = some r → recordAt (statedView v src k y s clash) k = some
          (if clash = true ∨ r.state = .free then { state := presenceState s, couple := some (min src y, max src y) }
            else if r.couple = some (min src y, max src y) ∧ 5 ≤ s then { r with state := presenceState s } else r) := by
  cases clash with
  | false => simpa [statedView] using takeStated_moves v src k y hlow hhigh
  | true =>
    obtain ⟨hlength, hothers, hsame⟩ := takeStated_moves (setRecord v k .free) src k y hlow hhigh
    refine ⟨hlength.trans (setRecord_length _ _ _), fun j hj => (hothers j hj).trans (recordAt_setRecord_other v hj _), fun r hr => ?_⟩
    rw [if_pos (.inl rfl)]
    exact hsame _ (recordAt_setRecord_same hr _)

/-- R167, R169: the row view after the PRESENCE of a bonded node of the row. -/
theorem Node.presenceViewed_rows {v : List PosRecord} {k y : Nat} (hother : src ≠ n.address) (hnumbered : p.numbered = true)
    (hview : n.pos.view = some v) (hrow : n.ownRow src = true) (hposition : heldPosition p.position = some k)
    (hpartner : heldPartner src p.partner = some y) (hy : n.ownRow y = true) (hbond : 3 ≤ p.pairState) :
    (n.presenceViewed src p).pos.view =
      some (statedView v src k y p.pairState ((n.presenceRailed src p).conflicts src k p.pairState)) := by
  rw [Node.presenceViewed_stated hother hnumbered hview hrow hposition hpartner hy hbond]
  split
  next hclash => rw [hclash]; exact ((Node.setView_retains _ _).loseClaim).rows
  next hclash => rw [Bool.not_eq_true] at hclash; rw [hclash]; exact (Node.setView_retains _ _).rows

/-! ### The bond and the claim (R156, R169) -/

theorem Node.railPresence_pairStands (n : Node) (src : Nat) (st : Stated) : n.PairStands (n.railPresence src st) := by
  cases hplan : n.pres.plan with
  | none =>
    refine .inl ?_
    unfold Node.railPresence
    rw [hplan]
  | some pl =>
    have hpair : (n.railPresence src st).pair = (n.restated pl src st).pair := by rw [(Node.railPresence_railOnly hplan).eq]
    exact ((n.setRail (takeStatement pl n.rail.view src st).1).ownLeft_pairStands false).imp hpair.trans
      fun h => ⟨hpair ▸ h.partner, hpair ▸ h.state⟩

/-- Without an own exchange none can have ended. -/
theorem Node.ownLeft_of_free {n : Node} (h : n.rail.own = none) (ordinary : Bool) : n.ownLeft ordinary = n := by
  unfold Node.ownLeft
  rw [h]

theorem Node.ownLeft_graded {n : Node} (h : n.BondGraded) (ordinary : Bool) : (n.ownLeft ordinary).BondGraded := by
  cases hown : n.rail.own with
  | none =>
    rw [Node.ownLeft_of_free hown]
    exact h
  | some o =>
    cases hgone : inView o.id n.rail.view with
    | false => exact Node.ownLeft_bondGraded hown hgone h ordinary
    | true =>
      unfold Node.ownLeft
      rw [hown]
      dsimp only
      rw [if_pos hgone]
      exact h

theorem Node.presenceRailed_bondGraded (h : n.BondGraded) : (n.presenceRailed src p).BondGraded := by
  have hpeer := Node.peerPresence_bondGraded h src p
  unfold Node.presenceRailed
  cases hplan : (n.peerPresence src p).pres.plan with
  | none =>
    unfold Node.railPresence
    rw [hplan]
    exact hpeer
  | some pl =>
    rw [(Node.railPresence_railOnly (st := p.stated) (src := src) hplan).eq]
    exact Node.ownLeft_graded (n := (n.peerPresence src p).setRail _) hpeer false

/-- A PRESENCE of another node than the partner is nothing to the Pairing Engine (R156). -/
theorem Node.pairPresence_of_other {n : Node} (h : n.pair.partner ≠ some src) (p : PresenceNotice) : n.pairPresence src p = n :=
  if_neg fun hbond => h hbond.2

theorem Node.presenceRailed_partner (h : n.pair.partner ≠ some src) : (n.presenceRailed src p).pair.partner ≠ some src := by
  rcases (n.peerPresence src p).railPresence_pairStands src p.stated with hsame | hsingle
  · rw [Node.presenceRailed, hsame, (n.peerPresence_seeks src p).partner]
    exact h
  · rw [Node.presenceRailed, hsingle.partner]
    nofun

/-- R169: the quiet window in conflict. Where what becomes of the claim leaves the partner, the step ends with it. -/
theorem Node.presenceEnd_lost (hgraded : n.BondGraded) (before : Node) {v : List PosRecord}
    (hlost : n.presenceViewed src p = ((n.presenceRailed src p).setView v).loseClaim)
    (hpartner : (n.presenceViewed src p).pair.partner ≠ some src) : (n.presenceEnd src p before).pos = (n.presenceViewed src p).pos := by
  rw [Node.presenceEnd, Node.pairPresence_of_other hpartner]
  refine Node.conclude_pos_of_graded ?_ before
  rw [hlost]
  have hviewed := Node.setView_bondGraded (Node.presenceRailed_bondGraded (src := src) (p := p) hgraded) v
  exact ((Node.Places.refl ((n.presenceRailed src p).setView v)).claimVoid.ite ((Node.Places.refl _).setPhase.onPos rfl)).graded hviewed

/-- R169: the partner that loses its claim returns to BONDED. -/
theorem Node.presenceEnd_partnerLoses (hgraded : n.BondGraded) (before : Node) {v : List PosRecord}
    (hlost : n.presenceViewed src p = ((n.presenceRailed src p).setView v).loseClaim) (hpartner : n.pair.partner ≠ some src)
    (hwindow : ∃ liveTimer, (n.presenceRailed src p).pos = { n.pos with liveTimer := liveTimer }) (hlead : n.pos.lead = false) :
    let m := n.presenceEnd src p before
    m.pos.phase = .bonded ∧ m.pos.position = none ∧ m.pos.windowTimer = none := by
  obtain ⟨liveTimer, hpos⟩ := hwindow
  have hlead' : ((n.presenceRailed src p).setView v).pos.lead = false := by rw [Node.setView_pos, hpos]; exact hlead
  have hviewed : n.presenceViewed src p = (((n.presenceRailed src p).setView v).setPhase .bonded).onPos fun q =>
      { q with position := none, windowTimer := none } := by
    rw [hlost, Node.loseClaim, hlead']
    rfl
  have hstill : (n.presenceViewed src p).pair.partner ≠ some src := by
    rw [hviewed]
    change ((n.presenceRailed src p).setView v).pair.partner ≠ _
    rw [(Node.setView_seeks _ _).partner]
    exact Node.presenceRailed_partner hpartner
  dsimp only
  rw [Node.presenceEnd_lost hgraded before hlost hstill, hviewed]
  exact ⟨rfl, rfl, rfl⟩

/-- R168, R169: the lead that loses its claim claims the lowest-numbered FREE position. -/
theorem Node.presenceEnd_leadLoses (hgraded : n.BondGraded) (before : Node) {v : List PosRecord} {j z : Nat}
    (hlost : n.presenceViewed src p = ((n.presenceRailed src p).setView v).loseClaim) (hpartner : n.pair.partner ≠ some src)
    (hwindow : ∃ liveTimer, (n.presenceRailed src p).pos = { n.pos with liveTimer := liveTimer }) (hlead : n.pos.lead = true)
    (hactive : n.pres.state = .active) (hfew : n.pos.claims < 3) (hfree : lowestFree 1 v = some j) (hz : n.pos.partner = some z) :
    let m := n.presenceEnd src p before
    m.pos.phase = .claiming ∧ m.pos.claimed = some j ∧ m.pos.position = none ∧ m.pos.claims = n.pos.claims + 1
      ∧ (.claim j z, n.mon.now + 1000) ∈ m.pos.repeats := by
  obtain ⟨liveTimer, hpos⟩ := hwindow
  have hset := Node.setView_retains (n.presenceRailed src p) v
  have hleaves := n.presenceRailed_leaves src p
  have hviewedPos : ((n.presenceRailed src p).setView v).pos = { n.pos with liveTimer := liveTimer, view := some v } := by
    rw [Node.setView_pos, hpos]
  have hnow : ((n.presenceRailed src p).setView v).mon.now = n.mon.now := hset.now.trans hleaves.now
  obtain ⟨queue, repeats, hchosen⟩ := Node.chooseClaim_claims (n := (n.presenceRailed src p).setView v) (v := v) (k := j) (y := z)
    (by rw [hset.pres]; exact (congrArg Presence.state hleaves.pres).trans hactive) (by rw [hviewedPos]) hfree (by rw [hviewedPos]; exact hz)
  have hviewed : n.presenceViewed src p = ((n.presenceRailed src p).setView v).chooseClaim := by
    rw [hlost, Node.loseClaim, Node.claimVoid, hviewedPos, if_pos hlead, if_pos hfew]
  have hstill : (n.presenceViewed src p).pair.partner ≠ some src := by
    rw [hviewed, hchosen]
    change ((n.presenceRailed src p).setView v).pair.partner ≠ _
    rw [(Node.setView_seeks _ _).partner]
    exact Node.presenceRailed_partner hpartner
  dsimp only
  rw [Node.presenceEnd_lost hgraded before hlost hstill, hviewed, hchosen, hnow, hviewedPos]
  exact ⟨rfl, rfl, rfl, rfl, List.mem_cons_self⟩

theorem Node.restated_of_free {n : Node} (hown : n.rail.own = none) (pl : Plan) (src : Nat) (st : Stated) :
    n.restated pl src st = n.setRail (takeStatement pl n.rail.view src st).1 :=
  Node.ownLeft_of_free (n := n.setRail _) hown false

/-- Without an own exchange a PRESENCE reaches, through the rail block, neither the bond nor the couple. -/
theorem Node.railPresence_of_free {n : Node} (hown : n.rail.own = none) (src : Nat) (st : Stated) :
    (n.railPresence src st).pair = n.pair ∧ (n.railPresence src st).pos = n.pos ∧ (n.Settled → (n.railPresence src st).Settled) := by
  cases hplan : n.pres.plan with
  | none =>
    unfold Node.railPresence
    rw [hplan]
    exact ⟨rfl, rfl, id⟩
  | some pl =>
    have honly := Node.railPresence_railOnly (src := src) (st := st) hplan
    rw [Node.restated_of_free hown] at honly
    refine ⟨?_, ?_, honly.settled⟩ <;> rw [honly.eq] <;> rfl

/-- A bonded node without an own exchange comes to its Pairing Engine with the bond as it stood, and with nothing to complete. -/
theorem Node.presenceViewed_bond (hsettled : n.Settled) (hbonded : n.bonded = true) (hpartner : n.pos.partner = some src)
    (hown : n.rail.own = none) :
    (∃ target, (n.presenceViewed src p).pair = { n.pair with target := target }) ∧ (n.presenceViewed src p).Settled
      ∧ (n.presenceViewed src p).address = n.address := by
  obtain ⟨peers, target, hpeer⟩ := Node.peerPresence_of_bonded hbonded src p
  have hfree : (n.peerPresence src p).rail.own = none := by rw [(n.peerPresence_seeks src p).rail]; exact hown
  obtain ⟨hpair, hpos, hend⟩ : (n.presenceRailed src p).pair = _ ∧ (n.presenceRailed src p).pos = _ ∧ _ :=
    Node.railPresence_of_free hfree src p.stated
  rw [hpeer] at hpair hpos
  replace hend : (n.presenceRailed src p).Settled := hend (by rw [hpeer]; exact hsettled)
  have hbonded' : (n.presenceRailed src p).bonded = true := by rw [Node.bonded, hpair]; exact hbonded
  have hset (v : List PosRecord) : (n.presenceRailed src p).setView v = (n.presenceRailed src p).onPos fun q => { q with view := some v } := by
    unfold Node.setView
    exact (congrArg (ite _ _) (Node.testEligible_of_bonded (n := (n.presenceRailed src p).onPos fun q => { q with view := some v }) hbonded')).trans
      (ite_self _)
  have hviewed : ∃ rows, n.presenceViewed src p = (n.presenceRailed src p).onPos fun q => { q with view := rows } := by
    have hstands : ∃ rows, n.presenceRailed src p = (n.presenceRailed src p).onPos fun q => { q with view := rows } := ⟨_, rfl⟩
    have hnone (k s : Nat) : (n.presenceRailed src p).conflicts src k s = false := by
      simp [Node.conflicts, hpos, hpartner]
    unfold Node.presenceViewed Node.viewStated
    split
    · unfold Node.viewPresence
      split
      · split
        · split
          · exact ⟨_, hset _⟩
          · split
            · rw [hnone]
              exact ⟨_, hset _⟩
            · exact hstands
          · exact hstands
        · exact hstands
      · exact hstands
    · exact hstands
  obtain ⟨rows, hviewed⟩ := hviewed
  rw [hviewed]
  exact ⟨⟨target, hpair⟩, hend, congrArg Presence.address (n.presenceRailed_leaves src p).pres⟩

/-- R156: the second PRESENCE of the partner that does not state the bond ends it; any other counts. -/
theorem Node.presenceEnd_bond (hsettled : n.Settled) (hbonded : n.bonded = true) (hpair : n.pair.partner = some src)
    (hpartner : n.pos.partner = some src) (hown : n.rail.own = none) (before : Node) :
    let m := n.presenceEnd src p before
    let denied : Prop := 1 ≤ n.pair.frames ∧ (p.pairState ≤ 2 ∨ p.partner ≠ some n.address)
    (denied → m.Single ∧ m.pair.lastCause = some 9)
    ∧ (¬denied → m.pair.state = n.pair.state ∧ m.pair.partner = some src ∧ m.pair.frames = min 2 (n.pair.frames + 1)) := by
  intro m denied
  obtain ⟨⟨target, hviewed⟩, hend, haddress⟩ := Node.presenceViewed_bond (p := p) hsettled hbonded hpartner hown
  let k : Node := (n.presenceViewed src p).onPair fun q => { q with frames := min 2 (q.frames + 1) }
  have hkpair : k.pair = { n.pair with target := target, frames := min 2 (n.pair.frames + 1) } := by
    change ({ (n.presenceViewed src p).pair with frames := _ } : Pairing) = _
    rw [hviewed]
  have hkbonded : k.bonded = true := by rw [Node.bonded, hkpair]; exact hbonded
  have hkpartner : k.pair.partner = some src := by rw [hkpair]; exact hpair
  have hcounted : (n.presenceViewed src p).pairPresence src p = if k.pair.frames = 2 ∧ k.denies p = true then k.dissolve 9 else k := by
    unfold Node.pairPresence
    exact if_pos ⟨hkbonded, hkpartner⟩
  have hdenied : (k.pair.frames = 2 ∧ k.denies p = true) ↔ denied := by
    have hkaddress : k.address = n.address := haddress
    have hframes : min 2 (n.pair.frames + 1) = 2 ↔ 1 ≤ n.pair.frames := by omega
    rw [hkpair]
    simp [Node.denies, hkaddress, hframes, denied]
  refine ⟨fun h => ?_, fun h => ?_⟩
  · have hm : m = (k.dissolve 9).conclude before := by
      change ((n.presenceViewed src p).pairPresence src p).conclude before = _
      rw [hcounted, if_pos (hdenied.2 h)]
    have hsingle := Node.dissolve_single hkbonded hkpartner 9 true true
    rw [hm]
    refine ⟨hsingle.conclude before, ?_⟩
    rw [Node.conclude_pair, (Node.takeCompletions_reports hsingle.bondGraded).lastCause]
    exact (Node.dissolve_dissolves hkbonded hkpartner 9 true true).lastCause
  · have hm : m.pair = k.pair := by
      change (((n.presenceViewed src p).pairPresence src p).conclude before).pair = _
      rw [hcounted, if_neg (fun hd => h (hdenied.1 hd)), Node.conclude_pair, Node.takeCompletions_of_settled (n := k) hend]
    rw [hm, hkpair]
    exact ⟨rfl, hpair, rfl⟩

end

end Sys2Proof.Machine
end

section
/-! PROOFS. PRESENCE of a peer by the words of its obligation (R48, R50, R122-R125, R156, R167, R169). -/

namespace Sys2Proof.Machine

section

variable {n : Node} {src : Nat} {p : PresenceNotice}

/-- R122: a whole statement at the end of the step. -/
theorem Node.presenceEnd_whole {pl : Plan} {s : Statement} (hplan : n.pres.plan = some pl) (hst : p.stated = .whole s) (before : Node) :
    let m := n.presenceEnd src p before
    let kept := keptBeside n.rail.view src s.id
    (s.units < 1 ∨ 8 < s.units → m.rail.view = n.rail.view)
      ∧ (1 ≤ s.units → s.units ≤ 8 → ∀ x, StatementFits pl n.rail.view src s x →
          ∀ y, y ∈ m.rail.view ↔ y = x ∨ y ∈ kept.filter fun y => y.id != s.id)
      ∧ (1 ≤ s.units → s.units ≤ 8 → (∀ x, ¬StatementFits pl n.rail.view src s x) → m.rail.view = kept ∧ m.rail.certain = false
          ∧ m.rail.certainTimer = some (n.mon.now + pl.lifetimeCount * pl.presencePeriod)) := by
  intro m kept
  have hview : m.rail.view = (takeStatement pl n.rail.view src (.whole s)).1 := hst ▸ Node.presenceEnd_view hplan before
  rw [hview]
  refine ⟨fun hout => ?_, fun hlow hhigh => (takeStatement_whole pl _ src hlow hhigh).1, fun hlow hhigh hnone => ?_⟩
  · rw [takeStatement, if_pos hout]
  · have htaken := (takeStatement_whole pl n.rail.view src hlow hhigh).2 hnone
    exact ⟨congrArg Prod.fst htaken, Node.presenceEnd_uncertain hplan before (by rw [hst, htaken])⟩

/-- Log entry 15: a PRESENCE outside the numberings states nothing to the row view. -/
theorem Node.presenceEnd_unnumbered (hother : src ≠ n.address) (hnumbered : p.numbered = false) (before : Node) :
    (n.presenceEnd src p before).pos.view = n.pos.view := by
  rw [Node.presenceEnd_rows, Node.presenceViewed_unnumbered hother hnumbered, Node.presenceRailed_rows]

/-- R167: a PRESENCE that states no position frees the records that its node leads. -/
theorem Node.presenceEnd_unplaced {v : List PosRecord} (hother : src ≠ n.address) (hnumbered : p.numbered = true)
    (hview : n.pos.view = some v) (hrow : n.ownRow src = true) (hposition : heldPosition p.position = none) (before : Node) :
    (n.presenceEnd src p before).pos.view = some (v.map fun r =>
      if r.couple.map Prod.fst = some src then { state := .free, couple := none } else r) := by
  rw [Node.presenceEnd_rows, Node.presenceViewed_numbered hother hnumbered, hposition,
    Node.viewPresence_unplaced (n.presenceRailed_rows src p ▸ hview) (n.presenceRailed_ownRow src p src ▸ hrow), (Node.setView_retains _ _).rows,
    freeLead_zero src v Nat.one_ne_zero]
  rfl

/-- R167: a position stated without a partner of the row, or without a bond, changes no record. -/
theorem Node.presenceEnd_idle (hother : src ≠ n.address) (hnumbered : p.numbered = true)
    (hposition : (heldPosition p.position).isSome = true)
    (hidle : ∀ y, heldPartner src p.partner = some y → n.ownRow y = false ∨ p.pairState < 3) (before : Node) :
    (n.presenceEnd src p before).pos.view = n.pos.view := by
  rw [Node.presenceEnd_rows, Node.presenceViewed_numbered hother hnumbered, Node.viewPresence_idle hposition, n.presenceRailed_rows]
  exact fun y hy => (hidle y hy).imp (n.presenceRailed_ownRow src p y).trans statedState_of_single

/-- R169: the conflict that a PRESENCE of `src` at position `k` is to the quiet window. -/
def Node.PresenceClash (n : Node) (src k s : Nat) : Prop :=
  n.pos.phase = .claimWait ∧ n.pos.position = some k ∧ n.pos.partner ≠ some src ∧ 4 ≤ s

/-- R167, R169: the PRESENCE of a bonded node of the row. -/
theorem Node.presenceEnd_couple {v : List PosRecord} {k y : Nat} (hgraded : n.BondGraded) (hother : src ≠ n.address)
    (hnumbered : p.numbered = true) (hview : n.pos.view = some v) (hrow : n.ownRow src = true)
    (hposition : heldPosition p.position = some k) (hpartner : heldPartner src p.partner = some y) (hy : n.ownRow y = true)
    (hbond : 3 ≤ p.pairState) (before : Node) :
    let m := n.presenceEnd src p before
    let couple : Nat × Nat := (min src y, max src y)
    let clash := n.PresenceClash src k p.pairState
    ∃ v', m.pos.view = some v' ∧ v'.length = v.length ∧ (∀ j, j ≠ k → recordAt v' j = recordAt v j)
      ∧ (∀ r, recordAt v k = some r →
          (clash ∨ r.state = .free → recordAt v' k = some { state := presenceState p.pairState, couple := some couple })
          ∧ (¬clash → r.state ≠ .free → r.couple = some couple →
              recordAt v' k = some (if 5 ≤ p.pairState then { r with state := presenceState p.pairState } else r))
          ∧ (¬clash → r.state ≠ .free → r.couple ≠ some couple → recordAt v' k = some r))
      ∧ (clash → n.pair.partner ≠ some src → n.pos.lead = false →
          m.pos.phase = .bonded ∧ m.pos.position = none ∧ m.pos.windowTimer = none)
      ∧ (clash → n.pair.partner ≠ some src → n.pos.lead = true → n.pres.state = .active → n.pos.claims < 3 →
          ∀ j, lowestFree 1 v' = some j → ∀ z, n.pos.partner = some z →
          m.pos.phase = .claiming ∧ m.pos.claimed = some j ∧ m.pos.position = none ∧ m.pos.claims = n.pos.claims + 1
            ∧ (.claim j z, n.mon.now + 1000) ∈ m.pos.repeats) := by
  intro m couple clash
  have hhigh := pairStateOf_le (p.numbered_iff.1 hnumbered).2.2
  have hclash := n.presenceRailed_conflicts (src := src) (p := p) hother (k := k) hhigh
  have hrows : m.pos.view = _ := (n.presenceEnd_rows src p before).trans
    (Node.presenceViewed_rows hother hnumbered hview hrow hposition hpartner hy hbond)
  have hlost (hc : clash) : (n.presenceRailed src p).conflicts src k p.pairState = true
      ∧ n.presenceViewed src p = ((n.presenceRailed src p).setView (statedView v src k y p.pairState true)).loseClaim
      ∧ ∃ liveTimer, (n.presenceRailed src p).pos = { n.pos with liveTimer := liveTimer } :=
    ⟨hclash.2 hc, (Node.presenceViewed_stated hother hnumbered hview hrow hposition hpartner hy hbond).trans (if_pos (hclash.2 hc)),
      (n.presenceRailed_window src p).resolve_right fun h => h.1 hc.1⟩
  obtain ⟨hlength, hothers, hsame⟩ := statedView_moves v src k y ((n.presenceRailed src p).conflicts src k p.pairState) hbond hhigh
  refine ⟨_, hrows, hlength, hothers, fun r hr => ?_, fun hc hfree hlead => ?_, fun hc hfree hlead hactive hfew j hj z hz => ?_⟩
  · rw [hsame r hr]
    refine ⟨fun h => ?_, fun hc hstate hcouple => ?_, fun hc hstate hcouple => ?_⟩
    · rw [if_pos (h.imp_left hclash.2)]
    · rw [if_neg (not_or.2 ⟨mt hclash.1 hc, hstate⟩)]
      simp only [hcouple, couple, true_and]
    · rw [if_neg (not_or.2 ⟨mt hclash.1 hc, hstate⟩), if_neg fun h => hcouple h.1]
  · obtain ⟨-, hviewed, hwindow⟩ := hlost hc
    exact Node.presenceEnd_partnerLoses hgraded before hviewed hfree hwindow hlead
  · obtain ⟨htrue, hviewed, hwindow⟩ := hlost hc
    rw [htrue] at hj
    exact Node.presenceEnd_leadLoses hgraded before hviewed hfree hwindow hlead hactive hfew hj hz

end

/-- Settles O15: the entry stored, then the rail view, the row view and the bond, each by its own lemma. -/
theorem presenceUpdatesEntry : Obligations.PresenceUpdatesEntry := by
  intro n w h p hsettled hpeers hpair hheard old touched numbered position partner party
  have hlive := hheard.2.1
  have hother := hheard.2.2.1
  have hexec : ∀ m, ((n.noticed h.source).presenceViewed h.source p).pairPresence h.source p = m →
      exec (.presence h) ⟨n, w⟩ = .next ⟨m.conclude n, w⟩ :=
    fun m hm => State.act_eq (f := fun n => n.hear .presence h) (by rw [Node.hear_presence hheard, hm])
  obtain ⟨railTimer, silent, pairTimer, hnoted⟩ := n.noticed_eq h.source
  rw [hnoted] at hexec
  let k : Node := { n with
    line := { n.line with state := .busy }
    rail := { n.rail with silenceTimer := railTimer }
    pair := { n.pair with silent := silent, silenceTimer := pairTimer } }
  let m : Node := k.presenceEnd h.source p n
  let e : Peer := (k.entry h.source).presence n.mon.now p
  have hgraded : k.BondGraded := Node.bondGraded_of_pairLaw hpair hlive
  obtain ⟨hpeer, hpres⟩ := k.presenceEnd_tables h.source p n
  have hposition : position = heldPosition p.position := (heldPosition_eq _).symm
  have hpartner : partner = heldPartner h.source p.partner := (heldPartner_eq _ _).symm
  have hnumbered : numbered ↔ p.numbered = true := p.numbered_iff.symm
  rw [hposition, hpartner]
  refine ⟨m, e, hexec _ rfl, ?_, hpres, fun a ha => ?_, fun ns hns gs hgs ps hps => ?_, fun hout => ?_, fun pl hplan => ?_, fun hout => ?_,
    fun v hview hrow hin => ?_, fun hbonded hheld hcouple hown => ?_⟩
  · rw [hpeer, if_pos rfl]
  · rw [hpeer, if_neg ha]
    rfl
  · have hheld : heldPartner (k.entry h.source).address p.partner = heldPartner h.source p.partner := by rw [k.entry_address]
    change (k.entry h.source).presence n.mon.now p = _
    rw [Peer.presence_of_numbered hns hgs hps, hheld]
    rfl
  · exact Peer.presence_of_not_numbered (Bool.not_eq_true _ ▸ mt hnumbered.2 hout) _ _
  · have hrail : m.rail.view = (takeStatement pl n.rail.view h.source p.stated).1 := Node.presenceEnd_view (n := k) hplan n
    refine ⟨fun hst => ?_, fun hst => ?_, fun s hst => Node.presenceEnd_whole (n := k) hplan hst n,
      fun o hown => Node.presenceEnd_free (n := k) hplan n hown, Node.presenceEnd_certain (n := k) hplan hpeers hother n⟩ <;>
      rw [hrail, hst] <;> rfl
  · exact Node.presenceEnd_unnumbered (n := k) hother (Bool.not_eq_true _ ▸ mt hnumbered.2 hout) n
  · have hin := hnumbered.1 hin
    refine ⟨fun hk => Node.presenceEnd_unplaced (n := k) hother hin hview hrow hk n, fun j hj hnone => ?_, fun j hj y hy => ⟨fun hidle => ?_,
      fun hyrow hbond => Node.presenceEnd_couple (n := k) hgraded hother hin hview hrow hj hy hyrow hbond n⟩⟩
    · rw [← hview]
      exact Node.presenceEnd_idle (n := k) hother hin (by rw [hj]; rfl) (fun y hy => by rw [hnone] at hy; cases hy) n
    · rw [← hview]
      exact Node.presenceEnd_idle (n := k) hother hin (by rw [hj]; rfl) (fun z hz => by rw [hy] at hz; cases hz; exact hidle) n
  · obtain ⟨hdenied, hstands⟩ := Node.presenceEnd_bond (n := k) (p := p) hsettled hbonded hheld hcouple hown n
    exact ⟨fun h => ⟨(hdenied h).1.partner, (hdenied h).1.state, (hdenied h).2⟩, hstands⟩

end Sys2Proof.Machine
end

section
/-! PROOFS. Rest readings (R66, R67), and the settled report of the Position Manager with its check (R170-R173). -/

namespace Sys2Proof.Machine

/-! ### The reading of a completed watch (R66, R67) -/

/-- R67: the reading that is formed is that of the average voltage. -/
theorem Node.restReading_of_average {n : Node} {v : Nat} (h : n.average = some v) : n.restReading = some (n.readingOf v) := by
  rw [Node.restReading, h]
  rfl

theorem Node.formReading_of_average {n : Node} {v : Nat} (h : n.average = some v) :
    n.formReading = n.onMon fun m => { m with reading := some (n.readingOf v) } := by
  rw [Node.formReading, Node.restReading_of_average h]

/-- R66: a watch that a sample set has seen is due once the rest has lasted its duration. -/
theorem Monitor.due_of_rested {m : Monitor} {d : Nat} (h : d ≤ m.rest) : m.due (some { duration := d, sampled := true }) = true := by
  simpa [Monitor.due] using h

/-- The node whose Position Manager is handed a reading, its watch closed (R66). -/
def Node.positionRested (n : Node) (v : Nat) : Node :=
  { n with mon := { n.mon with reading := some (n.readingOf v), watchPosition := none } }

/-- The node whose Grade Engine is handed a reading, its watch closed (R66). -/
def Node.gradeRested (n : Node) (v : Nat) : Node :=
  { n with mon := { n.mon with reading := some (n.readingOf v), watchGrade := none } }

theorem Node.positionWatchComplete_eq {n : Node} {d v : Nat} (hwatch : n.mon.watchPosition = some { duration := d, sampled := true })
    (hrest : d ≤ n.mon.rest) (haverage : n.average = some v) :
    n.positionWatchComplete = (n.positionRested v).settledReport (n.readingOf v) := by
  unfold Node.positionWatchComplete
  rw [hwatch, if_pos (Monitor.due_of_rested hrest), Node.restReading_of_average haverage, Node.formReading_of_average haverage]
  rfl

theorem Node.gradeWatchComplete_eq {n : Node} {d v : Nat} (hwatch : n.mon.watchGrade = some { duration := d, sampled := true })
    (hrest : d ≤ n.mon.rest) (haverage : n.average = some v) :
    n.gradeWatchComplete = (n.gradeRested v).gradeReading (n.readingOf v) := by
  unfold Node.gradeWatchComplete
  rw [hwatch, if_pos (Monitor.due_of_rested hrest), Node.restReading_of_average haverage, Node.formReading_of_average haverage]
  rfl

/-! ### The settled report handed (R170) -/

/-- The node in REPORTED with its settled report handed (R170, log entry 19). -/
def Node.reporting (n : Node) (k : Nat) (soc : Option Nat) : Node := (n.setPhase .reported).handPos (.engage k 0 soc)

theorem Node.settledReport_eq {n : Node} {k : Nat} (hlive : n.live = true) (hphase : n.pos.phase = .settleWait)
    (hposition : n.pos.position = some k) (r : RestReading) : n.settledReport r = (n.reporting k r.soc).check := by
  unfold Node.settledReport
  rw [if_pos ⟨hlive, hphase⟩, hposition]
  rfl

theorem Node.reporting_eq {n : Node} (hphase : n.pos.phase = .settleWait) (k : Nat) (soc : Option Nat) : n.reporting k soc = { n with
    line := { n.line with queue := n.offered (noticeOf .engage 122
      [(0, .num k), (1, .num 0), (2, optFig (soc.map fun x => formFig .soc x)), (3, .notKnown)]) }
    pos := { n.pos with phase := .reported, repeats := [(.engage k 0 soc, n.mon.now + 1000)] } } := by
  have hnew : n.setPhase .reported = { n with pos := { n.pos with phase := .reported, repeats := [] } } := by
    rw [Node.setPhase_eq, hphase]
    rfl
  rw [Node.reporting, Node.handPos_eq, hnew]
  change ({ n with line := { n.line with queue := (Node.hand _ _ _).line.queue }, pos := _ } : Node) = _
  rw [Node.hand_offered]
  rfl

/-- R170: without both reports there is no check. -/
theorem Node.check_of_missing {n : Node} (h : n.pos.ownReport = none ∨ n.pos.partnerReport = none) : n.check = n := by
  rcases h with h | h
  · unfold Node.check
    rw [h]
    split
    next hown _ => cases hown
    next => rfl
  · exact Node.check_of_unready (.inr h)

/-- R170-R173: whatever follows the check, the last rest reading stands. -/
theorem Node.check_reading (n : Node) : n.check.mon.reading = n.mon.reading := by
  have htransfer (m : Node) (p : Plan) (dv : Int) : (m.beginTransfer p dv).mon.reading = m.mon.reading := by
    unfold Node.beginTransfer
    dsimp only
    split
    · rw [Node.beginRequest_eq]
      rfl
    · rfl
  have hengage (m : Node) : m.beginEngage.mon.reading = m.mon.reading := by
    unfold Node.beginEngage Node.closeContactor
    dsimp only
    split
    · rw [Node.abortSelfRest_eq]
      rfl
    · rfl
  have hround (m : Node) : m.beginRound.mon.reading = m.mon.reading := by
    unfold Node.beginRound
    split <;> rfl
  have hfail (m : Node) : m.equalizeFail.mon.reading = m.mon.reading := by
    rw [Node.equalizeFail, Node.reportFault_eq]
    exact (congrArg Monitor.reading ((Node.Keeps.refl .tag m).dissolve (cause := unbindEqualize) (send := true) (release := true)).mon).trans rfl
  unfold Node.check
  split
  · split
    · extract_lets dv n1
      split
      · split
        · exact hengage n1
        · exact hround n1
      · split
        · exact htransfer n1 _ _
        · unfold Node.countAttempt
          extract_lets n2
          split
          · exact hfail n2
          · exact htransfer n2 _ _
    · rfl
  · rfl

/-! ### REST_WATCH_COMPLETE of the Position Manager -/

/-- R170: a member without both reports waits in REPORTED, and repeats its own. -/
theorem Node.positionWatch_reports {n : Node} {d v k : Nat} (hsettled : n.Settled)
    (hwatch : n.mon.watchPosition = some { duration := d, sampled := true }) (hrest : d ≤ n.mon.rest) (haverage : n.average = some v)
    (hposition : n.pos.position = some k) (hlive : n.live = true) (hphase : n.pos.phase = .settleWait)
    (hmissing : n.pos.ownReport = none ∨ n.pos.partnerReport = none) :
    n.positionWatchComplete.conclude n = ((n.positionRested v).reporting k (n.readingOf v).soc).rebuildPresence := by
  have hnode := Node.reporting_eq (n := n.positionRested v) hphase k (n.readingOf v).soc
  have hend : ((n.positionRested v).reporting k (n.readingOf v).soc).Settled := by
    rw [hnode]
    exact hsettled
  have hphaseEnd : ((n.positionRested v).reporting k (n.readingOf v).soc).pos.phase = .reported := by rw [hnode]
  rw [Node.positionWatchComplete_eq hwatch hrest haverage,
    Node.settledReport_eq (n := n.positionRested v) hlive hphase hposition, Node.check_of_missing (by rw [hnode]; exact hmissing),
    Node.conclude_of_settled n hend]
  refine if_neg fun hmark => ?_
  have hmoved : Phase.reported = n.pos.phase := hphaseEnd.symm.trans (congrArg PresenceMark.phase hmark)
  rw [hphase] at hmoved
  cases hmoved

/-- The phase that follows the check of both reports, and what else of it stands at the end of the step (R170-R173). -/
theorem Node.positionWatch_checks {n : Node} {d v k a b : Nat} {p : Plan} {f : Profile} (hpair : n.PairLaw)
    (hwatch : n.mon.watchPosition = some { duration := d, sampled := true }) (hrest : d ≤ n.mon.rest) (haverage : n.average = some v)
    (hposition : n.pos.position = some k) (hlive : n.live = true) (hphase : n.pos.phase = .settleWait) (hplan : n.pres.plan = some p)
    (hprofile : n.profile = some f) (hown : n.pos.ownReport = some a) (hpartner : n.pos.partnerReport = some b) :
    let m := n.positionWatchComplete.conclude n
    m.pos.ownReport = none ∧ m.pos.partnerReport = none ∧ m.mon.reading = some (n.readingOf v)
      ∧ ((f.reportGap a b).natAbs ≤ p.joinWindow → n.pres.state ≠ .active →
          m.pos.phase = .settleWait ∧ m.mon.watchPosition = some { duration := p.joinSettle * 1000, sampled := false })
      ∧ ((f.reportGap a b).natAbs ≤ p.joinWindow → n.pres.state = .active → m.pos.phase = .engaging)
      ∧ (p.joinWindow < (f.reportGap a b).natAbs → n.pos.firstCheck = true ∨ n.pos.attempts < 2 → m.pos.phase = .transfer) := by
  intro m
  obtain ⟨r, hr⟩ : ∃ r, (n.positionRested v).reporting k (n.readingOf v).soc = r := ⟨_, rfl⟩
  have hevent : n.positionWatchComplete = r.check := by
    rw [Node.positionWatchComplete_eq hwatch hrest haverage, Node.settledReport_eq (n := n.positionRested v) hlive hphase hposition, hr]
  have hnode := Node.reporting_eq (n := n.positionRested v) hphase k (n.readingOf v).soc
  rw [hr] at hnode
  have hrplan : r.pres.plan = some p := by rw [hnode]; exact hplan
  have hrprofile : r.profile = some f := by rw [hnode]; exact hprofile
  have hrown : r.pos.ownReport = some a := by rw [hnode]; exact hown
  have hrpartner : r.pos.partnerReport = some b := by rw [hnode]; exact hpartner
  have hrphase : r.pos.phase = .reported := by rw [hnode]
  have hgraded : r.BondGraded := by rw [hnode]; exact Node.bondGraded_of_pairLaw hpair hlive
  have hactive : r.active = n.active := by rw [hnode]; rfl
  have hchecked : r.check.BondGraded := (Node.Places.refl r).check.graded hgraded
  have hmpos : m.pos = r.check.pos := by
    change (n.positionWatchComplete.conclude n).pos = _
    rw [hevent, Node.conclude_pos_of_graded hchecked]
  have hmwatch : m.mon.watchPosition = r.check.mon.watchPosition := by
    change (n.positionWatchComplete.conclude n).mon.watchPosition = _
    rw [hevent, Node.conclude_mon, (Node.takeCompletions_reports hchecked).watch]
  have hmreading : m.mon.reading = some (n.readingOf v) := by
    have hend := (Node.Keeps.refl .gradeFail r.check).conclude (before := n)
    change (n.positionWatchComplete.conclude n).mon.reading = _
    rw [hevent, hend.mon]
    exact r.check_reading.trans (by rw [hnode]; rfl)
  obtain ⟨hnoOwn, hnoPartner⟩ := Node.check_reports hrplan hrprofile hrown hrpartner hrphase
  have hcheck := Node.check_of_reports hrplan hrprofile hrown hrpartner hrphase
  rw [hmpos, hmwatch]
  refine ⟨hnoOwn, hnoPartner, hmreading, fun hnear hidle => ?_, fun hnear hstate => ?_, fun hfar hfew => ?_⟩
  · rw [hcheck, if_pos hnear, hactive, if_neg (by simpa [Node.active] using hidle), Node.beginRound_of_plan (n := r.compared) hrplan]
    exact ⟨rfl, rfl⟩
  · rw [hcheck, if_pos hnear, hactive, if_pos (by simpa [Node.active] using hstate)]
    cases hlead : r.compared.pos.lead with
    | true => exact (Node.beginEngage_lead hlead).1
    | false => exact (Node.beginEngage_partner hlead).1
  · rw [hcheck, if_neg (Nat.not_le_of_lt hfar)]
    split
    · exact (r.compared.beginTransfer_spec p _).1
    next hlater =>
      have hfirst : r.pos.firstCheck = n.pos.firstCheck := by rw [hnode]; rfl
      have hattempts : r.compared.pos.attempts = n.pos.attempts := (show r.pos.attempts = n.pos.attempts by rw [hnode]; rfl)
      rw [hfirst] at hlater
      rw [Node.countAttempt_of_few (by rw [hattempts]; exact hfew.resolve_left hlater)]
      exact (Node.beginTransfer_spec _ p _).1

/-- Settles O25: the report handed, the check where both reports are held, and the reading at a whole minute of rest. -/
theorem positionRestAndMinuteReadings : Obligations.PositionRestAndMinuteReadings := by
  intro n w v hsettled haverage
  refine ⟨fun d k hwatch hrest hposition hlive hphase hmissing => ?_,
    fun d k hwatch hrest hposition hlive hphase hpair p hplan f hprofile a hown b hpartner => ?_, fun hpositive hminute => ?_⟩
  · refine State.act_eq (f := Node.positionWatchComplete) ?_
    rw [Node.positionWatch_reports hsettled hwatch hrest haverage hposition hlive hphase hmissing,
      Node.reporting_eq (n := n.positionRested v) hphase]
    rfl
  · exact ⟨_, rfl, Node.positionWatch_checks hpair hwatch hrest haverage hposition hlive hphase hplan hprofile hown hpartner⟩
  · refine State.act_eq (f := Node.periodicRestReading) ?_
    rw [Node.periodicRestReading, if_pos ⟨hpositive, hminute⟩, Node.formReading_of_average haverage]
    exact Node.conclude_of_mark hsettled rfl

end Sys2Proof.Machine
end

section
/-! PROOFS. The levels under PROTECT (R78, R84, R86-R88): what their operations leave of the other blocks, the suspension and the
resumption here, and a ramp-down complete. -/

namespace Sys2Proof.Machine

/-! ### What the levels leave of the other blocks -/

/-- Every block stands but the Duty Level Controller, the transmit queue and the notices of the Rail Allocator under repeat. -/
def Node.Drives (n m : Node) : Prop := m = { n with
  line := { n.line with queue := m.line.queue }, duty := m.duty, rail := { n.rail with repeats := m.rail.repeats } }

namespace Node.Drives

variable {n m : Node}

theorem refl (n : Node) : n.Drives n := rfl

theorem trans {k : Node} (h : n.Drives m) (hk : m.Drives k) : n.Drives k := by
  unfold Node.Drives at *
  rw [hk, h]

theorem ite {c : Prop} [Decidable c] {a b : Node} (ha : n.Drives a) (hb : n.Drives b) : n.Drives (if c then a else b) := by
  split
  · exact ha
  · exact hb

theorem onDuty {f : Duty → Duty} (h : n.Drives m) : n.Drives (m.onDuty f) := h.trans rfl

theorem handRail {x : RailNotice} (h : n.Drives m) : n.Drives (m.handRail x) := h.trans (by rw [Node.handRail_eq]; rfl)

theorem localSuspension {id : Option Nat} (h : n.Drives m) : n.Drives (m.localSuspension id) := by
  unfold Node.localSuspension
  split
  · exact h.handRail.ite h
  · exact h

theorem localResumption {id : Option Nat} (h : n.Drives m) : n.Drives (m.localResumption id) := by
  unfold Node.localResumption
  split
  · exact h.handRail.ite h
  · exact h

theorem suspendHere {i : LevelId} (h : n.Drives m) : n.Drives (m.suspendHere i) := h.onDuty.localSuspension.ite h

theorem resumeHere {i : LevelId} (h : n.Drives m) : n.Drives (m.resumeHere i) := h.onDuty.localResumption.ite h

theorem accept {i : LevelId} {r : LevelRequest} (h : n.Drives m) : n.Drives (m.accept i r) := by
  unfold Node.accept
  extract_lets n1 n2
  have h2 : n.Drives n2 := h.onDuty.onDuty.ite h.onDuty
  exact (h2.suspendHere.ite h2).ite h.onDuty

theorem takeKept {i : LevelId} (h : n.Drives m) : n.Drives (m.takeKept i) := by
  unfold Node.takeKept
  split
  · exact h.onDuty.accept
  · exact h

theorem rampDown (h : n.Drives m) : n.Drives m.rampDown := by
  unfold Node.rampDown
  refine onDuty ?_
  split
  · exact h.onDuty.takeKept.ite h
  · exact h

theorem settle {old : Option LevelId} (h : n.Drives m) : n.Drives (m.settle old) := h.ite (h.onDuty.rampDown.ite h.onDuty)

theorem endLevel {i : LevelId} (h : n.Drives m) : n.Drives (m.endLevel i) := by
  unfold Node.endLevel
  split
  · exact h.onDuty.settle
  · exact h.onDuty.settle
  · exact h.onDuty.settle
  · exact h
  · exact h

theorem requestProtect (h : n.Drives m) : n.Drives m.requestProtect := by
  have hsuspended : n.Drives (exchangeLevels.foldl Node.suspendHere
      (m.onDuty fun d => d.put .protect { Level.empty with state := .ready })) := suspendHere (suspendHere (suspendHere h.onDuty))
  exact h.ite (settle (hsuspended.onDuty.ite hsuspended))

theorem releaseProtect (h : n.Drives m) : n.Drives m.releaseProtect :=
  (settle (resumeHere (resumeHere (resumeHere h.onDuty)))).ite h

/-- Nothing that a queued PRESENCE is rebuilt for has changed. -/
theorem mark (h : n.Drives m) : m.mark = n.mark := by
  rw [h]
  rfl

end Node.Drives

/-! ### Suspension and resumption here (R84, R86) -/

@[simp] theorem Duty.put_get_self (d : Duty) (i : LevelId) : d.put i (d.get i) = d := by cases i <;> rfl

theorem Node.localSuspension_duty (n : Node) (id : Option Nat) : (n.localSuspension id).duty = n.duty := by
  unfold Node.localSuspension
  split
  · split
    · rw [Node.handRail_eq]
    · rfl
  · rfl

theorem Node.localResumption_duty (n : Node) (id : Option Nat) : (n.localResumption id).duty = n.duty := by
  unfold Node.localResumption
  split
  · split
    · rw [Node.handRail_eq]
    · rfl
  · rfl

/-- An exchange level after the request for PROTECT (R84). -/
def Level.suspendedHere (l : Level) : Level :=
  if l.state = .ready ∨ l.state = .running ∨ (l.state = .suspended ∧ l.heldHere = false)
  then { l with state := .suspended, heldHere := true } else l

/-- An exchange level after the release of PROTECT (R86). -/
def Level.resumedHere (l : Level) : Level :=
  if l.state = .suspended ∧ l.heldHere = true then { l with heldHere := false, resumeOut := true } else l

theorem Node.suspendHere_duty (n : Node) (i : LevelId) : (n.suspendHere i).duty = n.duty.upd i Level.suspendedHere := by
  unfold Node.suspendHere Duty.upd Level.suspendedHere
  dsimp only
  split
  · rw [Node.localSuspension_duty]
    rfl
  · rw [Duty.put_get_self]

theorem Node.resumeHere_duty (n : Node) (i : LevelId) : (n.resumeHere i).duty = n.duty.upd i Level.resumedHere := by
  unfold Node.resumeHere Duty.upd Level.resumedHere
  dsimp only
  split
  · rw [Node.localResumption_duty]
    rfl
  · rw [Duty.put_get_self]

/-- The levels with the exchange levels changed alike. -/
def Duty.updExchange (d : Duty) (f : Level → Level) : Duty := ((d.upd .join f).upd .serve f).upd .test f

theorem Node.suspendAll_duty (n : Node) : (exchangeLevels.foldl Node.suspendHere n).duty = n.duty.updExchange Level.suspendedHere := by
  simp only [exchangeLevels, List.foldl_cons, List.foldl_nil, Node.suspendHere_duty]
  rfl

theorem Node.resumeAll_duty (n : Node) : (exchangeLevels.foldl Node.resumeHere n).duty = n.duty.updExchange Level.resumedHere := by
  simp only [exchangeLevels, List.foldl_cons, List.foldl_nil, Node.resumeHere_duty]
  rfl

theorem Duty.get_updExchange (d : Duty) (f : Level → Level) (i : LevelId) :
    (d.updExchange f).get i = if i.isExchange then f (d.get i) else d.get i := by cases i <;> rfl

@[simp] theorem Duty.updExchange_conv (d : Duty) (f : Level → Level) : (d.updExchange f).conv = d.conv := rfl
@[simp] theorem Duty.updExchange_reports (d : Duty) (f : Level → Level) : (d.updExchange f).reports = d.reports := rfl

/-- No level is made to end by a suspension. -/
theorem Level.suspendedHere_ending {l : Level} (h : l.suspendedHere.state = .ending) : l.state = .ending := by
  unfold Level.suspendedHere at h
  split at h
  · cases h
  · exact h

theorem Level.resumedHere_state (l : Level) : l.resumedHere.state = l.state := by
  unfold Level.resumedHere
  split <;> rfl

/-! ### Ramp-down complete (R78) -/

/-- A ramp-down complete that ends no exchange level: the levels that were not ENDING are handed over as they stand, and what is
reported is the end of an ENDING holder. -/
structure Duty.Ramps (d d' : Duty) : Prop where
  get : ∀ i, (d.get i).state ≠ .ending → d'.get i = d.get i
  conv : d'.conv = d.conv
  reports : ∀ c ∈ d'.reports, c ∈ d.reports ∨ d.conv.holder = some c.level ∧ (d.get c.level).state = .ending
  same : (∀ i, d.conv.holder = some i → (d.get i).state ≠ .ending) → d' = d

theorem Node.rampDown_ramps {n : Node} (h : ∀ i, n.duty.conv.holder = some i → (n.duty.get i).state = .ending → i.isExchange = false) :
    ∃ d, n.rampDown = n.onDuty (fun _ => d.handOver) ∧ n.duty.Ramps d := by
  have hstands : ∃ d, n.onDuty Duty.handOver = n.onDuty (fun _ => d.handOver) ∧ n.duty.Ramps d :=
    ⟨n.duty, rfl, fun _ _ => rfl, rfl, fun c hc => .inl hc, fun _ => rfl⟩
  unfold Node.rampDown
  cases hholder : n.duty.conv.holder with
  | none => exact hstands
  | some i =>
    dsimp only
    by_cases hending : (n.duty.get i).state = .ending
    case neg =>
      rw [if_neg hending]
      exact hstands
    rw [if_pos hending]
    obtain ⟨hempty, hothers, hconv⟩ := n.duty.finish_spec i ((n.duty.get i).cause.getD .ended)
    have hreports : ∀ c ∈ (n.duty.finish i ((n.duty.get i).cause.getD .ended)).reports,
        c ∈ n.duty.reports ∨ n.duty.conv.holder = some c.level ∧ (n.duty.get c.level).state = .ending := by
      intro c hc
      simp only [Duty.finish] at hc
      split at hc
      · rcases List.mem_append.1 hc with hold | hnew
        · exact .inl hold
        · obtain rfl := List.mem_singleton.1 hnew
          exact .inr ⟨hholder, hending⟩
      · exact .inl hc
    have hended : n.duty.Ramps (n.duty.finish i ((n.duty.get i).cause.getD .ended)) :=
      ⟨fun j hj => hothers j fun hji => hj (hji ▸ hending), hconv, hreports, fun hnone => absurd hending (hnone i hholder)⟩
    unfold Node.takeKept
    split
    next r hr =>
      refine ⟨((n.duty.finish i ((n.duty.get i).cause.getD .ended)).keep i none).put i r.level, ?_, fun j hj => ?_, ?_, ?_,
        fun hnone => absurd hending (hnone i hholder)⟩
      · unfold Node.accept
        rw [if_neg (by simp [h i hholder hending])]
        rfl
      · have hji : j ≠ i := fun hji => hj (hji ▸ hending)
        rw [Duty.get_put_other _ _ hji, Duty.get_keep, hothers j hji]
      · rw [Duty.put_conv, Duty.keep_conv, hconv]
      · rw [Duty.put_reports, Duty.keep_reports]
        exact hreports
    next => exact ⟨_, rfl, hended⟩

/-- The setpoint's going to 0 under such a holder (R78). -/
theorem Node.dropSetpoint_ramps {n : Node} (h : ∀ i, n.duty.conv.holder = some i → (n.duty.get i).state = .ending → i.isExchange = false) :
    n.dropSetpoint = n.onDuty (fun d => d.setpoint 0)
      ∨ ∃ d, n.dropSetpoint = n.onDuty (fun _ => d.handOver) ∧ (n.duty.setpoint 0).Ramps d := by
  by_cases hidle : n.duty.conv.actual = 0
  · rw [Node.dropSetpoint_of_idle hidle]
    exact .inr (Node.rampDown_ramps (n := n.onDuty fun d => d.setpoint 0) fun i hi hending => h i hi (by
      rwa [Node.onDuty_duty, Duty.get_setpoint] at hending))
  · exact .inl (Node.dropSetpoint_of_moving hidle)

/-- A change of owner with no ENDING holder lets the new owner run, where it is READY, and reports nothing (R78). -/
theorem Node.settle_of_notEnding {n : Node} (h : n.notEnding) (old : Option LevelId) :
    (n.settle old).duty.reports = n.duty.reports
      ∧ ∀ i, (n.duty.get i).state ≠ .ready → (n.settle old).duty.get i = n.duty.get i := by
  by_cases howner : n.duty.owner = old
  · rw [Node.settle_of_owner howner]
    exact ⟨rfl, fun _ _ => rfl⟩
  · rw [Node.settle_of_ne howner]
    rcases Node.dropSetpoint_ramps (fun i hi hending => absurd hending (h i hi)) with hmoving | ⟨d, hidle, hramps⟩
    · rw [hmoving]
      exact ⟨rfl, fun i _ => n.duty.get_setpoint 0 i⟩
    · obtain rfl : d = n.duty.setpoint 0 := hramps.same fun i hi => by
        rw [Duty.get_setpoint]
        exact h i hi
      rw [hidle]
      refine ⟨Duty.handOver_reports _, fun i hi => ?_⟩
      rw [Node.onDuty_duty, Duty.handOver_get, Duty.get_setpoint, if_neg fun hready => hi hready.2]

/-! ### LIMIT_CLEAR_EXPIRY (R70, R86, R179) -/

/-- R86, R87: PROTECT becomes EMPTY, the levels that it held alone wait for their own RESUME, and nothing is reported. -/
theorem Node.releaseProtect_levels {n : Node} (hreports : n.duty.reports = []) (hnot : n.notEnding) :
    n.releaseProtect.duty.reports = []
      ∧ (n.duty.protect.state = .ready ∨ n.duty.protect.state = .running →
        n.releaseProtect.duty.protect.state = .empty ∧ ∀ i : LevelId, i.isExchange = true → (n.duty.get i).state = .suspended →
          (n.duty.get i).heldHere = true → n.releaseProtect.duty.get i = { n.duty.get i with heldHere := false, resumeOut := true }) := by
  unfold Node.releaseProtect
  split
  case isFalse hstands => exact ⟨hreports, fun h => absurd h hstands⟩
  case isTrue =>
    obtain ⟨freed, hfreed⟩ : ∃ m, exchangeLevels.foldl Node.resumeHere (n.onDuty fun d => d.put .protect .empty) = m := ⟨_, rfl⟩
    have hduty : freed.duty = (n.duty.put .protect .empty).updExchange Level.resumedHere := by
      rw [← hfreed, Node.resumeAll_duty]
      rfl
    have hstate (i : LevelId) (hi : i ≠ .protect) : (freed.duty.get i).state = (n.duty.get i).state := by
      rw [hduty, Duty.get_updExchange, Duty.get_put_other _ _ hi]
      split
      · exact Level.resumedHere_state _
      · rfl
    have hempty : freed.duty.get .protect = .empty := by
      rw [hduty]
      rfl
    have hnone : freed.notEnding := by
      intro i hi
      rw [hduty, Duty.updExchange_conv, Duty.put_conv] at hi
      by_cases hprotect : i = .protect
      · rw [hprotect, hempty]
        exact nofun
      · rw [hstate i hprotect]
        exact hnot i hi
    rw [hfreed]
    obtain ⟨hsame, hget⟩ := Node.settle_of_notEnding hnone n.duty.owner
    refine ⟨?_, fun _ => ⟨?_, fun i hi hsuspended hheld => ?_⟩⟩
    · rw [hsame, hduty, Duty.updExchange_reports, Duty.put_reports, hreports]
    · change ((freed.settle n.duty.owner).duty.get .protect).state = .empty
      rw [hget .protect (by rw [hempty]; exact nofun), hempty]
      rfl
    · have hprotect : i ≠ .protect := fun h => by rw [h] at hi; cases hi
      rw [hget i (by rw [hstate i hprotect, hsuspended]; exact nofun), hduty, Duty.get_updExchange, if_pos hi,
        Duty.get_put_other _ _ hprotect, Level.resumedHere, if_pos ⟨hsuspended, hheld⟩]

/-- Settles O21: PROTECT is released without a report, and after HARD the LIMIT entry latched. -/
theorem limitClearReleasesProtect : Obligations.LimitClearReleasesProtect := by
  intro n w hsettled htimer hnot
  obtain ⟨hreports, htest⟩ := hsettled
  let cleared : Node := n.onMon fun m => { m with limit := .clear, clearTimer := none }
  obtain ⟨hnone, hheld⟩ := Node.releaseProtect_levels (n := cleared) hreports hnot
  have hdrives : cleared.Drives cleared.releaseProtect := (Node.Drives.refl cleared).releaseProtect
  obtain ⟨freed, hfreed⟩ : ∃ m, cleared.releaseProtect = m := ⟨_, rfl⟩
  rw [hfreed] at hnone hheld hdrives
  have hevent : n.limitClearExpiry = if n.mon.limit = .hard then freed.latchFault .limit else freed := by
    rw [Node.limitClearExpiry, if_pos htimer, ← hfreed]
  have hblocks : n.limitClearExpiry = { freed with serv := n.limitClearExpiry.serv }
      ∧ n.limitClearExpiry.serv.faults = if n.mon.limit = .hard
        then n.serv.faults.map (fun e => if e.code = .limit then { e with active := false } else e) else n.serv.faults := by
    rw [hevent]
    split
    · rw [Node.latchFault_eq, hdrives]
      exact ⟨rfl, rfl⟩
    · rw [hdrives]
      exact ⟨rfl, rfl⟩
  obtain ⟨hnode, hfaults⟩ := hblocks
  have hend : n.limitClearExpiry.Settled := by
    rw [hnode, Node.Settled, hdrives]
    exact ⟨hnone, htest⟩
  refine ⟨n.limitClearExpiry.conclude n, rfl, ?_⟩
  rw [Node.conclude_of_settled n hend, Node.withPresence_eq]
  dsimp only
  rw [hfaults, hnode]
  dsimp only
  rw [hdrives]
  refine ⟨rfl, fun hprotect => ?_, rfl, rfl, rfl, rfl, rfl, rfl, rfl⟩
  obtain ⟨hempty, hlevels⟩ := hheld hprotect
  refine ⟨hempty, fun i hi hsuspended hhere => ?_⟩
  change (freed.duty.get i).state = _ ∧ (freed.duty.get i).heldHere = _ ∧ (freed.duty.get i).resumeOut = _
  rw [hlevels i (by rcases hi with rfl | rfl | rfl <;> rfl) hsuspended hhere]
  exact ⟨hsuspended, rfl, rfl⟩

end Sys2Proof.Machine
end

section
/-! PROOFS. A JOIN withdrawn, the steps of leaving and the hard path of a limit breach (R135, R175, R176): what they leave of the other
blocks, and what the limit tests leave of the measurements (R69, R70). -/

namespace Sys2Proof.Machine

/-! ### A JOIN withdrawn, and the steps of leaving (R135, R175, R176) -/

/-- What the withdrawal of a JOIN leaves: the Rail Allocator's offer, wait count and test, and every other block but the transmit queue,
the levels and the timer of the live reports. -/
structure Node.Recalls (n m : Node) : Prop where
  eq : m = { n with line := { n.line with queue := m.line.queue }, duty := m.duty, rail := m.rail
                    pos := { n.pos with liveTimer := m.pos.liveTimer } }
  held : m.rail.held = n.rail.held
  wait : n.rail.wait = 0 → m.rail.wait = 0
  ordinary : m.rail.testOrdinary = n.rail.testOrdinary
  ended : m.rail.testEnded = n.rail.testEnded

namespace Node.Recalls

variable {n m : Node}

theorem refl (n : Node) : n.Recalls n := ⟨rfl, rfl, id, rfl, rfl⟩

theorem trans {k : Node} (h : n.Recalls m) (hk : m.Recalls k) : n.Recalls k where
  eq := by rw [hk.eq, h.eq]
  held := hk.held.trans h.held
  wait := hk.wait ∘ h.wait
  ordinary := hk.ordinary.trans h.ordinary
  ended := hk.ended.trans h.ended

theorem ite {c : Prop} [Decidable c] {a b : Node} (ha : n.Recalls a) (hb : n.Recalls b) : n.Recalls (if c then a else b) := by
  split
  · exact ha
  · exact hb

theorem drives {k : Node} (hk : m.Drives k) (h : n.Recalls m) : n.Recalls k := by
  refine h.trans ?_
  rw [hk]
  exact ⟨rfl, rfl, id, rfl, rfl⟩

/-- The Rail Allocator's own side, outside offer, wait count and test. -/
theorem onRail {f : Rail → Rail} (hsame : ((f m.rail).held, (f m.rail).testOrdinary, (f m.rail).testEnded)
    = (m.rail.held, m.rail.testOrdinary, m.rail.testEnded)) (hwait : m.rail.wait = 0 → (f m.rail).wait = 0) (h : n.Recalls m) :
    n.Recalls (m.onRail f) := by
  simp only [Prod.mk.injEq] at hsame
  obtain ⟨hheld, hordinary, hended⟩ := hsame
  exact h.trans ⟨rfl, hheld, hwait, hordinary, hended⟩

theorem endLevel {i : LevelId} (h : n.Recalls m) : n.Recalls (m.endLevel i) := h.drives (Node.Drives.refl m).endLevel

theorem releaseOwn {cause : Nat} (h : n.Recalls m) : n.Recalls (m.releaseOwn cause) := by
  unfold Node.releaseOwn
  split
  next o _ =>
    have hreleased : n.Recalls ((m.handRail (.release o.id 0 cause)).onRail fun r =>
        { r with own := some { o with released := true }, startTimer := none }) :=
      onRail rfl id (h.drives (Node.Drives.refl m).handRail)
    exact hreleased.endLevel.ite hreleased
  next => exact h

theorem withdrawJoin {release : Bool} (h : n.Recalls m) : n.Recalls (m.withdrawJoin release) := by
  have hreleased : n.Recalls (if release = true then m.releaseOwn causeStop else m) := h.releaseOwn.ite h
  unfold Node.withdrawJoin
  extract_lets n0 n1
  have h1 : n.Recalls n1 := by
    change n.Recalls (match m.rail.own with | some o => _ | none => _)
    split
    · refine ite (ite ?_ (hreleased.onRail rfl id)) h
      exact (hreleased.onRail rfl id).trans ⟨rfl, rfl, id, rfl, rfl⟩
    · exact ((h.onRail rfl id).onRail rfl id).ite h
  exact (h1.onRail rfl fun _ => rfl).ite h1

end Node.Recalls

/-- R135: the withdrawal of a JOIN reaches the levels by the end of the JOIN alone, and by none where no RELEASE is handed. -/
theorem Node.withdrawJoin_duty (n : Node) (release : Bool) : (n.withdrawJoin release).duty = n.duty
    ∨ release = true ∧ ∃ k : Node, k.duty = n.duty ∧ (n.withdrawJoin release).duty = (k.endLevel .join).duty := by
  have hreleased (o : OwnRecord) (hown : n.rail.own = some o) (hjoin : o.join = true) :
      (if release = true then n.releaseOwn causeStop else n).duty = n.duty ∨ release = true ∧ ∃ k : Node, k.duty = n.duty
        ∧ (if release = true then n.releaseOwn causeStop else n).duty = (k.endLevel .join).duty := by
    split
    next hrelease =>
      unfold Node.releaseOwn
      rw [hown]
      dsimp only
      have hhanded : ((n.handRail (.release o.id 0 causeStop)).onRail fun r =>
          { r with own := some { o with released := true }, startTimer := none }).duty = n.duty := by
        rw [Node.handRail_eq]
        rfl
      have hlevel : o.level = .join := if_pos hjoin
      split
      · rw [hlevel]
        exact .inr ⟨hrelease, _, hhanded, rfl⟩
      · exact .inl hhanded
    next => exact .inl rfl
  have hdrop (m : Node) : (if n.rail.joining = true then m.onRail Rail.dropRequest else m).duty = m.duty := by
    split <;> rfl
  unfold Node.withdrawJoin
  extract_lets n0 n1
  rw [hdrop]
  change (match n.rail.own with | some o => _ | none => _ : Node).duty = n.duty
    ∨ _ ∧ ∃ k : Node, _ ∧ (match n.rail.own with | some o => _ | none => _ : Node).duty = _
  split
  next o hown =>
    split
    next hjoin =>
      split
      · exact hreleased o hown hjoin.1
      · exact hreleased o hown hjoin.1
    next => exact .inl rfl
  next =>
    refine .inl ?_
    split <;> rfl

/-- A node whose working grade is a cleared one: ungraded, or at its first rest in ACTIVE under a VALID tag (R93, R97, R114). -/
structure Node.Fresh (n : Node) : Prop where
  state : n.grade.state = .ungraded ∨ (n.grade.state = .restA ∧ n.mon.tagState = .valid ∧ n.pres.state = .active)
  cls : n.grade.working.cls = .none
  cap : n.grade.working.cap = none
  res : n.grade.working.res = none

/-- R93, R94: the regime starts with a cleared record. -/
theorem Node.Fresh.startRegime {n : Node} (h : n.Fresh) : n.startRegime.Fresh := by
  unfold Node.startRegime
  split
  next hstart =>
    simp only [Node.mayStart, Node.active, Bool.and_eq_true, beq_iff_eq] at hstart
    obtain ⟨⟨⟨-, hactive⟩, htag⟩, -⟩ := hstart
    obtain ⟨hcls, hcap, hres⟩ : n.freshRecord.cls = .none ∧ n.freshRecord.cap = none ∧ n.freshRecord.res = none := by
      unfold Node.freshRecord
      split <;> exact ⟨rfl, rfl, rfl⟩
    unfold Node.enterRestA Node.openRest
    split <;> exact ⟨.inr ⟨rfl, htag, hactive⟩, hcls, hcap, hres⟩
  next => exact h

theorem Node.Fresh.pairReported {n : Node} (h : n.Fresh) : n.pairReported.Fresh := by
  have hrest : n.abortSelfRest = n := if_neg fun hs => by
    rcases h.state with hstate | ⟨hstate, -⟩ <;> rw [hstate] at hs <;> cases hs.1
  rw [Node.pairReported, hrest, ite_self]
  exact h.startRegime

theorem Node.Fresh.setPair {n : Node} (h : n.Fresh) (s : PairState) : (n.setPair s).Fresh := by
  unfold Node.setPair
  split
  · exact h
  · exact Node.Fresh.pairReported (n := n.onPair _) ⟨h.state, h.cls, h.cap, h.res⟩

/-- What the steps of leaving leave: contactor, Rail Allocator and levels, and every other block but the transmit queue, the pair
state that leaving begun reports, and the Grade Engine that hears of it. -/
structure Node.Departs (n m : Node) : Prop where
  eq : m = { n with
    line := { n.line with queue := m.line.queue }, pos := m.pos, pair := m.pair
    grade := { n.grade with state := m.grade.state, working := m.grade.working }, mon := { n.mon with watchGrade := m.mon.watchGrade } }
  stands : m.pos.contactor = n.pos.contactor ∧ m.pos.phase = n.pos.phase ∧ m.pos.leaveReason = n.pos.leaveReason
  pair : m.pair = n.pair ∨ (n.pair.state = .joining ∨ n.pair.state = .joined) ∧ m.pair = { n.pair with state := .leaving }
  fresh : n.Fresh → m.Fresh

namespace Node.Departs

variable {n m : Node}

theorem refl (n : Node) : n.Departs n := ⟨rfl, ⟨rfl, rfl, rfl⟩, .inl rfl, id⟩

theorem trans {k : Node} (h : n.Departs m) (hk : m.Departs k) : n.Departs k where
  eq := by rw [hk.eq, h.eq]
  stands := by
    obtain ⟨hcontactor, hphase, hreason⟩ := h.stands
    obtain ⟨hcontactor', hphase', hreason'⟩ := hk.stands
    exact ⟨hcontactor'.trans hcontactor, hphase'.trans hphase, hreason'.trans hreason⟩
  pair := by
    rcases hk.pair with hsame | ⟨hstate, hleft⟩
    · rw [hsame]
      exact h.pair
    · rcases h.pair with hsame | ⟨-, hleaving⟩
      · rw [hsame] at hstate hleft
        exact .inr ⟨hstate, hleft⟩
      · rw [hleaving] at hstate
        rcases hstate with hstate | hstate <;> cases hstate
  fresh := hk.fresh ∘ h.fresh

theorem ite {c : Prop} [Decidable c] {a b : Node} (ha : n.Departs a) (hb : n.Departs b) : n.Departs (if c then a else b) := by
  split
  · exact ha
  · exact hb

theorem onPos {f : Positions → Positions} (hsame : ((f m.pos).contactor, (f m.pos).phase, (f m.pos).leaveReason)
    = (m.pos.contactor, m.pos.phase, m.pos.leaveReason)) (h : n.Departs m) : n.Departs (m.onPos f) := by
  simp only [Prod.mk.injEq] at hsame
  exact h.trans ⟨rfl, hsame, .inl rfl, fun hm => ⟨hm.state, hm.cls, hm.cap, hm.res⟩⟩

theorem handPos {x : PosNotice} (h : n.Departs m) : n.Departs (m.handPos x) := by
  refine h.trans ?_
  rw [Node.handPos_eq]
  exact ⟨rfl, ⟨rfl, rfl, rfl⟩, .inl rfl, fun hm => ⟨hm.state, hm.cls, hm.cap, hm.res⟩⟩

theorem handVacate {step : Nat} {r : Reason} (h : n.Departs m) : n.Departs (m.handVacate step r) := by
  unfold Node.handVacate
  split
  · exact h.handPos
  · exact h

/-- R158: leaving begun. -/
theorem leavingBegun (h : n.Departs m) : n.Departs m.leavingBegun := by
  refine h.trans ?_
  unfold Node.leavingBegun
  split
  next hstate =>
    have hpair : (m.setPair .leaving).pair = { m.pair with state := .leaving } := by
      unfold Node.setPair
      split
      next hleaving =>
        rw [hleaving] at hstate
        rcases hstate with hstate | hstate <;> cases hstate
      next =>
        rw [Node.pairReported_eq]
        rfl
    have heq := m.setPair_eq .leaving
    have hpos : (m.setPair .leaving).pos = m.pos := by rw [heq]
    exact ⟨by rw [heq], by rw [hpos]; exact ⟨rfl, rfl, rfl⟩, .inr ⟨hstate, hpair⟩, fun hm => hm.setPair .leaving⟩
  next => exact refl m

theorem takeStep {s : PosStep} (h : n.Departs m) : n.Departs (m.takeStep s) := by
  cases s with
  | engage1 | engage2 =>
    simp only [Node.takeStep]
    split
    · exact h.handPos
    · exact h
  | engage3 =>
    simp only [Node.takeStep]
    split
    · exact h.handPos.onPos rfl
    · exact h
  | vacate1 =>
    simp only [Node.takeStep]
    exact h.handVacate.leavingBegun.onPos rfl
  | vacate2 | vacate3 => exact h.handVacate

theorem stepsAtOnce (h : n.Departs m) : n.Departs m.stepsAtOnce := by
  unfold Node.stepsAtOnce
  extract_lets n1
  have h1 : n.Departs n1 := by
    refine ite ?_ h
    unfold Node.switchStep
    split
    · exact (h.onPos rfl).takeStep
    · exact h
  refine ite ?_ h1
  unfold Node.contactorStep
  split
  · exact (h1.onPos rfl).takeStep
  · exact h1

end Node.Departs

/-- The node that leaves for this reason, with its JOIN withdrawn, before a step of leaving is taken (R175, R176). -/
def Node.departing (n : Node) (r : Reason) (release : Bool) : Node :=
  ((n.withdrawJoin release).setPhase .vacating).onPos fun q =>
    { q with leaveReason := r, leaveStep := 1, leaveTimer := none, engageTimer := none, onContactor := none, onSwitch := none }

theorem Node.departing_eq (n : Node) (r : Reason) (release : Bool) :
    n.departing r release = { n.withdrawJoin release with pos := (n.departing r release).pos }
      ∧ (n.departing r release).pos.contactor = n.pos.contactor := by
  refine ⟨rfl, ?_⟩
  change (n.withdrawJoin release).pos.contactor = _
  rw [(Node.Recalls.refl n).withdrawJoin.eq]

/-- Steps 0 and 1 of leaving (R175). -/
theorem Node.beginLeave_departs (n : Node) (r : Reason) (release : Bool) : (n.departing r release).Departs (n.beginLeave r release) := by
  have hbypassed : (n.departing r release).Departs ((n.departing r release).bypass (some .vacate1)) :=
    (((Node.Departs.refl _).onPos rfl).onPos rfl).ite (.refl _)
  unfold Node.beginLeave
  exact hbypassed.stepsAtOnce.ite (Node.Departs.refl (n.departing r release)).handVacate.leavingBegun

/-- R176: a hard breach opens the contactor, withdraws a JOIN at most, and begins to leave. -/
theorem Node.hardPath_departs (n : Node) :
    n.hardwareOpen.Departs n.hardPath ∨ (n.hardwareOpen.departing .breach true).Departs n.hardPath := by
  unfold Node.hardPath
  extract_lets n1
  split
  · split
    · exact .inr (n1.beginLeave_departs .breach true)
    · exact .inl ((Node.Departs.refl n1).stepsAtOnce.ite (.refl n1))
  · exact .inl (.refl n1)

theorem Node.hardwareOpen_contactor (n : Node) : n.hardwareOpen.pos.contactor = .safe := by
  unfold Node.hardwareOpen
  rw [Node.onPos_pos]
  split <;> rfl

/-- What a hard breach leaves at the Position Manager's hands: the contactor is open, and the JOIN alone of the levels may end. -/
structure Node.Breaks (n m : Node) : Prop where
  eq : m = { n with
    line := { n.line with queue := m.line.queue }, duty := m.duty, rail := m.rail, pos := m.pos, pair := m.pair
    grade := { n.grade with state := m.grade.state, working := m.grade.working }, mon := { n.mon with watchGrade := m.mon.watchGrade } }
  contactor : m.pos.contactor = .safe
  duty : m.duty = n.duty ∨ ∃ k : Node, k.duty = n.duty ∧ m.duty = (k.endLevel .join).duty
  ordinary : m.rail.testOrdinary = n.rail.testOrdinary
  ended : m.rail.testEnded = n.rail.testEnded

theorem Node.hardPath_breaks (n : Node) : n.Breaks n.hardPath := by
  have hopen := n.hardwareOpen_contactor
  rcases n.hardPath_departs with h | h
  · obtain ⟨hcontactor, -⟩ := h.stands
    refine ⟨?_, hcontactor.trans hopen, .inl ?_, ?_, ?_⟩
    · rw [h.eq]
      rfl
    all_goals rw [h.eq]; rfl
  · obtain ⟨hcontactor, -⟩ := h.stands
    have hrecalls := (Node.Recalls.refl n.hardwareOpen).withdrawJoin (release := true)
    have hduty := n.hardwareOpen.withdrawJoin_duty true
    obtain ⟨hdeparting, hsafe⟩ := n.hardwareOpen.departing_eq .breach true
    have heq := h.eq
    rw [hdeparting] at heq
    generalize n.hardwareOpen.withdrawJoin true = k at heq hrecalls hduty
    refine ⟨?_, hcontactor.trans (hsafe.trans hopen), ?_, ?_, ?_⟩
    · rw [heq, hrecalls.eq]
      rfl
    · have hsame : n.hardPath.duty = k.duty := by rw [heq]
      rw [hsame]
      exact hduty.imp_right And.right
    · rw [heq]
      exact hrecalls.ordinary
    · rw [heq]
      exact hrecalls.ended

/-! ### What the limit tests leave of the measurements (R69, R70) -/

/-- Presence Controller and measurements stand, but for the limit state, its timer and the Grade Engine's watch. -/
structure Node.Limits (n m : Node) : Prop where
  pres : m.pres = n.pres
  mon : m.mon = { n.mon with limit := m.mon.limit, clearTimer := m.mon.clearTimer, watchGrade := m.mon.watchGrade }

namespace Node.Limits

variable {n m : Node}

theorem refl (n : Node) : n.Limits n := ⟨rfl, rfl⟩

theorem trans {k : Node} (h : n.Limits m) (hk : m.Limits k) : n.Limits k := ⟨hk.pres.trans h.pres, by rw [hk.mon, h.mon]⟩

theorem ite {c : Prop} [Decidable c] {a b : Node} (ha : n.Limits a) (hb : n.Limits b) : n.Limits (if c then a else b) := by
  split
  · exact ha
  · exact hb

theorem restartClear {s : LimitState} (h : n.Limits m) : n.Limits (m.restartClear s) := h.trans ⟨rfl, rfl⟩

theorem requestProtect (h : n.Limits m) : n.Limits m.requestProtect := by
  refine h.trans ?_
  rw [(Node.Drives.refl m).requestProtect]
  exact ⟨rfl, rfl⟩

theorem hardPath (h : n.Limits m) : n.Limits m.hardPath := by
  refine h.trans ?_
  rw [m.hardPath_breaks.eq]
  exact ⟨rfl, rfl⟩

theorem reportFault {code : FaultCode} {detail : Option BreachKind} (h : n.Limits m) : n.Limits (m.reportFault code detail) := by
  refine h.trans ?_
  rw [Node.reportFault_eq]
  exact ⟨rfl, rfl⟩

theorem restBreak (h : n.Limits m) : n.Limits m.restBreak := by
  refine h.trans (ite ?_ (.refl m))
  rw [Node.abortSelfRest_eq]
  exact ⟨rfl, rfl⟩

theorem limitTests (h : n.Limits m) : n.Limits m.limitTests := by
  unfold Node.limitTests
  split
  · unfold Node.hardLimit
    extract_lets n1
    have h1 : n.Limits n1 := h.restartClear
    exact h1.ite (h1.requestProtect.ite h1).hardPath.reportFault
  · refine ite ?_ h
    unfold Node.softLimit
    split
    · exact h.restartClear.requestProtect
    · exact h.restartClear
    · exact h.restartClear

end Node.Limits

end Sys2Proof.Machine
end

section
/-! PROOFS. SAMPLE_SET without a breach (R61-R65, R69, R71, R77, R82): the readings held, the charge counted, the tests of the limits
and the tag reading, each by the words of the manual. -/

namespace Sys2Proof.Machine

/-! ### Readings and charge (R61, R63) -/

theorem holdReading_holds (r : SenseReading) {lo hi : Int} (h : lo ≤ hi) :
    heldAs r lo hi (holdReading lo hi r).1 (holdReading lo hi r).2 := by
  refine ⟨?_, ?_, ?_⟩
  · rintro v rfl
    unfold holdReading
    dsimp only
    split
    next hlow => exact ⟨by dsimp only; omega, by simpa using .inl hlow⟩
    next hlow =>
      split
      next hhigh => exact ⟨by dsimp only; omega, by simpa using .inr hhigh⟩
      next hhigh => exact ⟨by dsimp only; omega, by dsimp only; simp only [Bool.false_eq_true, false_iff]; omega⟩
  · rintro rfl
    exact ⟨rfl, rfl⟩
  · rintro rfl
    exact ⟨rfl, rfl⟩

theorem holdReading_ge (r : SenseReading) {lo hi : Int} (h : lo ≤ hi) : lo ≤ (holdReading lo hi r).1 := by
  unfold holdReading
  split
  · split
    · exact Int.le_refl lo
    · split
      · exact h
      · dsimp only
        omega
  · exact Int.le_refl lo
  · exact h

/-- A reading that is held as a natural number (R61). -/
theorem holdReading_holds_nat (r : SenseReading) (hi : Nat) :
    heldAs r 0 hi ((holdReading 0 hi r).1.toNat : Int) (holdReading 0 hi r).2 := by
  rw [Int.toNat_of_nonneg (holdReading_ge r (by omega))]
  exact holdReading_holds r (by omega)

/-- R63: a charge passes into the count by whole mAs, and stays at the limits. -/
theorem integrate_charges (count residue add : Int) :
    chargedAs count residue add (integrate count residue add).1 (integrate count residue add).2.1 := by
  unfold integrate chargeLimit
  dsimp only
  split
  next hhigh => exact ⟨fun h => by omega, fun _ => ⟨rfl, rfl⟩, fun h => by omega⟩
  next hhigh =>
    split
    next hlow => exact ⟨fun h => by omega, fun h => by omega, fun _ => ⟨rfl, rfl⟩⟩
    next hlow => exact ⟨fun _ => ⟨rfl, rfl⟩, fun h => by omega, fun h => by omega⟩

/-- R63: a stopped counter stands, and a running one counts; its mark stays once it is set. -/
theorem Counter.advance_counts (c : Counter) (current : Int) :
    (c.running = false → c.advance current = c) ∧ (c.running = true → (c.advance current).running = true
      ∧ chargedAs c.count c.residue current (c.advance current).count (c.advance current).residue
      ∧ (c.saturated = true → (c.advance current).saturated = true)) := by
  unfold Counter.advance
  refine ⟨fun hstopped => if_neg (by simp [hstopped]), fun hrunning => ?_⟩
  rw [if_pos hrunning]
  exact ⟨hrunning, integrate_charges _ _ _, fun hmark => by simp [hmark]⟩

/-! ### The tag reading (R71) -/

/-- R71: a tag reading is counted while it differs from the accepted one, and anew where it is another than before. -/
theorem Monitor.seeTag_counts (m : Monitor) (t : TagReading) :
    m.seeTag t = { m with tagSeen := (m.seeTag t).tagSeen, tagRun := (m.seeTag t).tagRun }
      ∧ (tagAgrees t m.tag = true → (m.seeTag t).tagRun = 0)
      ∧ (tagAgrees t m.tag = false → 0 < m.tagRun → tagAgrees t m.tagSeen = true →
          (m.seeTag t).tagRun = min 5 (m.tagRun + 1) ∧ (m.seeTag t).tagSeen = m.tagSeen)
      ∧ (tagAgrees t m.tag = false → (m.tagRun = 0 ∨ tagAgrees t m.tagSeen = false) →
          (m.seeTag t).tagRun = 1 ∧ (m.seeTag t).tagSeen = t) := by
  unfold Monitor.seeTag
  split
  next hagrees => exact ⟨rfl, fun _ => rfl, by simp [hagrees], by simp [hagrees]⟩
  next hdiffers =>
    split
    next hagain =>
      refine ⟨rfl, fun h => absurd h hdiffers, fun _ _ _ => ⟨rfl, rfl⟩, fun _ hnew => ?_⟩
      rcases hnew with hnone | hother
      · omega
      · rw [hagain.2] at hother
        cases hother
    next hnew => exact ⟨rfl, fun h => absurd h hdiffers, fun _ hrun hsame => absurd ⟨hrun, hsame⟩ hnew, fun _ _ => ⟨rfl, rfl⟩⟩

/-- A sample set reaches the measurements alone: what it makes of them, and what it leaves (R61-R65, R71). -/
theorem Node.takeSample_eq (n : Node) (s : SampleSet) (t : TagReading) : n.takeSample s t = { n with mon := { n.mon with
    now := n.mon.now + 10, sample := s, cell := n.profile.map (fun p => perCell s.voltage p.cells)
    volts := (s.voltage :: n.mon.volts).take 100, counter := n.mon.counter.advance s.current, rest := restAfter n.mon.rest s.current
    watchGrade := n.mon.watchGrade.map RestWatch.see, watchPosition := n.mon.watchPosition.map RestWatch.see
    tagSeen := (n.mon.seeTag t).tagSeen, tagRun := (n.mon.seeTag t).tagRun } } := by
  change ({ n with mon := { n.mon.take s t with cell := n.profile.map fun p => perCell s.voltage p.cells } } : Node) = _
  unfold Monitor.take
  rw [(n.mon.seeTag_counts t).1]

theorem Node.takeSample_profile (n : Node) (s : SampleSet) (t : TagReading) : (n.takeSample s t).profile = n.profile := by
  rw [Node.takeSample_eq]
  rfl

/-! ### The limit tests (R69) -/

/-- R69, R70: the kind of a hard breach, first of current, voltage and temperature. -/
theorem Node.hardBreach_of_breaches {n : Node} {x : SampleSet} (h : n.breachesHard x) : hardBreach x n.profile =
    some (if x.currentSat = true then .current else if x.voltageSat = true ∨ x.busSat = true then .voltage else .temperature) := by
  unfold hardBreach
  split
  · rfl
  next hcurrent =>
    split
    next hvoltage => rw [if_pos (by simpa using hvoltage)]
    next hvoltage =>
      have hneither : ¬(x.voltageSat = true ∨ x.busSat = true) := by simpa using hvoltage
      rw [if_neg hneither, if_pos]
      simp only [Bool.or_eq_true, not_or, Bool.not_eq_true] at hvoltage hcurrent
      rcases h with h | h | h | h | h | ⟨p, hp, hhot⟩
      · simp [h] at hcurrent
      · simp [h] at hvoltage
      · simp [h] at hvoltage
      · simp [h]
      · simp [h]
      · simp [hp, SampleSet.temperature, hhot]

theorem Node.hardBreach_of_not {n : Node} {x : SampleSet} (h : ¬n.breachesHard x) : hardBreach x n.profile = none := by
  simp only [Node.breachesHard, not_or, not_exists, not_and] at h
  obtain ⟨hcurrent, hvoltage, hbus, hfirst, hsecond, hhot⟩ := h
  unfold hardBreach
  rw [if_neg hcurrent, if_neg (by simp [hvoltage, hbus]), if_neg]
  cases hp : n.profile with
  | none => simp [hfirst, hsecond]
  | some p => simpa [hfirst, hsecond, SampleSet.temperature] using hhot p hp

/-- R69: the soft breaches, the per-cell value being that of the sample set. -/
theorem Node.softBreach_iff (n : Node) (x : SampleSet) :
    softBreach x (n.profile.map fun p => perCell x.voltage p.cells) n.profile = true ↔ n.breachesSoft x := by
  unfold softBreach Node.breachesSoft
  cases n.profile with
  | none => simp
  | some p => simp [SampleSet.temperature]

/-- R69: the tests of a sample set are made with the profile and the per-cell value that the node has then. -/
theorem Node.limitTests_of_hard {n : Node} {k : BreachKind} (h : hardBreach n.mon.sample n.profile = some k) :
    n.limitTests = n.hardLimit k := by
  unfold Node.limitTests
  rw [h]

theorem Node.limitTests_of_soft {n : Node} (hhard : hardBreach n.mon.sample n.profile = none)
    (hsoft : softBreach n.mon.sample n.mon.cell n.profile = true) : n.limitTests = n.softLimit := by
  unfold Node.limitTests
  rw [hhard]
  exact if_pos hsoft

theorem Node.limitTests_of_none {n : Node} (hhard : hardBreach n.mon.sample n.profile = none)
    (hsoft : softBreach n.mon.sample n.mon.cell n.profile ≠ true) : n.limitTests = n := by
  unfold Node.limitTests
  rw [hhard]
  exact if_neg hsoft

/-! ### The levels at a sample set (R77, R82) -/

theorem Duty.sample_get (d : Duty) (current : Int) (i : LevelId) :
    (d.sample current).get i = if d.conv.holder = some i then (d.get i).advance current else d.get i := by
  have hconv (e : Duty) : Duty.get { e with conv := e.conv.step } i = e.get i := by cases i <;> rfl
  unfold Duty.sample
  dsimp only
  rw [hconv]
  cases d.conv.holder with
  | none => rfl
  | some j =>
    by_cases hj : i = j
    · subst hj
      simp
    · rw [if_neg fun h => hj (Option.some.inj h).symm]
      exact Duty.get_upd_other _ _ hj

theorem Duty.sample_conv (d : Duty) (current : Int) : (d.sample current).conv = d.conv.step := by
  unfold Duty.sample
  dsimp only
  split
  · rw [Duty.upd_conv]
  · rfl

theorem Duty.sample_reports (d : Duty) (current : Int) : (d.sample current).reports = d.reports := by
  unfold Duty.sample
  dsimp only
  split
  · rw [Duty.upd_reports]
  · rfl

/-- R77: one ampere toward the setpoint. -/
theorem Converter.step_actual (c : Converter) : (c.actual < c.setpoint → c.step.actual = c.actual + 1)
    ∧ (c.setpoint < c.actual → c.step.actual = c.actual - 1) ∧ (c.actual = c.setpoint → c.step.actual = c.actual) := by
  unfold Converter.step
  refine ⟨fun h => by rw [if_pos h], fun h => by rw [if_neg (by omega), if_pos h], fun h => by rw [if_neg (by omega), if_neg (by omega)]⟩

/-- R82, R83: the holder counts charge by its direction and time while it runs. -/
theorem Level.advance_counts (l : Level) (current : Int) : (l.advance current).state = l.state
    ∧ (l.advance current).heldHere = l.heldHere
    ∧ (l.advance current).elapsed = l.elapsed + (if l.state = .running then 10 else 0)
    ∧ (l.dir = .source → chargedAs l.charge l.residue current (l.advance current).charge (l.advance current).residue)
    ∧ (l.dir = .sink → chargedAs l.charge l.residue (-current) (l.advance current).charge (l.advance current).residue) := by
  refine ⟨?_, ?_, ?_, fun hdir => ?_, fun hdir => ?_⟩ <;> unfold Level.advance
  · cases l.dir <;> dsimp only <;> split <;> rfl
  · cases l.dir <;> dsimp only <;> split <;> rfl
  · cases l.dir <;> dsimp only <;> split <;> rfl
  · rw [hdir]
    dsimp only
    split <;> exact integrate_charges _ _ _
  · rw [hdir]
    dsimp only
    split <;> exact integrate_charges _ _ _

/-! ### SAMPLE_SET -/

/-- The node whose Module Monitor has taken a sample set, with its rest break reported (R61, R65). -/
def Node.sampled (n : Node) (r : RawSample) : Node := (n.takeSample (sampleOf r) r.tag).restBreak

theorem Node.sampleSet_eq (n : Node) (r : RawSample) :
    n.sampleSet r = (n.sampled r).limitTests.onDuty fun d => d.sample (sampleOf r).current := rfl

/-- R65, R107: a rest break changes the Grade Engine and its watch alone. -/
theorem Node.sampled_eq (n : Node) (r : RawSample) : n.sampled r = { n.takeSample (sampleOf r) r.tag with
    grade := { n.grade with state := (n.sampled r).grade.state }
    mon := { (n.takeSample (sampleOf r) r.tag).mon with watchGrade := (n.sampled r).mon.watchGrade } } := by
  unfold Node.sampled Node.restBreak
  split
  · rw [Node.abortSelfRest_eq]
    rfl
  · rfl

/-- Where no long rest breaks, the sample set reaches the measurements alone. -/
theorem Node.sampled_of_rest {n : Node} {r : RawSample} (h : (sampleOf r).current.natAbs < 50 ∨ n.grade.state ≠ .selfRest) :
    n.sampled r = n.takeSample (sampleOf r) r.tag := by
  have hcurrent : (n.takeSample (sampleOf r) r.tag).mon.sample.current = (sampleOf r).current := by rw [Node.takeSample_eq]
  unfold Node.sampled Node.restBreak
  split
  next hbreak =>
    refine if_neg fun hrest => ?_
    rw [hcurrent] at hbreak
    rcases h with h | h
    · simp [restful, h] at hbreak
    · exact h hrest.1
  next => rfl

/-- What the limit tests are made on (R69). -/
theorem Node.sampled_tests (n : Node) (r : RawSample) : (n.sampled r).mon.sample = sampleOf r ∧ (n.sampled r).profile = n.profile
    ∧ (n.sampled r).mon.cell = n.profile.map fun p => perCell (sampleOf r).voltage p.cells := by
  have htaken := n.takeSample_profile (sampleOf r) r.tag
  rw [Node.sampled_eq]
  refine ⟨?_, htaken, ?_⟩ <;> rw [Node.takeSample_eq]

/-- R69, R70: a sample set without a breach leads to no limit. -/
theorem Node.sampled_unlimited {n : Node} {r : RawSample} (hhard : ¬n.breachesHard (sampleOf r)) (hsoft : ¬n.breachesSoft (sampleOf r)) :
    (n.sampled r).limitTests = n.sampled r := by
  obtain ⟨hsample, hprofile, hcell⟩ := n.sampled_tests r
  refine Node.limitTests_of_none ?_ ?_
  · rw [hsample, hprofile]
    exact Node.hardBreach_of_not hhard
  · rw [hsample, hprofile, hcell]
    exact mt (n.softBreach_iff _).1 hsoft

/-- The measurements at the end of a step that takes a sample set: those of the Module Monitor, but for what the limit tests and the
blocks that hear of them change. -/
theorem Node.sampleSet_mon (n : Node) (r : RawSample) : ((n.sampleSet r).conclude n).pres = n.pres
    ∧ ((n.sampleSet r).conclude n).mon = { (n.takeSample (sampleOf r) r.tag).mon with
      limit := ((n.sampleSet r).conclude n).mon.limit, clearTimer := ((n.sampleSet r).conclude n).mon.clearTimer
      watchGrade := ((n.sampleSet r).conclude n).mon.watchGrade, watchPosition := ((n.sampleSet r).conclude n).mon.watchPosition } := by
  have hlimits : (n.takeSample (sampleOf r) r.tag).Limits (n.sampleSet r) :=
    (Node.Limits.refl _).restBreak.limitTests.trans ⟨rfl, rfl⟩
  have hend := (Node.Keeps.refl .gradeFail (n.sampleSet r)).conclude (before := n)
  generalize (n.sampleSet r).conclude n = m at hend
  refine ⟨?_, ?_⟩
  · rw [hend.pres, hlimits.pres, Node.takeSample_eq]
  · rw [hend.mon, hlimits.mon]

/-- A sample set without a breach and without a broken long rest reaches the measurements and the levels alone. -/
theorem Node.sampleSet_quiet {n : Node} (hsettled : n.Settled) {r : RawSample} (hhard : ¬n.breachesHard (sampleOf r))
    (hsoft : ¬n.breachesSoft (sampleOf r)) (hrest : (sampleOf r).current.natAbs < 50 ∨ n.grade.state ≠ .selfRest) :
    (n.sampleSet r).conclude n = { n with
      mon := (n.takeSample (sampleOf r) r.tag).mon, duty := n.duty.sample (sampleOf r).current } := by
  have hevent : n.sampleSet r = { n with
      mon := (n.takeSample (sampleOf r) r.tag).mon, duty := n.duty.sample (sampleOf r).current } := by
    rw [Node.sampleSet_eq, Node.sampled_unlimited hhard hsoft, Node.sampled_of_rest hrest]
    rfl
  rw [hevent]
  refine Node.conclude_of_mark ?_ rfl
  rw [Node.Settled, Duty.sample_reports]
  exact hsettled

/-- Settles O19: the measurements by `takeSample_eq`, and without a breach nothing but them and the levels. -/
theorem sampleSetMeasured : Obligations.SampleSetMeasured := by
  intro n w r hsettled
  obtain ⟨hpres, hmon⟩ := n.sampleSet_mon r
  have hquiet := Node.sampleSet_quiet hsettled (r := r)
  obtain ⟨m, hm⟩ : ∃ m, (n.sampleSet r).conclude n = m := ⟨_, rfl⟩
  obtain ⟨hstopped, hcounts⟩ := n.mon.counter.advance_counts (sampleOf r).current
  obtain ⟨-, hagrees, hagain, hnew⟩ := n.mon.seeTag_counts r.tag
  rw [hm] at hpres hmon hquiet
  rw [Node.takeSample_eq] at hmon
  have hsample : m.mon.sample = sampleOf r := by rw [hmon]
  refine ⟨m, State.act_eq (f := fun n => n.sampleSet r) hm, ?_⟩
  rw [hsample]
  refine ⟨?_, holdReading_holds_nat _ 100000, holdReading_holds _ (by omega), holdReading_holds _ (by omega), holdReading_holds _ (by omega),
    holdReading_holds_nat _ 100000, ?_, ?_, ?_, ?_, ?_, ?_, ?_, ?_, ?_, ?_, ?_, hpres, fun hhard hsoft hrest => ?_⟩
  case refine_13 =>
    rw [hquiet hhard hsoft hrest]
    obtain ⟨hup, hdown, hsame⟩ := n.duty.conv.step_actual
    dsimp only
    rw [Duty.sample_conv, Converter.step_setpoint, Converter.step_holder, Converter.step_path, Node.takeSample_eq]
    refine ⟨rfl, rfl, rfl, rfl, rfl, hup, hdown, hsame, fun i hi => ?_, fun i hi => ?_, rfl, rfl, rfl, rfl, rfl, rfl, rfl⟩
    · rw [Duty.sample_get, if_neg hi]
    · obtain ⟨hstate, -, helapsed, hsource, hsink⟩ := (n.duty.get i).advance_counts (sampleOf r).current
      rw [Duty.sample_get, if_pos hi]
      exact ⟨hstate, helapsed, hsource, hsink⟩
  all_goals rw [hmon]
  case refine_4 =>
    change restAfter _ _ = _
    simp [restAfter, restful, restLimit]
  case refine_5 => exact hstopped
  case refine_6 => exact hcounts
  case refine_7 => exact hagrees
  case refine_8 => exact hagain
  case refine_9 => exact hnew
  all_goals rfl

end Sys2Proof.Machine
end

section
/-! PROOFS. SAMPLE_SET with a limit breach (R69, R70, R84, R87, R88, R176): PROTECT at 0 A, the exchange levels held, and the
completions that no block hears. -/

namespace Sys2Proof.Machine

/-! ### Completions that no block hears -/

/-- The end of a level that the Rail Allocator and the Grade Engine wait for in no case, but for a PULSE that other levels end (R83,
R88). -/
def endsUnheard (i : LevelId) (cause : EndCause) : Prop :=
  i = .protect ∨ i = .join ∨ i = .serve ∨ (i = .pulse ∧ cause = .invalid)

/-- No completion of the step is heard, nor that of an ENDING holder. -/
structure Duty.Unheard (d : Duty) : Prop where
  reports : ∀ c ∈ d.reports, endsUnheard c.level c.cause
  ending : ∀ i, d.conv.holder = some i → (d.get i).state = .ending → endsUnheard i ((d.get i).cause.getD .ended)

namespace Duty.Unheard

variable {d e : Duty}

theorem of_notEnding {n : Node} (hreports : n.duty.reports = []) (h : n.notEnding) : n.duty.Unheard :=
  ⟨fun c hc => (by rw [hreports] at hc; cases hc), fun i hi hending => absurd hending (h i hi)⟩

/-- A change of the levels that reports nothing and lets no level end. -/
theorem of_get (h : d.Unheard) (hreports : e.reports = d.reports) (hholder : e.conv.holder = d.conv.holder)
    (hget : ∀ i, (e.get i).state = .ending → (d.get i).state = .ending ∧ (e.get i).cause = (d.get i).cause) : e.Unheard where
  reports c hc := h.reports c (hreports ▸ hc)
  ending i hi hending := by
    obtain ⟨hstate, hcause⟩ := hget i hending
    rw [hcause]
    exact h.ending i (hholder ▸ hi) hstate

theorem put (h : d.Unheard) {i : LevelId} {l : Level} (hl : l.state ≠ .ending) : (d.put i l).Unheard := by
  refine h.of_get (d.put_reports i l) (by rw [Duty.put_conv]) fun j hj => ?_
  by_cases hji : j = i
  · rw [hji, Duty.get_put] at hj
    exact absurd hj hl
  · rw [Duty.get_put_other _ _ hji] at hj ⊢
    exact ⟨hj, rfl⟩

theorem suspendHere (h : d.Unheard) (i : LevelId) : (d.upd i Level.suspendedHere).Unheard := by
  refine h.of_get (d.upd_reports i _) (by rw [Duty.upd_conv]) fun j hj => ?_
  by_cases hji : j = i
  · subst hji
    rw [Duty.get_upd] at hj ⊢
    have hsame : (d.get j).suspendedHere = d.get j := by
      have hending := Level.suspendedHere_ending hj
      rw [Level.suspendedHere, if_neg (by simp [hending])]
    rw [hsame] at hj ⊢
    exact ⟨hj, rfl⟩
  · rw [Duty.get_upd_other _ _ hji] at hj ⊢
    exact ⟨hj, rfl⟩

theorem setpoint (h : d.Unheard) (x : Int) : (d.setpoint x).Unheard :=
  h.of_get rfl rfl fun i hi => by rw [Duty.get_setpoint] at hi ⊢; exact ⟨hi, rfl⟩

theorem keep (h : d.Unheard) (i : LevelId) (r : Option LevelRequest) : (d.keep i r).Unheard :=
  h.of_get (d.keep_reports i r) (by rw [Duty.keep_conv]) fun j hj => by rw [Duty.get_keep] at hj ⊢; exact ⟨hj, rfl⟩

theorem finish (h : d.Unheard) {i : LevelId} {cause : EndCause} (hi : endsUnheard i cause) : (d.finish i cause).Unheard := by
  obtain ⟨hempty, hothers, hconv⟩ := d.finish_spec i cause
  refine ⟨fun c hc => ?_, fun j hj hending => ?_⟩
  · simp only [Duty.finish] at hc
    split at hc
    · rcases List.mem_append.1 hc with hold | hnew
      · exact h.reports c hold
      · obtain rfl := List.mem_singleton.1 hnew
        exact hi
    · exact h.reports c hc
  · by_cases hji : j = i
    · rw [hji, hempty] at hending
      cases hending
    · rw [hothers j hji] at hending ⊢
      exact h.ending j (hconv ▸ hj) hending

/-- A level ENDING with a cause that is not heard. -/
theorem ends (h : d.Unheard) {i : LevelId} {cause : EndCause} (hi : endsUnheard i cause) :
    (d.upd i fun l => { l with state := .ending, cause := some cause }).Unheard := by
  refine ⟨fun c hc => h.reports c (d.upd_reports i _ ▸ hc), fun j hj hending => ?_⟩
  by_cases hji : j = i
  · subst hji
    rw [Duty.get_upd]
    exact hi
  · rw [Duty.get_upd_other _ _ hji] at hending ⊢
    exact h.ending j (by rwa [Duty.upd_conv] at hj) hending

theorem leave (h : d.Unheard) {i : LevelId} {cause : EndCause} (hi : endsUnheard i cause) : (d.leave i cause).Unheard := by
  unfold Duty.leave
  split
  · exact (h.ends hi).setpoint 0
  · exact h.finish hi

theorem handOver (h : d.Unheard) : d.handOver.Unheard := by
  refine ⟨fun c hc => h.reports c (d.handOver_reports ▸ hc), fun i hi hending => ?_⟩
  rw [Duty.handOver_holder] at hi
  have hasks := Duty.owner_asks hi
  rw [Duty.handOver_get] at hending
  split at hending
  · cases hending
  · rw [hending] at hasks
    cases hasks

theorem sample (h : d.Unheard) (current : Int) : (d.sample current).Unheard := by
  refine h.of_get (d.sample_reports current) (by rw [Duty.sample_conv, Converter.step_holder]) fun i hi => ?_
  have hcause (l : Level) : (l.advance current).cause = l.cause := by
    unfold Level.advance
    cases l.dir <;> dsimp only <;> split <;> rfl
  rw [Duty.sample_get] at hi ⊢
  split at hi
  next hholder =>
    rw [if_pos hholder, hcause]
    exact ⟨((d.get i).advance_counts current).1.symm.trans hi, rfl⟩
  next hholder =>
    rw [if_neg hholder]
    exact ⟨hi, rfl⟩

end Duty.Unheard

theorem endsUnheard_pulse : endsUnheard .pulse .invalid := .inr (.inr (.inr ⟨rfl, rfl⟩))

theorem endsUnheard_join (cause : EndCause) : endsUnheard .join cause := .inr (.inl rfl)

namespace Node

variable {n : Node}

theorem unheard_suspendHere (h : n.duty.Unheard) (i : LevelId) : (n.suspendHere i).duty.Unheard := by
  rw [Node.suspendHere_duty]
  exact h.suspendHere i

theorem unheard_accept (h : n.duty.Unheard) (i : LevelId) (r : LevelRequest) : (n.accept i r).duty.Unheard := by
  unfold Node.accept
  extract_lets n1 n2
  have h1 : n1.duty.Unheard := h.put (i := i) (l := r.level) nofun
  have h2 : n2.duty.Unheard := by
    change (if _ then _ else n1 : Node).duty.Unheard
    split
    · exact h1.leave endsUnheard_pulse
    · exact h1
  split
  · split
    · exact unheard_suspendHere h2 i
    · exact h2
  · exact h1

theorem unheard_rampDown (h : n.duty.Unheard) : n.rampDown.duty.Unheard := by
  unfold Node.rampDown
  refine Duty.Unheard.handOver ?_
  split
  next i hholder =>
    split
    next hending =>
      have hended : (n.duty.finish i ((n.duty.get i).cause.getD .ended)).Unheard := h.finish (h.ending i hholder hending)
      unfold Node.takeKept
      split
      · exact unheard_accept (n := (n.onDuty fun d => d.finish i ((n.duty.get i).cause.getD .ended)).onDuty fun d => d.keep i none)
          (hended.keep i none) i _
      · exact hended
    next => exact h
  next => exact h

theorem unheard_settle (h : n.duty.Unheard) (old : Option LevelId) : (n.settle old).duty.Unheard := by
  unfold Node.settle Node.dropSetpoint Node.rampIfIdle
  split
  · exact h
  · split
    · exact unheard_rampDown (n := n.onDuty fun d => d.setpoint 0) (h.setpoint 0)
    · exact h.setpoint 0

theorem unheard_endJoin (h : n.duty.Unheard) : (n.endLevel .join).duty.Unheard := by
  have hleft := unheard_settle (n := n.onDuty fun d => d.leave .join .ended) (h.leave (endsUnheard_join _)) n.duty.owner
  unfold Node.endLevel
  split
  · refine unheard_settle (n := n.onDuty _) ?_ n.duty.owner
    dsimp only [Node.onDuty]
    split
    · exact (h.ends (endsUnheard_join _)).setpoint 0
    · exact h.ends (endsUnheard_join _)
  · exact hleft
  · exact hleft
  · exact h
  · exact h

theorem unheard_requestProtect (h : n.duty.Unheard) : n.requestProtect.duty.Unheard := by
  have hready : (n.onDuty fun d => d.put .protect { Level.empty with state := .ready }).duty.Unheard :=
    h.put (i := .protect) (l := { Level.empty with state := .ready }) (by exact nofun)
  have hsuspended : (exchangeLevels.foldl Node.suspendHere
      (n.onDuty fun d => d.put .protect { Level.empty with state := .ready })).duty.Unheard :=
    unheard_suspendHere (unheard_suspendHere (unheard_suspendHere hready .join) .serve) .test
  unfold Node.requestProtect
  split
  · exact h
  · refine unheard_settle ?_ n.duty.owner
    split
    · exact Duty.Unheard.leave hsuspended endsUnheard_pulse
    · exact hsuspended

end Node

/-- What a completion that no block hears leaves: every block but the Grade Engine, whose PULSE it may be, with its watch. -/
def Node.Rests (n m : Node) : Prop := m = { n with
  grade := { n.grade with state := m.grade.state, working := m.grade.working }, mon := { n.mon with watchGrade := m.mon.watchGrade } }

theorem Node.Rests.trans {n m k : Node} (h : n.Rests m) (hk : m.Rests k) : n.Rests k := by
  unfold Node.Rests at *
  rw [hk, h]

/-- R83, R98: of these completions that of a PULSE alone is taken, which leads to its rest. -/
theorem Node.takeCompletion_unheard (n : Node) {c : Completion} (h : endsUnheard c.level c.cause) : n.Rests (n.takeCompletion c) := by
  have hpulse (hc : c.cause = .invalid) : n.Rests (n.pulseDone c) := by
    have hrest : n.Rests n.enterRestA := by
      unfold Node.enterRestA Node.openRest
      split <;> rfl
    unfold Node.pulseDone
    split
    · split
      next htime _ => rw [hc] at htime; cases htime
      next => exact hrest
    · rfl
  rcases h with h | h | h | ⟨h, hc⟩
  · rw [Node.takeCompletion, h]
    rfl
  · rw [Node.takeCompletion, h]
    rfl
  · rw [Node.takeCompletion, h]
    rfl
  · rw [Node.takeCompletion, h]
    exact hpulse hc

/-- A step whose completions no block hears ends with the Grade Engine's rest at most (R83, R98, R136). -/
theorem Node.takeCompletions_unheard {n : Node} (h : n.duty.Unheard) (htest : n.rail.testEnded = false ∨ n.rail.testOrdinary = none) :
    (n.onDuty fun d => { d with reports := [] }).Rests n.takeCompletions := by
  have hfold (cs : List Completion) (hcs : ∀ c ∈ cs, endsUnheard c.level c.cause) (m : Node) : m.Rests (cs.foldl Node.takeCompletion m) := by
    induction cs generalizing m with
    | nil => rfl
    | cons c cs ih =>
      exact (m.takeCompletion_unheard (hcs c List.mem_cons_self)).trans (ih (fun x hx => hcs x (List.mem_cons_of_mem c hx)) _)
  have htaken := hfold n.duty.reports h.reports n
  generalize hm : n.duty.reports.foldl Node.takeCompletion n = m at htaken
  have hsettled : m.settleTest = m := by
    have hrail : m.rail = n.rail := by rw [htaken]
    unfold Node.settleTest
    split
    next hclass =>
      rw [hrail] at hclass ⊢
      rw [if_neg (by simpa [hclass] using htest)]
    next => rfl
  unfold Node.takeCompletions
  rw [hm, hsettled, htaken]
  rfl

/-! ### PROTECT requested (R84, R87, R88) -/

/-- PROTECT has the converter at 0 A, and these levels, which asked for it, are held here. -/
structure Duty.Protects (is : List LevelId) (d d' : Duty) : Prop where
  protect : d'.protect.state = .ready ∨ d'.protect.state = .running
  zero : d'.conv.setpoint = 0
  held : ∀ i ∈ is, (d.get i).state = .ready ∨ (d.get i).state = .running → (d'.get i).state = .suspended ∧ (d'.get i).heldHere = true

/-- The highest level that asks owns the converter (R78). -/
theorem Duty.owner_of_protect {d : Duty} (h : d.protect.state.asks = true) : d.owner = some .protect := by
  rw [Duty.owner, if_pos h]

theorem Duty.Protects.asks {is : List LevelId} {d d' : Duty} (h : d.Protects is d') : d'.protect.state.asks = true := by
  rcases h.protect with hp | hp <;> rw [hp] <;> rfl

/-- The levels as PROTECT finds them: itself READY, the exchange levels held here, and a RUNNING PULSE ended as invalid. -/
def Duty.guarded (d : Duty) : Duty :=
  let d1 : Duty := (d.put .protect { Level.empty with state := .ready }).updExchange Level.suspendedHere
  if d1.pulse.state = .running then d1.leave .pulse .invalid else d1

theorem Node.requestProtect_duty {n : Node} (h : ¬(n.duty.protect.state = .ready ∨ n.duty.protect.state = .running)) :
    ∃ m : Node, m.duty = n.duty.guarded ∧ n.requestProtect = m.settle n.duty.owner := by
  refine ⟨if (exchangeLevels.foldl Node.suspendHere (n.onDuty fun d => d.put .protect { Level.empty with state := .ready })).duty.pulse.state
      = .running then (exchangeLevels.foldl Node.suspendHere (n.onDuty fun d => d.put .protect { Level.empty with state := .ready })).onDuty
        fun d => d.leave .pulse .invalid
    else exchangeLevels.foldl Node.suspendHere (n.onDuty fun d => d.put .protect { Level.empty with state := .ready }), ?_, ?_⟩
  · have hsuspended := (n.onDuty fun d => d.put .protect { Level.empty with state := .ready }).suspendAll_duty
    unfold Duty.guarded
    dsimp only
    rw [Node.onDuty_duty] at hsuspended
    rw [hsuspended]
    split
    · rw [Node.onDuty_duty, hsuspended]
    · exact hsuspended
  · rw [Node.requestProtect, if_neg h]

/-- What PROTECT finds: itself READY without current, the exchange levels held, and the holder as it was. -/
theorem Duty.guarded_spec (d : Duty) : d.guarded.protect = { Level.empty with state := .ready }
    ∧ (∀ i, i.isExchange = true → d.guarded.get i = (d.get i).suspendedHere) ∧ d.guarded.conv.holder = d.conv.holder := by
  have hget (i : LevelId) (hi : i ≠ .pulse) : d.guarded.get i
      = ((d.put .protect { Level.empty with state := .ready }).updExchange Level.suspendedHere).get i := by
    unfold Duty.guarded
    dsimp only
    split
    · exact (Duty.leave_spec _ .pulse .invalid).2.2 i hi
    · rfl
  refine ⟨hget .protect nofun, fun i hi => ?_, ?_⟩
  · rw [hget i (by rintro rfl; cases hi), Duty.get_updExchange, if_pos hi, Duty.get_put_other _ _ (by rintro rfl; cases hi)]
  · unfold Duty.guarded
    dsimp only
    split
    · obtain ⟨hheld, hother, -⟩ :=
        ((d.put .protect { Level.empty with state := .ready }).updExchange Level.suspendedHere).leave_spec .pulse .invalid
      by_cases hholder : d.conv.holder = some .pulse
      · rw [(hheld hholder).2]
        rfl
      · rw [(hother hholder).2]
        rfl
    · rfl

/-- R84, R87: out of CLEAR PROTECT takes the converter, or waits for it at 0 A, with every exchange level held. -/
theorem Node.requestProtect_protects {n : Node} (hnot : n.notEnding) (hempty : n.duty.protect.state = .empty) :
    n.duty.Protects exchangeLevels n.requestProtect.duty := by
  obtain ⟨m, hm, hsettle⟩ := Node.requestProtect_duty (n := n) (by simp [hempty])
  obtain ⟨hready, hexchange, hholder⟩ := n.duty.guarded_spec
  rw [← hm] at hready hexchange hholder
  have howner : m.duty.owner = some .protect := Duty.owner_of_protect (by rw [hready]; rfl)
  have hchanged : m.duty.owner ≠ n.duty.owner := by
    rw [howner]
    intro hsame
    have hasks := Duty.owner_asks hsame.symm
    change n.duty.protect.state.asks = true at hasks
    rw [hempty] at hasks
    cases hasks
  have hending (i : LevelId) (hi : i.isExchange = true) (hheld : n.duty.conv.holder = some i) : (m.duty.get i).state ≠ .ending := by
    rw [hexchange i hi]
    exact fun h => hnot i hheld (Level.suspendedHere_ending h)
  have hholds : ∀ i, m.duty.conv.holder = some i → (m.duty.get i).state = .ending → i.isExchange = false := fun i hi hstate => by
    by_contra hexch
    exact hending i (by simpa using hexch) (hholder ▸ hi) hstate
  have hheld (d : Duty) (hd : ∀ i, i.isExchange = true → d.get i = m.duty.get i) : ∀ i ∈ exchangeLevels,
      (n.duty.get i).state = .ready ∨ (n.duty.get i).state = .running → (d.get i).state = .suspended ∧ (d.get i).heldHere = true := by
    intro i hi hstate
    have hexch : i.isExchange = true := by
      simp only [exchangeLevels, List.mem_cons, List.not_mem_nil, or_false] at hi
      rcases hi with rfl | rfl | rfl <;> rfl
    rw [hd i hexch, hexchange i hexch, Level.suspendedHere, if_pos (hstate.elim .inl fun h => .inr (.inl h))]
    exact ⟨rfl, rfl⟩
  rw [hsettle, Node.settle_of_ne hchanged]
  rcases Node.dropSetpoint_ramps hholds with hmoving | ⟨d, hidle, hramps⟩
  · rw [hmoving]
    exact ⟨.inl (by change m.duty.protect.state = _; rw [hready]), rfl, hheld _ fun i _ => m.duty.get_setpoint 0 i⟩
  · have hget (i : LevelId) (hi : (m.duty.get i).state ≠ .ending) : d.get i = m.duty.get i := by
      rw [hramps.get i (by rwa [Duty.get_setpoint]), Duty.get_setpoint]
    have hprotect : d.protect = m.duty.protect := hget .protect (by change m.duty.protect.state ≠ _; rw [hready]; exact nofun)
    have hdowner : d.owner = some .protect := Duty.owner_of_protect (by rw [hprotect, hready]; rfl)
    rw [hidle]
    refine ⟨.inr ?_, ?_, fun i hi hstate => ?_⟩
    · change (d.handOver.get .protect).state = _
      rw [Duty.handOver_get, if_pos ⟨hdowner, by change d.protect.state = _; rw [hprotect, hready]⟩]
      rfl
    · obtain hsame | ⟨i, hi, hsetpoint⟩ := d.handOver_setpoint
      · exact hsame.trans (by rw [hramps.conv]; rfl)
      · rw [hdowner] at hi
        obtain rfl := Option.some.inj hi
        refine hsetpoint.trans ?_
        change d.protect.signed = 0
        rw [hprotect, hready]
        rfl
    · obtain ⟨hsuspended, hhere⟩ := hheld m.duty (fun _ _ => rfl) i hi hstate
      have hsame : d.handOver.get i = m.duty.get i := by
        rw [Duty.handOver_get, if_neg, hget i (by rw [hsuspended]; exact nofun)]
        rintro ⟨hown, -⟩
        rw [hdowner] at hown
        obtain rfl := Option.some.inj hown
        simp [exchangeLevels] at hi
      rw [Node.onDuty_duty, hsame]
      exact ⟨hsuspended, hhere⟩

/-- R135: under PROTECT the end of the JOIN moves no other level. -/
theorem Duty.Protects.endJoin {d : Duty} {n : Node} (h : d.Protects exchangeLevels n.duty) :
    d.Protects [.serve, .test] (n.endLevel .join).duty := by
  have howner := Duty.owner_of_protect h.asks
  have hends (f : Duty → Duty) (hget : ∀ i, i ≠ .join → (f n.duty).get i = n.duty.get i) (hzero : (f n.duty).conv.setpoint = 0) :
      d.Protects [.serve, .test] ((n.onDuty f).settle n.duty.owner).duty := by
    have hprotect : (f n.duty).protect = n.duty.protect := hget .protect nofun
    rw [Node.settle_of_owner (n := n.onDuty f) ((Duty.owner_of_protect (by rw [Node.onDuty_duty, hprotect]; exact h.asks)).trans howner.symm)]
    refine ⟨by rw [Node.onDuty_duty, hprotect]; exact h.protect, hzero, fun i hi => ?_⟩
    simp only [List.mem_cons, List.not_mem_nil, or_false] at hi
    rw [Node.onDuty_duty, hget i (by rcases hi with rfl | rfl <;> exact nofun)]
    exact h.held i (by rcases hi with rfl | rfl <;> simp [exchangeLevels])
  have hstands : d.Protects [.serve, .test] n.duty :=
    ⟨h.protect, h.zero, fun i hi => h.held i (by
      simp only [List.mem_cons, List.not_mem_nil, or_false] at hi
      rcases hi with rfl | rfl <;> simp [exchangeLevels])⟩
  have hleaves : d.Protects [.serve, .test] ((n.onDuty fun d => d.leave .join .ended).settle n.duty.owner).duty := by
    obtain ⟨hheld, hother, hget⟩ := n.duty.leave_spec .join .ended
    refine hends _ hget ?_
    by_cases hholder : n.duty.conv.holder = some .join
    · rw [(hheld hholder).2]
    · rw [(hother hholder).2]
      exact h.zero
  unfold Node.endLevel
  split
  · refine hends _ (fun i hi => ?_) ?_
    · dsimp only
      split
      · rw [Duty.get_setpoint, Duty.get_upd_other _ _ hi]
      · rw [Duty.get_upd_other _ _ hi]
    · dsimp only
      split
      · rfl
      · rw [Duty.upd_conv]
        exact h.zero
  · exact hleaves
  · exact hleaves
  · exact hstands
  · exact hstands

/-- The sample set counts on at the levels as they stand, and the converter steps under its setpoint (R77, R82). -/
theorem Duty.Protects.sample {is : List LevelId} {d d' : Duty} (h : d.Protects is d') (current : Int) :
    d.Protects is (d'.sample current) := by
  have hget (i : LevelId) : ((d'.sample current).get i).state = (d'.get i).state
      ∧ ((d'.sample current).get i).heldHere = (d'.get i).heldHere := by
    rw [Duty.sample_get]
    split
    · obtain ⟨hstate, hheld, -⟩ := (d'.get i).advance_counts current
      exact ⟨hstate, hheld⟩
    · exact ⟨rfl, rfl⟩
  have hprotect : (d'.sample current).protect.state = d'.protect.state := (hget .protect).1
  refine ⟨by rw [hprotect]; exact h.protect, ?_, fun i hi hstate => ?_⟩
  · rw [Duty.sample_conv, Converter.step_setpoint]
    exact h.zero
  · rw [(hget i).1, (hget i).2]
    exact h.held i hi hstate

end Sys2Proof.Machine
end

section
/-! PROOFS. SAMPLE_SET with a limit breach (R69, R70, R84, R87, R176): the entries into HARD and SOFT, and the end of such a step. -/

namespace Sys2Proof.Machine

/-- R69, R70: what the limit tests are made from, at a node whose blocks but the measurements stand as before the sample set. -/
theorem Node.sampled_blocks (n : Node) (r : RawSample) : (n.sampled r).duty = n.duty ∧ (n.sampled r).rail = n.rail
    ∧ (n.sampled r).pos = n.pos ∧ (n.sampled r).serv = n.serv ∧ (n.sampled r).mon.limit = n.mon.limit
    ∧ (n.sampled r).mon.now = n.mon.now + 10 := by
  rw [Node.sampled_eq, Node.takeSample_eq]
  exact ⟨rfl, rfl, rfl, rfl, rfl, rfl⟩

/-- A breach taken: the limit state, its timer restarted at 10 s, and completions that no block hears (R70, R83, R88). -/
structure Node.Breached (n : Node) (s : LimitState) (m : Node) : Prop where
  limit : m.mon.limit = s
  timer : m.mon.clearTimer = n.after 10000
  unheard : m.duty.Unheard
  test : m.rail.testEnded = false ∨ m.rail.testOrdinary = none

section
variable {n : Node} (hsettled : n.Settled) (hnot : n.notEnding)
include hsettled hnot

theorem Node.restartClear_breached (s : LimitState) : n.Breached s (n.restartClear s) :=
  ⟨rfl, rfl, .of_notEnding (n := n.restartClear s) hsettled.1 hnot, hsettled.2⟩

/-- R70, R84: the breach out of CLEAR requests PROTECT. -/
theorem Node.requestProtect_breached (s : LimitState) : n.Breached s (n.restartClear s).requestProtect := by
  obtain ⟨-, -, hunheard, htest⟩ := Node.restartClear_breached hsettled hnot s
  have hduty := Node.unheard_requestProtect hunheard
  have hdrives := (Node.Drives.refl (n.restartClear s)).requestProtect
  refine ⟨?_, ?_, hduty, ?_⟩
  all_goals rw [hdrives]
  · rfl
  · rfl
  · exact htest

/-- R70, R176: the entry into HARD opens the contactor and reports LIMIT with its kind; out of CLEAR, PROTECT is requested. -/
theorem Node.hardLimit_enters {k : BreachKind} (hlimit : n.mon.limit ≠ .hard) : n.Breached .hard (n.hardLimit k)
    ∧ (n.hardLimit k).pos.contactor = .safe
    ∧ (n.hardLimit k).serv.faults = (takeReport .limit (some k) n.seconds n.serv.faults).1
    ∧ (n.mon.limit = .clear → n.duty.protect.state = .empty → n.duty.Protects [.serve, .test] (n.hardLimit k).duty) := by
  obtain ⟨p, hp⟩ : ∃ p, (if n.mon.limit = .clear then (n.restartClear .hard).requestProtect else n.restartClear .hard) = p := ⟨_, rfl⟩
  have hbreached : n.Breached .hard p := by
    rw [← hp]
    split
    · exact Node.requestProtect_breached hsettled hnot .hard
    · exact Node.restartClear_breached hsettled hnot .hard
  have hdrives : (n.restartClear .hard).Drives p := hp ▸ (Node.Drives.refl (n.restartClear .hard)).requestProtect.ite (.refl _)
  have hevent : n.hardLimit k = p.hardPath.reportFault .limit (some k) := by rw [Node.hardLimit, if_neg hlimit, ← hp]
  have hbreaks := p.hardPath_breaks
  rw [hevent, Node.reportFault_eq]
  refine ⟨⟨?_, ?_, ?_, ?_⟩, hbreaks.contactor, ?_, fun hclear hempty => ?_⟩
  · rw [hbreaks.eq]
    exact hbreached.limit
  · rw [hbreaks.eq]
    exact hbreached.timer
  · change p.hardPath.duty.Unheard
    rcases hbreaks.duty with hduty | ⟨q, hq, hduty⟩ <;> rw [hduty]
    · exact hbreached.unheard
    · exact Node.unheard_endJoin (hq ▸ hbreached.unheard)
  · change p.hardPath.rail.testEnded = _ ∨ p.hardPath.rail.testOrdinary = _
    rw [hbreaks.ended, hbreaks.ordinary]
    exact hbreached.test
  · rw [hbreaks.eq, hdrives]
    rfl
  · have hprotects : n.duty.Protects exchangeLevels p.duty := by
      rw [← hp, if_pos hclear]
      exact Node.requestProtect_protects (n := n.restartClear .hard) hnot hempty
    change n.duty.Protects _ p.hardPath.duty
    rcases hbreaks.duty with hduty | ⟨q, hq, hduty⟩ <;> rw [hduty]
    · refine ⟨hprotects.protect, hprotects.zero, fun i hi => hprotects.held i ?_⟩
      simp only [exchangeLevels, List.mem_cons] at hi ⊢
      exact .inr hi
    · exact Duty.Protects.endJoin (hq ▸ hprotects)

/-- R70: a soft breach leads to SOFT where no hard one stands, and to no other block but the levels. -/
theorem Node.softLimit_enters : n.Breached (if n.mon.limit = .hard then .hard else .soft) n.softLimit
    ∧ n.softLimit.pos = n.pos ∧ n.softLimit.serv = n.serv
    ∧ (n.mon.limit = .clear → n.duty.protect.state = .empty → n.duty.Protects exchangeLevels n.softLimit.duty) := by
  unfold Node.softLimit
  cases hlimit : n.mon.limit with
  | clear =>
    have hdrives := (Node.Drives.refl (n.restartClear .soft)).requestProtect
    refine ⟨Node.requestProtect_breached hsettled hnot .soft, ?_, ?_, fun _ hempty =>
      Node.requestProtect_protects (n := n.restartClear .soft) hnot hempty⟩
    all_goals dsimp only; rw [hdrives]; rfl
  | soft => exact ⟨Node.restartClear_breached hsettled hnot .soft, rfl, rfl, nofun⟩
  | hard => exact ⟨Node.restartClear_breached hsettled hnot .hard, rfl, rfl, nofun⟩

end

/-- The end of a step with a breach: position record, node services and limit state stand, and the levels have counted on. -/
theorem Node.Breached.conclude {n m : Node} {s : LimitState} (h : n.Breached s m) (current : Int) (before : Node) :
    let k := (m.onDuty fun d => d.sample current).conclude before
    k.mon.limit = s ∧ k.mon.clearTimer = n.after 10000 ∧ k.pos = m.pos ∧ k.serv = m.serv
      ∧ k.duty = { m.duty.sample current with reports := [] } := by
  intro k
  have hrests : (m.onDuty fun d => { d.sample current with reports := [] }).Rests (m.onDuty fun d => d.sample current).takeCompletions :=
    Node.takeCompletions_unheard (n := m.onDuty fun d => d.sample current) (h.unheard.sample current) h.test
  simp only [k, Node.conclude_mon, Node.conclude_pos, Node.conclude_serv, Node.conclude_duty]
  rw [hrests]
  exact ⟨h.limit, h.timer, rfl, rfl, rfl⟩

theorem Duty.Protects.told {is : List LevelId} {d d' : Duty} (h : d.Protects is d') : d.Protects is { d' with reports := [] } where
  protect := h.protect
  zero := h.zero
  held i hi hstate := by
    have hheld := h.held i hi hstate
    cases i <;> exact hheld

/-- Settles O20: `hardLimit_enters` and `softLimit_enters` on the sampled node, and `Node.Breached.conclude` for the end of the step. -/
theorem limitBreachTakesProtect : Obligations.LimitBreachTakesProtect := by
  intro n w r hsettled hnot x kind held protects
  obtain ⟨hduty, hrail, hpos, hserv, hlimit, hnow⟩ := n.sampled_blocks r
  obtain ⟨hsample, hprofile, hcell⟩ := n.sampled_tests r
  have hsettled' : (n.sampled r).Settled := by rw [Node.Settled, hduty, hrail]; exact hsettled
  have hnot' : (n.sampled r).notEnding := by rw [Node.notEnding, hduty]; exact hnot
  have hpres := (n.sampleSet_mon r).1
  have htimer : (n.sampled r).after 10000 = some (n.mon.now + 10010) := by simp only [Node.after, hnow, Nat.add_assoc, Nat.reduceAdd]
  have hexec : exec (.sampleSet r) ⟨n, w⟩ = .next ⟨((n.sampled r).limitTests.onDuty fun d => d.sample x.current).conclude n, w⟩ :=
    State.act_eq (f := fun n => n.sampleSet r) rfl
  rw [Node.sampleSet_eq] at hpres
  rw [← hlimit, hexec]
  constructor
  · intro hhard
    have hevent : (n.sampled r).limitTests = (n.sampled r).hardLimit kind :=
      Node.limitTests_of_hard (by rw [hsample, hprofile]; exact Node.hardBreach_of_breaches hhard)
    rw [hevent] at hpres ⊢
    refine ⟨_, rfl, ?_⟩
    by_cases hin : (n.sampled r).mon.limit = .hard
    · have hbreached := Node.restartClear_breached hsettled' hnot' .hard
      obtain ⟨hhardly, htimed, hposition, hservices, -⟩ := hbreached.conclude x.current n
      have hstays : (n.sampled r).hardLimit kind = (n.sampled r).restartClear .hard := by rw [Node.hardLimit, if_pos hin]
      rw [hstays] at hpres ⊢
      exact ⟨hhardly, htimed.trans htimer, hpres, absurd hin, absurd hin, fun hclear => absurd (hin.symm.trans hclear) nofun,
        fun _ => ⟨hposition.trans hpos, hservices.trans hserv⟩⟩
    · obtain ⟨hbreached, hsafe, hfaults, hprotects⟩ := Node.hardLimit_enters hsettled' hnot' (k := kind) hin
      obtain ⟨hhardly, htimed, hposition, hservices, hlevels⟩ := hbreached.conclude x.current n
      refine ⟨hhardly, htimed.trans htimer, hpres, fun _ => ?_, fun _ hroom => ?_, fun hclear hempty => ?_, fun h => absurd h hin⟩
      · rw [hposition, hsafe]
        exact ⟨rfl, rfl⟩
      · have hroom' : (n.sampled r).faultRoom .limit := by rw [Node.faultRoom, hserv]; exact hroom
        rw [hservices, hfaults, takeReport_of_room hroom', hserv, Node.newFault, hnow]
        rfl
      · have hguards := ((hprotects hclear (hduty ▸ hempty)).sample x.current).told
        rw [← hlevels, hduty] at hguards
        exact ⟨hguards.protect, hguards.zero, hguards.held .serve (by simp), hguards.held .test (by simp)⟩
  · intro hhard hsoft
    have hevent : (n.sampled r).limitTests = (n.sampled r).softLimit :=
      Node.limitTests_of_soft (by rw [hsample, hprofile]; exact Node.hardBreach_of_not hhard)
        (by rw [hsample, hprofile, hcell]; exact (n.softBreach_iff x).2 hsoft)
    rw [hevent] at hpres ⊢
    obtain ⟨hbreached, hposition, hservices, hprotects⟩ := Node.softLimit_enters hsettled' hnot'
    obtain ⟨hlimited, htimed, hposition', hservices', hlevels⟩ := hbreached.conclude x.current n
    refine ⟨_, rfl, hlimited, htimed.trans htimer, fun hclear hempty => ?_, hposition'.trans (hposition.trans hpos),
      hservices'.trans (hservices.trans hserv), hpres⟩
    have hguards := ((hprotects hclear (hduty ▸ hempty)).sample x.current).told
    rw [← hlevels, hduty] at hguards
    exact ⟨⟨hguards.protect, hguards.zero, hguards.held .serve (by simp [exchangeLevels]), hguards.held .test (by simp [exchangeLevels])⟩,
      hguards.held .join (by simp [exchangeLevels])⟩

end Sys2Proof.Machine
end

section
/-! PROOFS. REST_WATCH_COMPLETE of the Grade Engine (R97, R98, R108): PULSE requested or the rest again, and the long rest published. -/

namespace Sys2Proof.Machine

/-! ### PULSE requested (R79, R98) -/

/-- No block hears of PROTECT's end (R83). -/
theorem Node.takeCompletions_of_protect {n : Node} (hreports : ∀ c ∈ n.duty.reports, c.level = .protect)
    (htest : n.rail.testEnded = false ∨ n.rail.testOrdinary = none) :
    n.takeCompletions = n.onDuty fun d => { d with reports := [] } := by
  have hfold (cs : List Completion) (hcs : ∀ c ∈ cs, c.level = .protect) : cs.foldl Node.takeCompletion n = n := by
    induction cs with
    | nil => rfl
    | cons c cs ih =>
      have hignored : n.takeCompletion c = n := by rw [Node.takeCompletion, hcs c List.mem_cons_self]
      rw [List.foldl_cons, hignored]
      exact ih fun x hx => hcs x (List.mem_cons_of_mem c hx)
  have hsettled : n.settleTest = n := by
    unfold Node.settleTest
    split
    next hclass => exact if_neg (by simpa [hclass] using htest)
    next => rfl
  rw [Node.takeCompletions, hfold n.duty.reports hreports, hsettled]

theorem Duty.not_exchanging {d : Duty} (h : d.exchanging = false) :
    d.join.state = .empty ∧ d.serve.state = .empty ∧ d.test.state = .empty := by
  simpa [Duty.exchanging, and_assoc] using h

/-- A PULSE made ready while no exchange level stands: it has the converter, or waits for it, and PROTECT alone may end. -/
theorem Node.settle_pulse {n : Node} {r : LevelRequest} (hreports : n.duty.reports = []) (hidle : n.duty.exchanging = false) :
    ∃ d, (n.accept .pulse r).settle n.duty.owner = n.onDuty (fun _ => d)
      ∧ (∀ c ∈ d.reports, c.level = .protect) ∧ (d.pulse = r.level ∨ d.pulse = r.level.start) := by
  obtain ⟨hjoin, hserve, htest⟩ := Duty.not_exchanging hidle
  have hnone : ∀ c ∈ (n.duty.put .pulse r.level).reports, c.level = .protect := by simp [hreports]
  have hending (i : LevelId) (hi : ((n.duty.put .pulse r.level).get i).state = .ending) : i = .protect := by
    cases i with
    | protect => rfl
    | join => cases hjoin.symm.trans hi
    | serve => cases hserve.symm.trans hi
    | test => cases htest.symm.trans hi
    | pulse => cases hi
  have haccept : n.accept .pulse r = n.onDuty fun d => d.put .pulse r.level := rfl
  rw [haccept]
  by_cases howner : (n.onDuty fun d => d.put .pulse r.level).duty.owner = n.duty.owner
  · rw [Node.settle_of_owner howner]
    exact ⟨_, rfl, hnone, .inl rfl⟩
  · rw [Node.settle_of_ne howner]
    rcases Node.dropSetpoint_ramps (n := n.onDuty fun d => d.put .pulse r.level)
      (fun i _ hi => by rw [hending i hi]; rfl) with hmoving | ⟨d, hdropped, hramps⟩
    · rw [hmoving]
      exact ⟨_, rfl, hnone, .inl rfl⟩
    · have hready : d.get .pulse = r.level := hramps.get .pulse (by exact nofun)
      rw [hdropped]
      refine ⟨d.handOver, rfl, fun c hc => ?_, ?_⟩
      · rw [Duty.handOver_reports] at hc
        rcases hramps.reports c hc with hold | ⟨-, hended⟩
        · exact hnone c hold
        · rw [Duty.get_setpoint] at hended
          exact hending _ hended
      · change d.handOver.get .pulse = _ ∨ d.handOver.get .pulse = _
        rw [Duty.handOver_get, hready]
        split
        · exact .inr rfl
        · exact .inl rfl

/-- R98: a PULSE that is refused leads to the rest again. -/
theorem Node.startPulse_refused {n : Node} {p : Plan} (h : n.takesRequest .pulse p.pulseRequest = false) :
    n.startPulse p = n.enterRestA := if_neg (by simp [h])

/-- R79, R98: a PULSE that is taken reaches the levels and the grade state alone. -/
theorem Node.startPulse_taken {n : Node} {p : Plan} (hreports : n.duty.reports = []) (h : n.takesRequest .pulse p.pulseRequest = true) :
    ∃ d, n.startPulse p = { n with grade := { n.grade with state := .pulse }, duty := d } ∧ (∀ c ∈ d.reports, c.level = .protect)
      ∧ (n.duty.pulse.state = .empty → d.pulse = p.pulseRequest.level ∨ d.pulse = p.pulseRequest.level.start) := by
  have htaken : (n.onGrade fun g => { g with state := .pulse }).takesRequest .pulse p.pulseRequest = true := h
  have hidle : n.duty.exchanging = false := by
    simp only [Node.takesRequest, Bool.and_eq_true, Bool.not_eq_true'] at h
    simpa using h.2
  rw [Node.startPulse, if_pos h, Node.requestLevel, if_pos htaken]
  split
  next hending =>
    refine ⟨n.duty.keep .pulse (some p.pulseRequest), rfl, ?_, fun hempty => ?_⟩
    · simp [Duty.keep_reports, hreports]
    · cases hempty.symm.trans hending
  next =>
    obtain ⟨d, hd, hprotect, hpulse⟩ := Node.settle_pulse (n := n.onGrade fun g => { g with state := .pulse }) (r := p.pulseRequest)
      hreports hidle
    exact ⟨d, hd, hprotect, fun _ => hpulse⟩

theorem Node.conclude_of_protect {m before : Node} (hreports : ∀ c ∈ m.duty.reports, c.level = .protect)
    (htest : m.rail.testEnded = false ∨ m.rail.testOrdinary = none) (hmark : m.mark = before.mark) :
    m.conclude before = m.onDuty fun d => { d with reports := [] } := by
  rw [Node.conclude, Node.takeCompletions_of_protect hreports htest]
  exact if_pos hmark

/-! ### Reading A (R97) -/

/-- The node that has taken reading A, with its charge counter restarted (R97). -/
def Node.readA (n : Node) (v : Nat) : Node :=
  { n with
    grade := { n.grade with readingA := some (n.readingOf v) }
    mon := { n.mon with
      reading := some (n.readingOf v), watchGrade := none, counter := { count := 0, residue := 0, running := true, saturated := false } } }

section
variable {n : Node} {d v : Nat} {p : Plan} (hwatch : n.mon.watchGrade = some { duration := d, sampled := true })
  (hrest : d ≤ n.mon.rest) (haverage : n.average = some v) (hplan : n.pres.plan = some p)
include hwatch hrest haverage hplan

theorem Node.gradeWatch_readsA (hactive : n.pres.state = .active) (hstate : n.grade.state = .restA) :
    n.gradeWatchComplete = (n.readA v).startPulse p := by
  have hlive : (n.gradeRested v).live = true := by
    change n.live = true
    rw [Node.live, hactive]
    rfl
  have hworks : (n.gradeRested v).active = true := by
    change n.active = true
    simp [Node.active, hactive]
  rw [Node.gradeWatchComplete_eq hwatch hrest haverage, Node.gradeReading, if_pos hlive,
    show (n.gradeRested v).grade.state = .restA from hstate]
  dsimp only
  rw [Node.takeReadingA, show (n.gradeRested v).pres.plan = some p from hplan]
  exact if_pos hworks

/-- R97, R98: with reading A taken the PULSE is requested, or where an exchange level stands the rest begins again. -/
theorem Node.gradeWatch_pulses (hsettled : n.Settled) (hactive : n.pres.state = .active) (hstate : n.grade.state = .restA)
    (hlow : 2 ≤ p.pulseCurrent) (hhigh : p.pulseCurrent ≤ 10) :
    ∃ g mon d, n.gradeWatchComplete.conclude n = { n with grade := g, mon := mon, duty := d }
      ∧ g.readingA = some (n.readingOf v) ∧ mon.reading = some (n.readingOf v)
      ∧ mon.counter = { count := 0, residue := 0, running := true, saturated := false }
      ∧ (n.duty.exchanging = false → n.duty.pulse.state = .empty → g.state = .pulse ∧ mon.watchGrade = none
          ∧ (d.pulse = p.pulseRequest.level ∨ d.pulse = p.pulseRequest.level.start))
      ∧ (n.duty.exchanging = true → g.state = .restA ∧ mon.watchGrade = some { duration := p.restTime * 60000, sampled := false }
          ∧ d = n.duty) := by
  rw [Node.gradeWatch_readsA hwatch hrest haverage hplan hactive hstate]
  have hlive : (n.readA v).live = true := by
    change n.live = true
    rw [Node.live, hactive]
    rfl
  cases htakes : (n.readA v).takesRequest .pulse p.pulseRequest with
  | false =>
    have hrests : (n.readA v).enterRestA = { n.readA v with
        grade := { (n.readA v).grade with state := .restA, working := (n.readA v).freshRecord }
        mon := { (n.readA v).mon with watchGrade := some { duration := p.restTime * 60000, sampled := false } } } :=
      Node.openRest_of_plan (n := (n.readA v).onGrade _) hplan
    rw [Node.startPulse_refused htakes, hrests]
    refine ⟨_, _, _, Node.conclude_of_mark hsettled rfl, rfl, rfl, rfl, fun hidle hpulse => ?_, fun _ => ⟨rfl, rfl, rfl⟩⟩
    have hfits : p.pulseRequest.fits .pulse = true := by simp [LevelRequest.fits, LevelId.isExchange, Plan.pulseRequest, hlow, hhigh]
    have hasks : ((n.readA v).duty.get .pulse).state.asks = false := by
      change n.duty.pulse.state.asks = false
      rw [hpulse]
      rfl
    have hexchanging : (n.readA v).duty.exchanging = false := hidle
    simp [Node.takesRequest, hlive, hfits, hasks, hexchanging] at htakes
  | true =>
    obtain ⟨d, hd, hprotect, hpulse⟩ := Node.startPulse_taken (n := n.readA v) hsettled.1 htakes
    rw [hd]
    refine ⟨_, _, _, Node.conclude_of_protect hprotect hsettled.2 rfl, rfl, rfl, rfl, fun _ hempty => ⟨rfl, rfl, hpulse hempty⟩,
      fun hexchanging => ?_⟩
    have hstands : (n.readA v).duty.exchanging = true := hexchanging
    simp [Node.takesRequest, hstands] at htakes

end

/-! ### The end of a bond (R176) -/

/-- What the end of a bond leaves of the blocks but the Position Manager: the Rail Allocator's offer, wait count and test, and the
levels where no RELEASE is handed. -/
structure Node.Unties (release : Bool) (n m : Node) : Prop where
  eq : m = { n with line := { n.line with queue := m.line.queue }, duty := m.duty, rail := m.rail, pos := m.pos
                    mon := { n.mon with watchPosition := m.mon.watchPosition } }
  held : m.rail.held = n.rail.held
  wait : n.rail.wait = 0 → m.rail.wait = 0
  ordinary : m.rail.testOrdinary = n.rail.testOrdinary
  ended : m.rail.testEnded = n.rail.testEnded
  duty : release = false → m.duty = n.duty
  contactor : n.pos.contactor = .safe → m.pos.contactor = .safe
  watch : n.mon.watchPosition = none → m.mon.watchPosition = none

theorem Node.endBond_unties (n : Node) (release : Bool) : n.Unties release (n.endBond release) := by
  unfold Node.endBond
  split
  · extract_lets n1 n2
    have hopens := n.opens
    have hrecalls := (Node.Recalls.refl ((n.driveContactor false none).bypass none)).withdrawJoin (release := release)
    have hduty := ((n.driveContactor false none).bypass none).withdrawJoin_duty release
    obtain ⟨queue, repeats, hclaims, -⟩ := n2.withdrawClaim_spec n.pos.lead n.pos.partner
    have hwithdrawn : n2 = { (((n.driveContactor false none).bypass none).withdrawJoin release) with
        pos := n2.pos, mon := { (((n.driveContactor false none).bypass none).withdrawJoin release).mon with watchPosition := none } } := rfl
    have hcontactor : n1.pos.contactor = (((n.driveContactor false none).bypass none).withdrawJoin release).pos.contactor := rfl
    generalize ((n.driveContactor false none).bypass none).withdrawJoin release = k at hrecalls hduty hwithdrawn hcontactor
    have hopened (α : Type) (f : Node → α) (hf : ∀ q, f { n with pos := q } = f n) : f ((n.driveContactor false none).bypass none) = f n := by
      rw [hopens.eq, hf]
    have hrail := hopened _ Node.rail fun _ => rfl
    rw [hclaims]
    refine ⟨?_, ?_, ?_, ?_, ?_, fun hrelease => ?_, fun hsafe => ?_, fun _ => congrArg (fun k => k.mon.watchPosition) hwithdrawn⟩
    · rw [hwithdrawn, hrecalls.eq, hopens.eq]
    · exact (congrArg (fun k => k.rail.held) hwithdrawn).trans (hrecalls.held.trans (by rw [hrail]))
    · exact fun h => (congrArg (fun k => k.rail.wait) hwithdrawn).trans (hrecalls.wait (by rw [hrail]; exact h))
    · exact (congrArg (fun k => k.rail.testOrdinary) hwithdrawn).trans (hrecalls.ordinary.trans (by rw [hrail]))
    · exact (congrArg (fun k => k.rail.testEnded) hwithdrawn).trans (hrecalls.ended.trans (by rw [hrail]))
    · refine (congrArg Node.duty hwithdrawn).trans ?_
      rcases hduty with hsame | ⟨htrue, -⟩
      · exact hsame.trans (hopened _ Node.duty fun _ => rfl)
      · cases hrelease.symm.trans htrue
    · have hdriven : ((n.driveContactor false none).bypass none).pos.contactor = .safe := by
        have hmoved : (n.driveContactor false none).pos.contactor = .safe := by
          change n.pos.contactor.move false _ = .safe
          rw [hsafe]
          rfl
        unfold Node.bypass
        split
        · exact hmoved
        · exact hmoved
      change n1.pos.contactor = .safe
      have hkept : n1.pos.contactor = k.pos.contactor := hcontactor
      rw [hkept, hrecalls.eq]
      exact hdriven
  · exact ⟨rfl, rfl, id, rfl, rfl, fun _ => rfl, id, id⟩

/-! ### The long rest published (R95, R108) -/

/-- What the blocks that hear of a publication leave of the Grade Engine: the record published, its generation and the attempts; and a
graded node is graded still, and rests no more where it did not. -/
structure Node.GradeStands (n m : Node) : Prop where
  published : m.grade.published = n.grade.published
  generation : m.grade.generation = n.grade.generation
  attempts : m.grade.attempts = n.grade.attempts
  graded : n.grade.state = .graded → m.grade.state = .graded
  rests : n.Graded → n.mon.watchGrade = none → m.Graded ∧ m.mon.watchGrade = none

namespace Node.GradeStands

variable {n m : Node}

theorem refl (n : Node) : n.GradeStands n := ⟨rfl, rfl, rfl, id, fun h hw => ⟨h, hw⟩⟩

theorem trans {k : Node} (h : n.GradeStands m) (hk : m.GradeStands k) : n.GradeStands k where
  published := hk.published.trans h.published
  generation := hk.generation.trans h.generation
  attempts := hk.attempts.trans h.attempts
  graded := hk.graded ∘ h.graded
  rests hn hw := hk.rests (h.rests hn hw).1 (h.rests hn hw).2

theorem ite {c : Prop} [Decidable c] {a b : Node} (ha : n.GradeStands a) (hb : n.GradeStands b) : n.GradeStands (if c then a else b) := by
  split
  · exact ha
  · exact hb

/-- Another block changes. -/
theorem of_eq {k : Node} (hgrade : k.grade = m.grade) (hwatch : k.mon.watchGrade = m.mon.watchGrade) (h : n.GradeStands m) :
    n.GradeStands k :=
  h.trans ⟨by rw [hgrade], by rw [hgrade], by rw [hgrade], by rw [hgrade]; exact id, by
    rw [Node.Graded, Node.Graded, hgrade, hwatch]
    exact And.intro⟩

theorem onPair {f : Pairing → Pairing} (h : n.GradeStands m) : n.GradeStands (m.onPair f) := of_eq (m := m) rfl rfl h

theorem hand {k : Kind} {fields : List (Nat × Value)} (h : n.GradeStands m) : n.GradeStands (m.hand k fields) :=
  h.of_eq (by rw [Node.hand_eq]) (by rw [Node.hand_eq])

/-- R93, R107: the regime does not start at a graded node, and a long rest that is aborted leads to GRADED. -/
theorem pairReported (h : n.GradeStands m) : n.GradeStands m.pairReported := by
  have hregime (k : Node) (hk : k.Graded) : k.startRegime = k := by
    refine if_neg ?_
    rcases hk with hk | hk <;> simp [Node.mayStart, hk]
  have hgraded (hm : m.Graded) : m.pairReported = m ∨ m.pairReported = m.cancelGrade.onGrade fun g => { g with state := .graded } := by
    unfold Node.pairReported
    split
    · exact .inl (hregime m hm)
    · unfold Node.abortSelfRest
      split
      · exact .inr (hregime _ (.inl rfl))
      · exact .inl (hregime m hm)
  refine h.trans ⟨?_, ?_, ?_, fun hm => ?_, fun hm hw => ?_⟩
  · rw [Node.pairReported_eq]
  · rw [Node.pairReported_eq]
  · rw [Node.pairReported_eq]
  · rcases hgraded (.inl hm) with hsame | hrested
    · rw [hsame]
      exact hm
    · rw [hrested]
      rfl
  · rcases hgraded hm with hsame | hrested
    · rw [hsame]
      exact ⟨hm, hw⟩
    · rw [hrested]
      exact ⟨.inl rfl, rfl⟩

theorem setPair {s : PairState} (h : n.GradeStands m) : n.GradeStands (m.setPair s) := h.ite h.onPair.pairReported

theorem retarget (h : n.GradeStands m) : n.GradeStands m.retarget := h.onPair

theorem bar {x : Nat} (h : n.GradeStands m) : n.GradeStands (m.bar x) := by
  unfold Node.bar
  split
  · exact h.onPair.retarget
  · exact h

theorem propose {t : Nat} (h : n.GradeStands m) : n.GradeStands (m.propose t) := by
  unfold Node.propose
  split
  · exact h.hand.onPair.setPair
  · exact h

theorem seekOn (h : n.GradeStands m) : n.GradeStands m.seekOn := by
  unfold Node.seekOn
  split
  · exact h.propose.ite h
  · exact h

theorem testEligible (h : n.GradeStands m) : n.GradeStands m.testEligible := by
  unfold Node.testEligible
  split
  · split
    · exact h.setPair.seekOn.ite h
    · exact h.ite h.setPair
    · exact h.ite (setPair h.onPair)
    all_goals exact h
  · exact h

theorem rederive (h : n.GradeStands m) : n.GradeStands m.rederive := by
  have hlisted : n.GradeStands (m.onPeers fun t => { t with cands := m.derive }) := of_eq (m := m) rfl rfl h
  exact h.ite (hlisted.retarget.seekOn.ite hlisted)

theorem endBond {release : Bool} (h : n.GradeStands m) : n.GradeStands (m.endBond release) :=
  h.of_eq (m.endBond_unbonds release).grade (by rw [(m.endBond_unties release).eq])

theorem dissolve {cause : Nat} {send release : Bool} (h : n.GradeStands m) : n.GradeStands (m.dissolve cause send release) := by
  unfold Node.dissolve
  split
  · split
    · extract_lets n1 n2 n3
      have h2 : n.GradeStands n2 := onPair (h.hand.ite h)
      have h3 : n.GradeStands n3 := h2.bar.ite h2
      exact h3.endBond.setPair.testEligible
    · exact h
  · exact h

theorem testBond (h : n.GradeStands m) : n.GradeStands m.testBond := by
  unfold Node.testBond
  split
  · exact h.dissolve.ite h
  · exact h

end Node.GradeStands

/-- R98, R101: a graded node takes no completion, and the Rail Allocator alone hears of the end of its test. -/
theorem Node.takeCompletions_of_graded {n : Node} (h : n.Graded) :
    ∃ r, n.takeCompletions = { n with rail := r, duty := { n.duty with reports := [] } } := by
  have hdone (m : Node) (hm : m.grade = n.grade) (ordinary : Bool) : m.testDone ordinary = m :=
    if_neg fun htest => by rcases h with h | h <;> simp [hm, h] at htest
  have htake (r : Rail) (c : Completion) : ∃ r', ({ n with rail := r } : Node).takeCompletion c = { n with rail := r' } := by
    have hpulse : ({ n with rail := r } : Node).pulseDone c = { n with rail := r } :=
      if_neg fun hpulse => by rcases h with h | h <;> simp [h] at hpulse
    have hstopped : ∃ r', ({ n with rail := r } : Node).testStopped c.exchange = { n with rail := r' } := by
      unfold Node.testStopped
      split
      · exact ⟨_, hdone { n with rail := r.testTaken c.exchange } rfl true⟩
      · exact ⟨r, rfl⟩
    unfold Node.takeCompletion
    split
    · exact ⟨r, hpulse⟩
    · exact hstopped
    · exact hstopped
    all_goals exact ⟨_, rfl⟩
  have hfold (cs : List Completion) : ∀ r, ∃ r', cs.foldl Node.takeCompletion ({ n with rail := r } : Node) = { n with rail := r' } := by
    induction cs with
    | nil => exact fun r => ⟨r, rfl⟩
    | cons c cs ih =>
      intro r
      obtain ⟨r', hr⟩ := htake r c
      rw [List.foldl_cons, hr]
      exact ih r'
  obtain ⟨r, hr⟩ : ∃ r, n.duty.reports.foldl Node.takeCompletion n = { n with rail := r } := hfold n.duty.reports n.rail
  have hsettled : ∃ r', ({ n with rail := r } : Node).settleTest = { n with rail := r' } := by
    unfold Node.settleTest
    split
    · split
      · exact ⟨_, hdone _ (by rfl) _⟩
      · exact ⟨r, rfl⟩
    · exact ⟨r, rfl⟩
  obtain ⟨r', hr'⟩ := hsettled
  exact ⟨r', by rw [Node.takeCompletions, hr, hr']; rfl⟩

/-- R95: the record published with its generation, and what the blocks that hear of it leave. -/
theorem Node.publish_stands (n : Node) (r : Record) : (n.publish r).grade.published = r
    ∧ (n.publish r).grade.generation = (n.grade.generation + 1) % 256 ∧ (n.publish r).grade.attempts = n.grade.attempts
    ∧ (n.Graded → n.mon.watchGrade = none → (n.publish r).Graded ∧ (n.publish r).mon.watchGrade = none) := by
  let published : Node := n.onGrade fun g => { g with published := r, generation := (g.generation + 1) % 256 }
  have hhanded := published.handGrade_only
  have hstands : published.handGrade.GradeStands (n.publish r) := (Node.GradeStands.refl _).rederive.testBond.testEligible
  refine ⟨hstands.published.trans ?_, hstands.generation.trans ?_, hstands.attempts.trans ?_, fun hgraded hwatch => hstands.rests ?_ ?_⟩
  all_goals rw [hhanded]
  · rfl
  · rfl
  · rfl
  · exact hgraded
  · exact hwatch

/-! #### The class of a record (R109, R110) -/

/-- The chains read the figures alone. -/
theorem chainResult_withClass (r : Record) (k : Class) (cs : List Criterion) : chainResult { r with cls := k } cs = chainResult r cs := by
  have hvalue (d : Criterion) : d.value { r with cls := k } = d.value r := by
    have hfig : Record.fig { r with cls := k } d.kind = r.fig d.kind := by cases d.kind <;> rfl
    rw [Criterion.value, Criterion.value, hfig]
  cases cs with
  | nil => rfl
  | cons d ds => simp only [chainResult, hvalue]

theorem Plan.classify_withClass (p : Plan) (r : Record) (k : Class) : p.classify { r with cls := k } = p.classify r := by
  simp only [Plan.classify, chainResult_withClass]

/-- R108: a node whose long rest completes publishes its record with SDR, and is graded. -/
theorem Node.endSelfRest_publishes {n : Node} {p : Plan} {start finish : Nat} {r : RestReading} (hplan : n.pres.plan = some p)
    (hstart : n.grade.restStart = some start) (hfinish : r.soc = some finish) (hstate : n.grade.state = .selfRest)
    (hwatch : n.mon.watchGrade = none) (before : Node) :
    let m := (n.endSelfRest r).conclude before
    let w : Record := { n.grade.working with sdr := some (sdrOf start finish p.selfRest) }
    m.grade.state = .graded ∧ m.mon.watchGrade = none ∧ m.mon.reading = n.mon.reading
      ∧ m.grade.published = { w with cls := p.classify w } ∧ m.grade.generation = (n.grade.generation + 1) % 256
      ∧ m.grade.attempts = n.grade.attempts ∧ m.pres = n.pres := by
  intro m w
  let rested : Node := n.onGrade fun g => { g with working := { w with cls := p.classify w } }
  obtain ⟨e, he⟩ : ∃ e, rested.publish { w with cls := p.classify w } = e := ⟨_, rfl⟩
  have hevent : n.endSelfRest r = e.gradeTo .graded := by
    rw [Node.endSelfRest, hplan, hstart, hfinish, ← he]
  obtain ⟨hpublished, hgeneration, hattempts, hrests⟩ := rested.publish_stands { w with cls := p.classify w }
  rw [he] at hpublished hgeneration hattempts hrests
  have hends : (e.onGrade fun g => { g with state := .graded }).GradeStands (e.gradeTo .graded) := (Node.GradeStands.refl _).testEligible
  have hgraded : (e.gradeTo .graded).grade.state = .graded := hends.graded rfl
  have hnot : n.grade.state ≠ .restA := by rw [hstate]; exact nofun
  have hkeeps : n.Keeps .gradeFail m := by
    have hpublishes : n.Keeps .gradeFail e :=
      he ▸ ((Node.Keeps.refl _ n).onGrade (f := fun g => { g with working := { w with cls := p.classify w } }) rfl id).publish
    have hgrades : n.Keeps .gradeFail (e.gradeTo .graded) :=
      (hpublishes.leaveGrade (f := fun g => { g with state := .graded }) rfl hnot).testEligible
    exact (hevent ▸ hgrades).conclude
  obtain ⟨r', hconcluded⟩ := Node.takeCompletions_of_graded (n := n.endSelfRest r) (.inl (by rw [hevent]; exact hgraded))
  have hgrade : m.grade = (e.gradeTo .graded).grade := by rw [Node.conclude_grade, hconcluded, hevent]
  have hmon : m.mon = (e.gradeTo .graded).mon := by rw [Node.conclude_mon, hconcluded, hevent]
  rw [hgrade]
  refine ⟨hgraded, ?_, ?_, ?_, ?_, ?_, hkeeps.pres⟩
  · rw [hmon]
    exact (hends.rests (.inl rfl) (hrests (.inr hstate) hwatch).2).2
  · rw [hkeeps.mon]
  · rw [hends.published]
    exact hpublished
  · rw [hends.generation]
    exact hgeneration
  · rw [hends.attempts]
    exact hattempts

/-- Settles O23: reading A by `gradeWatch_pulses`, and the end of the long rest by `endSelfRest_publishes`. -/
theorem restCompletesReading : Obligations.RestCompletesReading := by
  intro n w d v p hsettled hwatch hrest haverage hplan
  refine ⟨fun hactive hstate hlow hhigh => ?_, fun start hstart finish hfinish hlive hstate => ?_⟩
  · obtain ⟨g, mon, levels, hnode, hreading, hlast, hcounter, hpulses, hrests⟩ :=
      Node.gradeWatch_pulses hwatch hrest haverage hplan hsettled hactive hstate hlow hhigh
    refine ⟨_, State.act_eq (f := Node.gradeWatchComplete) hnode, hreading, hlast, hcounter,
      fun hjoin hserve htest hempty => ?_, fun hstands => ?_, rfl, rfl, rfl, rfl, rfl, rfl, rfl⟩
    · obtain ⟨hstate', hclosed, hlevel⟩ := hpulses (by simp [Duty.exchanging, hjoin, hserve, htest]) hempty
      dsimp only
      refine ⟨hstate', hclosed, ?_⟩
      rcases hlevel with hlevel | hlevel <;> rw [hlevel]
      · exact ⟨.inl rfl, rfl, rfl, rfl⟩
      · exact ⟨.inr rfl, rfl, rfl, rfl⟩
    · exact hrests (by simpa [Duty.exchanging, or_assoc] using hstands)
  · have hevent : n.gradeWatchComplete = (n.gradeRested v).endSelfRest (n.readingOf v) := by
      rw [Node.gradeWatchComplete_eq hwatch hrest haverage, Node.gradeReading,
        if_pos (show (n.gradeRested v).live = true from hlive), show (n.gradeRested v).grade.state = .selfRest from hstate]
    obtain ⟨hgraded, hclosed, hlast, hpublished, hgeneration, hattempts, hpres⟩ :=
      Node.endSelfRest_publishes (n := n.gradeRested v) hplan hstart hfinish hstate rfl n
    rw [← hevent] at hgraded hclosed hlast hpublished hgeneration hattempts hpres
    refine ⟨_, rfl, hgraded, hclosed, hlast, ?_, ?_, hgeneration, hattempts, hpres⟩
    · rw [hpublished]
      rfl
    · rw [hpublished]
      exact (p.classify_withClass _ _).symm

end Sys2Proof.Machine
end

section
/-! PROOFS. MODULE_CHANGE (R72, R89, R114, R143, R162, R176, R179): what each block makes of it, one after another. -/

namespace Sys2Proof.Machine

/-! ### The levels at a module change (R89) -/

/-- The setpoint's going to 0 under levels that are over and keep no request hands it to none (R78, R89). -/
theorem Node.dropSetpoint_zero {n : Node} (hover : ∀ i, (n.duty.get i).over) (hkept : ∀ i, n.duty.kept i = none) :
    n.dropSetpoint.duty.conv.setpoint = 0 := by
  have hhanded {d : Duty} (hd : ∀ i, (d.get i).over) : d.handOver.conv.setpoint = d.conv.setpoint := by
    obtain hsame | ⟨i, howner, -⟩ := d.handOver_setpoint
    · exact hsame
    · cases (hd i).not_asks.symm.trans (Duty.owner_asks howner)
  have hzero (i : LevelId) : ((n.duty.setpoint 0).get i).over := by
    rw [Duty.get_setpoint]
    exact hover i
  have hnone (i : LevelId) : (n.duty.setpoint 0).kept i = none := by
    rw [← hkept i]
    cases i <;> rfl
  have hended (i : LevelId) : ((n.onDuty fun d => d.setpoint 0).onDuty fun d => d.finish i ((d.get i).cause.getD .ended)).takeKept i
      = (n.onDuty fun d => d.setpoint 0).onDuty fun d => d.finish i ((d.get i).cause.getD .ended) := by
    rw [Node.takeKept]
    simp only [Node.onDuty_duty, Duty.finish_kept, hnone]
  unfold Node.dropSetpoint Node.rampIfIdle
  split
  · unfold Node.rampDown
    rw [Node.onDuty_duty]
    split
    next i _ =>
      split
      · obtain ⟨hempty, hothers, hconv⟩ := (n.duty.setpoint 0).finish_spec i (((n.duty.setpoint 0).get i).cause.getD .ended)
        rw [hended]
        refine (hhanded fun j => ?_).trans (congrArg Converter.setpoint hconv)
        change (((n.duty.setpoint 0).finish i (((n.duty.setpoint 0).get i).cause.getD .ended)).get j).over
        by_cases hji : j = i
        · rw [hji, hempty]
          exact .inl rfl
        · rw [hothers j hji]
          exact hzero j
      · exact hhanded hzero
    next => exact hhanded hzero
  · rfl

/-- R89: at a module change every level is over and reports nothing, the setpoint is 0, and no other block hears of it. -/
theorem Node.clearLevelsToZero_all (n : Node) (hreports : n.duty.reports = []) :
    let m := n.clearLevelsToZero [.protect, .join, .serve, .test, .pulse]
    m = { n with duty := m.duty } ∧ m.duty.reports = [] ∧ (∀ i, (m.duty.get i).over) ∧ m.duty.conv.setpoint = 0 := by
  obtain ⟨hcleared, -, -, hsame⟩ := Duty.clearAll_spec [.protect, .join, .serve, .test, .pulse] n.duty
  obtain ⟨d, hd⟩ : ∃ d, List.foldl Duty.clear n.duty [.protect, .join, .serve, .test, .pulse] = d := ⟨_, rfl⟩
  rw [hd] at hcleared hsame
  have hall (i : LevelId) : (d.get i).over ∧ d.kept i = none ∧ ((d.get i).state = .ending → (d.get i).reported = false) :=
    hcleared i (by cases i <;> simp)
  have hdropped := Node.dropSetpoint_of_cleared (n := ({ n with duty := d } : Node)) (fun i _ => (hall i).2.1) (fun i _ => (hall i).2.2)
  obtain ⟨hnode, hnone, hover⟩ := hdropped
  intro m
  have hm : m = ({ n with duty := d } : Node).dropSetpoint := Node.clearLevelsToZero_eq hd
  rw [hm]
  exact ⟨hnode, hnone.trans (hsame.trans hreports), fun i => hover i (hall i).1,
    Node.dropSetpoint_zero (n := ({ n with duty := d } : Node)) (fun i => (hall i).1) fun i => (hall i).2.1⟩

/-! ### The Rail Allocator at a module change (R143) -/

theorem Node.endLevel_of_over {n : Node} {i : LevelId} (h : (n.duty.get i).over) : n.endLevel i = n := by
  unfold Node.endLevel
  rcases h with h | h <;> rw [h]

/-- R143: offer, wait count and test end, and no level moves that is over. -/
theorem Node.railModule_ends {n : Node} (hlive : n.live = true) (hover : ∀ i, (n.duty.get i).over) :
    n.railModule = { n with line := { n.line with queue := n.railModule.line.queue }, rail := n.railModule.rail }
      ∧ n.railModule.rail.held = none ∧ n.railModule.rail.wait = 0 ∧ n.railModule.rail.testOrdinary = none
      ∧ n.railModule.rail.testEnded = false := by
  have hreleased : ∃ q r, n.releaseOwn causeStop = { n with line := { n.line with queue := q }, rail := r } := by
    unfold Node.releaseOwn
    split
    next o _ =>
      extract_lets n2
      have h2 : ∃ q r, n2 = { n with line := { n.line with queue := q }, rail := r } := by
        unfold n2
        rw [Node.handRail_eq]
        exact ⟨_, _, rfl⟩
      obtain ⟨q, r, h2⟩ := h2
      have hstays : n2.endLevel o.level = n2 := Node.endLevel_of_over (by rw [h2]; exact hover _)
      rw [hstays, ite_self]
      exact ⟨q, r, h2⟩
    next => exact ⟨n.line.queue, n.rail, rfl⟩
  obtain ⟨q, r, hreleased⟩ := hreleased
  have hwithdrawn (m : Node) : ∃ r', m.withdrawTest false = { m with rail := r' } ∧ r'.testOrdinary = none ∧ r'.testEnded = false := by
    have htest : ∃ r', (if m.rail.testing = true then
        if m.rail.side.asking = true then m.backToWaiting.onRail fun r => { r.dropRequest with side := .idle }
        else (match m.rail.own with
          | some o => if false = true ∧ o.servesTest = true then m.releaseOwn causeStop else m
          | none => m).onRail Rail.dropRequest
      else m) = { m with rail := r' } := by
      split
      · split
        · exact ⟨_, rfl⟩
        · refine ⟨m.rail.dropRequest, ?_⟩
          split
          · rw [if_neg (by simp)]
            rfl
          · rfl
      · exact ⟨m.rail, rfl⟩
    obtain ⟨r', hr'⟩ := htest
    refine ⟨{ r' with testOrdinary := none, testEnded := false }, ?_, rfl, rfl⟩
    unfold Node.withdrawTest
    exact congrArg (fun k : Node => k.onRail fun r => { r with testOrdinary := none, testEnded := false }) hr'
  obtain ⟨r', hwithdrawn, hordinary, hended⟩ := hwithdrawn { n with line := { n.line with queue := q }, rail := r }
  have heq : n.railModule = { n with line := { n.line with queue := q }, rail := { r' with held := none, heldTimer := none, wait := 0 } } := by
    rw [Node.railModule, hreleased, hwithdrawn]
    exact if_pos hlive
  rw [heq]
  exact ⟨rfl, rfl, rfl, hordinary, hended⟩

end Sys2Proof.Machine
end

section
/-! PROOFS. MODULE_CHANGE (R162, R176): the Pairing Engine and the Position Manager on a node whose grade is cleared. -/

namespace Sys2Proof.Machine

/-- R146: a cleared grade makes no node eligible. -/
theorem Node.Fresh.not_eligible {n : Node} (h : n.Fresh) : n.eligible = false := by
  rcases h.state with hstate | ⟨hstate, -⟩ <;> simp [Node.eligible, hstate]

/-- The pair states that are left once a grade is cleared: those that neither seek nor propose. -/
def Node.unsought (n : Node) : Prop := n.pair.state ≠ .seeking ∧ n.pair.state ≠ .proposing

theorem Node.Fresh.testEligible {n : Node} (h : n.Fresh) (hpair : n.unsought) : n.testEligible = n := by
  unfold Node.testEligible
  rw [h.not_eligible]
  split
  · split
    next => rfl
    next hs => exact absurd hs hpair.1
    next hs => exact absurd hs hpair.2
    all_goals rfl
  · rfl

theorem Node.Fresh.of_eq {n m : Node} (h : n.Fresh) (hgrade : m.grade = n.grade) (htag : m.mon.tagState = n.mon.tagState)
    (hpres : m.pres = n.pres) : m.Fresh := by
  refine ⟨?_, ?_, ?_, ?_⟩
  all_goals rw [hgrade]
  · rw [htag, hpres]
    exact h.state
  · exact h.cls
  · exact h.cap
  · exact h.res

/-- What the end of a bond and the steps of leaving make of a node whose levels are over and whose grade is cleared: the Rail
Allocator's offer, wait count and test stand, the contactor stays open, and no watch of the Position Manager is opened. -/
structure Node.Renews (n m : Node) : Prop where
  eq : m = { n with
    line := { n.line with queue := m.line.queue }, rail := m.rail, pair := m.pair, pos := m.pos
    grade := { n.grade with state := m.grade.state, working := m.grade.working }
    mon := { n.mon with watchGrade := m.mon.watchGrade, watchPosition := m.mon.watchPosition } }
  held : m.rail.held = n.rail.held
  wait : n.rail.wait = 0 → m.rail.wait = 0
  ordinary : m.rail.testOrdinary = n.rail.testOrdinary
  ended : m.rail.testEnded = n.rail.testEnded
  contactor : n.pos.contactor = .safe → m.pos.contactor = .safe
  watch : n.mon.watchPosition = none → m.mon.watchPosition = none
  fresh : n.Fresh → m.Fresh

namespace Node.Renews

variable {n m : Node}

theorem refl (n : Node) : n.Renews n := ⟨rfl, rfl, id, rfl, rfl, id, id, id⟩

theorem trans {k : Node} (h : n.Renews m) (hk : m.Renews k) : n.Renews k where
  eq := by rw [hk.eq, h.eq]
  held := hk.held.trans h.held
  wait := hk.wait ∘ h.wait
  ordinary := hk.ordinary.trans h.ordinary
  ended := hk.ended.trans h.ended
  contactor := hk.contactor ∘ h.contactor
  watch := hk.watch ∘ h.watch
  fresh := hk.fresh ∘ h.fresh

theorem ite {c : Prop} [Decidable c] {a b : Node} (ha : n.Renews a) (hb : n.Renews b) : n.Renews (if c then a else b) := by
  split
  · exact ha
  · exact hb

theorem onPair {f : Pairing → Pairing} (h : n.Renews m) : n.Renews (m.onPair f) :=
  h.trans ⟨rfl, rfl, id, rfl, rfl, id, id, fun hm => hm.of_eq rfl rfl rfl⟩

theorem hand {k : Kind} {fields : List (Nat × Value)} (h : n.Renews m) : n.Renews (m.hand k fields) :=
  h.trans (by rw [Node.hand_eq]; exact ⟨rfl, rfl, id, rfl, rfl, id, id, fun hm => hm.of_eq rfl rfl rfl⟩)

theorem setPair {s : PairState} (h : n.Renews m) : n.Renews (m.setPair s) := by
  have hfresh : m.Fresh → (m.setPair s).Fresh := fun hm => hm.setPair s
  have hstep := m.setPair_eq s
  refine h.trans ?_
  generalize m.setPair s = k at hfresh hstep
  refine ⟨?_, ?_, ?_, ?_, ?_, ?_, ?_, hfresh⟩
  all_goals rw [hstep]
  all_goals exact id

theorem bar {x : Nat} (h : n.Renews m) : n.Renews (m.bar x) := by
  unfold Node.bar
  split
  · exact h.onPair.onPair
  · exact h

theorem unbinding {x cause : Nat} (h : n.Renews m) : n.Renews (m.unbinding x cause true) := h.hand.onPair.bar.ite h.hand.onPair

theorem endBond (h : n.Renews m) : n.Renews (m.endBond false) := by
  have hends := m.endBond_unties false
  generalize m.endBond false = k at hends
  have hduty := hends.duty rfl
  have hblocks := hends.eq
  rw [hduty] at hblocks
  refine h.trans ⟨?_, hends.held, hends.wait, hends.ordinary, hends.ended, hends.contactor, hends.watch, fun hm => hm.of_eq ?_ ?_ ?_⟩
  all_goals rw [hblocks]

/-- R154, R162: a bond dissolved at a node with a cleared grade, which seeks no new one. -/
theorem dissolve {cause : Nat} (hfresh : m.Fresh) (h : n.Renews m) : n.Renews (m.dissolve cause true false) := by
  refine h.trans ?_
  cases hbonded : m.bonded with
  | false => rw [Node.dissolve_of_not_bonded hbonded]; exact refl m
  | true =>
    cases hpartner : m.pair.partner with
    | none =>
      have hsame : m.dissolve cause true false = m := by
        unfold Node.dissolve
        rw [hpartner]
      rw [hsame]
      exact refl m
    | some x =>
      have hset := ((refl m).unbinding (x := x) (cause := cause)).endBond.setPair (s := .unpaired)
      rw [Node.dissolve_of_bonded hbonded hpartner, (hset.fresh hfresh).testEligible (by simp [Node.unsought])]
      exact hset

theorem departs {k : Node} (hk : m.Departs k) (h : n.Renews m) : n.Renews k := by
  obtain ⟨hcontactor, -⟩ := hk.stands
  have hfresh := hk.fresh
  have heq := hk.eq
  refine h.trans ⟨?_, ?_, ?_, ?_, ?_, fun hsafe => hcontactor.trans hsafe, ?_, hfresh⟩
  all_goals rw [heq]
  all_goals exact id

/-- R176: the JOIN of a couple that begins to leave is withdrawn without a RELEASE. -/
theorem departing {r : Reason} (h : n.Renews m) : n.Renews (m.departing r false) := by
  have hrecalls := (Node.Recalls.refl m).withdrawJoin (release := false)
  have hduty : (m.withdrawJoin false).duty = m.duty := (m.withdrawJoin_duty false).resolve_right fun hr => by cases hr.1
  obtain ⟨hdeparting, hcontactor⟩ := m.departing_eq r false
  have heq := hrecalls.eq
  rw [hduty] at heq
  refine h.trans ⟨?_, ?_, ?_, ?_, ?_, fun hsafe => hcontactor.trans hsafe, ?_, fun hm => hm.of_eq ?_ ?_ ?_⟩
  · rw [hdeparting, heq]
  · rw [hdeparting]
    exact hrecalls.held
  · rw [hdeparting]
    exact hrecalls.wait
  · rw [hdeparting]
    exact hrecalls.ordinary
  · rw [hdeparting]
    exact hrecalls.ended
  · rw [hdeparting, heq]
    exact id
  all_goals rw [hdeparting, heq]

theorem endBar (h : n.Renews m) : n.Renews m.endBar := by
  unfold Node.endBar Node.retarget
  exact h.onPair.onPair

theorem pairModule (hfresh : m.Fresh) (h : n.Renews m) : n.Renews m.pairModule := by
  unfold Node.pairModule
  extract_lets n1
  have h1 : m.Renews n1 := (setPair (refl m).onPair).ite (refl m)
  exact h.trans (h1.dissolve (h1.fresh hfresh)).endBar

theorem modulePath (h : n.Renews m) : n.Renews m.modulePath := by
  unfold Node.modulePath
  exact ite (h.departing.departs (m.beginLeave_departs .module false)) ((h.departs (Node.Departs.refl m).stepsAtOnce).ite h)

end Node.Renews

/-! ### The Pairing Engine (R162) -/

/-- What the module change makes of the pair: the bond, the bar and the proposal end. -/
structure Node.Parts (n m : Node) : Prop where
  unsought : m.unsought
  unbonded : m.bonded = false ∨ m.pair.partner = none
  sought : n.pair.state = .seeking ∨ n.pair.state = .proposing → m.pair.state = .unpaired
  parted : ∀ x, n.pair.partner = some x → n.bonded = true →
    m.pair.state = .unpaired ∧ m.pair.partner = none ∧ m.pair.lastCause = some unbindModule
  barred : m.pair.barred = none ∧ m.pair.barTimer = none

theorem Node.endBar_pair (n : Node) :
    n.endBar.pair = { n.pair with barred := none, barTimer := none, target := n.endBar.pair.target } := rfl

theorem Node.Fresh.dissolve_unpairs {n : Node} (h : n.Fresh) {x : Nat} (hbonded : n.bonded = true) (hpartner : n.pair.partner = some x) :
    (n.dissolve unbindModule true false).pair.state = .unpaired := by
  have hfresh := (((Node.Renews.refl n).unbinding (x := x) (cause := unbindModule)).endBond.setPair (s := .unpaired)).fresh h
  rw [Node.dissolve_of_bonded hbonded hpartner, hfresh.testEligible (by simp [Node.unsought]), Node.setPair_state]

theorem Node.pairModule_parts {n : Node} (h : n.Fresh) : n.Parts n.pairModule := by
  by_cases hseeks : n.pair.state = .seeking ∨ n.pair.state = .proposing
  · have hunpaired : (n.endProposal.setPair .unpaired).pair.state = .unpaired := Node.setPair_state _ _
    have hsingle : (n.endProposal.setPair .unpaired).bonded = false := Node.not_bonded_of_single (.inl hunpaired)
    have hevent : n.pairModule = (n.endProposal.setPair .unpaired).endBar := by
      rw [Node.pairModule, if_pos hseeks, Node.dissolve_of_not_bonded hsingle]
    rw [hevent]
    refine ⟨?_, .inl hsingle, fun _ => hunpaired, fun x _ hbonded => ?_, rfl, rfl⟩
    · rw [Node.unsought, Node.endBar_pair, hunpaired]
      exact ⟨nofun, nofun⟩
    · rcases hseeks with hs | hs <;> simp [Node.bonded, hs] at hbonded
  · have hevent : n.pairModule = (n.dissolve unbindModule true false).endBar := by rw [Node.pairModule, if_neg hseeks]
    have hstays (hsame : n.dissolve unbindModule true false = n) (hfree : n.bonded = false ∨ n.pair.partner = none) :
        n.Parts n.pairModule := by
      rw [hevent, hsame]
      refine ⟨not_or.1 hseeks, hfree, fun hs => absurd hs hseeks, fun x hpartner hbonded => ?_, rfl, rfl⟩
      rcases hfree with hfree | hfree
      · cases hfree.symm.trans hbonded
      · cases hfree.symm.trans hpartner
    cases hbonded : n.bonded with
    | false => exact hstays (Node.dissolve_of_not_bonded hbonded _ _ _) (.inl hbonded)
    | true =>
      cases hpartner : n.pair.partner with
      | none => exact hstays (by unfold Node.dissolve; rw [hpartner]) (.inr hpartner)
      | some x =>
        have hunpaired := h.dissolve_unpairs hbonded hpartner
        have hdissolves := Node.dissolve_dissolves hbonded hpartner unbindModule true false
        rw [hevent]
        refine ⟨?_, .inr hdissolves.partner, fun hs => absurd hs hseeks, fun _ _ _ => ⟨hunpaired, hdissolves.partner, hdissolves.lastCause⟩,
          rfl, rfl⟩
        rw [Node.unsought, Node.endBar_pair, hunpaired]
        exact ⟨nofun, nofun⟩

/-- R176: the end of a bond leaves a couple in the string to the Position Manager's own part. -/
theorem Node.pairModule_inString {n : Node} (h : n.pos.phase = .inString) : n.pairModule.pos = n.pos := by
  have hset (m : Node) (s : PairState) : (m.setPair s).pos = m.pos := by rw [Node.setPair_eq]
  have hdissolve (m : Node) (hm : m.pos.phase = .inString) : (m.dissolve unbindModule true false).pos = m.pos := by
    cases hbonded : m.bonded with
    | false => rw [Node.dissolve_of_not_bonded hbonded]
    | true =>
      cases hpartner : m.pair.partner with
      | none => unfold Node.dissolve; rw [hpartner]
      | some x =>
        have hunbinding : (m.unbinding x unbindModule true).pos = m.pos := by
          change (m.hand .unbind (twoFields x unbindModule)).pos = m.pos
          rw [Node.hand_eq]
        rw [Node.dissolve_of_bonded hbonded hpartner, (Node.Seeks.refl _).testEligible.pos, hset, Node.endBond,
          if_neg (by simp [hunbinding, hm, Phase.bonds]), hunbinding]
  unfold Node.pairModule
  extract_lets n1
  have h1 : n1.pos = n.pos := by
    unfold n1
    split
    · rw [hset]
      rfl
    · rfl
  exact (hdissolve n1 (by rw [h1]; exact h)).trans h1

/-- R158: no step of leaving makes a pair anew. -/
theorem Node.Parts.departs {n m k j : Node} (h : n.Parts m) (hpair : k.pair = m.pair) (hdeparts : k.Departs j) : n.Parts j := by
  have hsteps := hdeparts.pair
  rw [hpair] at hsteps
  rcases hsteps with hsame | ⟨hstate, hleaving⟩
  · have hbonded : j.bonded = m.bonded := by rw [Node.bonded, hsame]; rfl
    refine ⟨?_, ?_, ?_, ?_, ?_⟩
    · rw [Node.unsought, hsame]
      exact h.unsought
    · rw [hbonded, hsame]
      exact h.unbonded
    all_goals rw [hsame]
    · exact h.sought
    · exact h.parted
    · exact h.barred
  · have hpaired : m.pair.state ≠ .unpaired := by rcases hstate with hs | hs <;> rw [hs] <;> exact nofun
    refine ⟨?_, .inl ?_, fun hs => absurd (h.sought hs) hpaired, fun x hx hbonded => absurd (h.parted x hx hbonded).1 hpaired, ?_⟩
    · rw [Node.unsought, hleaving]
      exact ⟨nofun, nofun⟩
    · simp [Node.bonded, hleaving]
    · rw [hleaving]
      exact h.barred

/-- R176: a couple in the string leaves for the module, and no pair is made. -/
theorem Node.modulePath_leaves {n m : Node} (h : n.Parts m) : n.Parts m.modulePath
    ∧ (m.pos.phase = .inString → m.modulePath.pos.phase = .vacating ∧ m.modulePath.pos.leaveReason = .module) := by
  unfold Node.modulePath
  split
  · have hleaves := m.beginLeave_departs .module false
    obtain ⟨-, hphase, hreason⟩ := hleaves.stands
    have hpair : (m.departing .module false).pair = m.pair := by
      rw [(m.departing_eq .module false).1, (Node.Recalls.refl m).withdrawJoin.eq]
    exact ⟨h.departs hpair hleaves, fun _ => ⟨hphase, hreason⟩⟩
  next hout =>
    split
    · exact ⟨h.departs rfl (Node.Departs.refl m).stepsAtOnce, fun hin => absurd hin hout⟩
    · exact ⟨h, fun hin => absurd hin hout⟩

/-! ### The cleared record published (R95, R114) -/

/-- R95: at a node whose grade is cleared, which neither seeks nor has a partner to test, a publication reaches the Peer Table's list and
the target alone. -/
theorem Node.Fresh.publish {n : Node} (h : n.Fresh) (hunsought : n.unsought) (hunbonded : n.bonded = false ∨ n.pair.partner = none)
    (r : Record) : ∃ queue cands target, n.publish r = { n with
      line := { n.line with queue := queue }, peers := { n.peers with cands := cands }, pair := { n.pair with target := target }
      grade := { n.grade with published := r, generation := (n.grade.generation + 1) % 256, repeatTimer := n.gradeDue } } := by
  obtain ⟨k, hk⟩ : ∃ k, ((n.onGrade fun g => { g with published := r, generation := (g.generation + 1) % 256 }).handGrade).rederive = k :=
    ⟨_, rfl⟩
  have hhanded := (n.onGrade fun g => { g with published := r, generation := (g.generation + 1) % 256 }).handGrade_only
  obtain ⟨target, hlisted⟩ := Node.rederive_of_not_seeking
    (n := (n.onGrade fun g => { g with published := r, generation := (g.generation + 1) % 256 }).handGrade) (by rw [hhanded]; exact hunsought.1)
  rw [hk, hhanded] at hlisted
  have htested : k.testBond = k := by
    unfold Node.testBond
    split
    next x hpartner =>
      refine if_neg fun htest => ?_
      rw [hlisted] at htest hpartner
      rcases hunbonded with hfree | hfree
      · cases hfree.symm.trans htest.1
      · cases hfree.symm.trans hpartner
    next => rfl
  have hfresh : k.Fresh := by
    rw [hlisted]
    exact ⟨h.state, h.cls, h.cap, h.res⟩
  have heligible : k.testEligible = k := hfresh.testEligible (by rw [hlisted]; exact hunsought)
  have hevent : n.publish r = k := by
    rw [← heligible, ← htested, ← hk]
    rfl
  rw [hevent, hlisted]
  exact ⟨_, _, _, rfl⟩

end Sys2Proof.Machine
end

section
/-! PROOFS. MODULE_CHANGE from its first block to its last (R72, R114, R179). -/

namespace Sys2Proof.Machine

/-! ### The fault list (R178, R179) -/

/-- R178: a report adds at most the fault reported. -/
theorem takeReport_mem {c : FaultCode} {detail : Option BreachKind} {seen : Nat} {l : List FaultEntry} (hnew : ∀ e ∈ l, e.code ≠ c)
    {e : FaultEntry} (he : e ∈ (takeReport c detail seen l).1) : e ∈ l ∨ e.code = c := by
  have hnone : l.find? (fun e => e.code == c) = none := List.find?_eq_none.2 fun e he => by simpa using hnew e he
  have hadded {l' : List FaultEntry} (hsub : l' ⊆ l)
      (h : e ∈ l' ++ [{ code := c, detail := detail, active := c.condition, seen := seen }]) : e ∈ l ∨ e.code = c := by
    rcases List.mem_append.1 h with hold | hlast
    · exact .inl (hsub hold)
    · rw [List.mem_singleton.1 hlast]
      exact .inr rfl
  simp only [takeReport, hnone] at he
  split at he
  · exact hadded (fun _ h => h) he
  · split at he
    next hdrop => exact hadded (dropLatched_spec hdrop).2.subset he
    next => exact .inl he

/-- The part of Status and Service in a module change, and the start of the regime (R93, R179). -/
def Node.moduleReports (n : Node) : Node :=
  let told : Node :=
    (if n.removeModuleFaults.mon.tagState = .unknown then n.removeModuleFaults.reportFault .tag else n.removeModuleFaults).startRegime
  if n.removeModuleFaults.serv.faults = n.serv.faults then told else told.rebuildPresence

theorem Node.moduleReports_eq (n : Node) : n.moduleReports = { n with
      line := { n.line with queue := n.moduleReports.line.queue }, serv := { n.serv with faults := n.moduleReports.serv.faults }
      grade := { n.grade with state := n.moduleReports.grade.state, working := n.moduleReports.grade.working }
      mon := { n.mon with watchGrade := n.moduleReports.mon.watchGrade } }
    ∧ (n.Fresh → n.moduleReports.Fresh)
    ∧ ∀ e ∈ n.moduleReports.serv.faults, e.code ≠ .limit ∧ e.code ≠ .gradeFail ∧ (e.code = .tag → n.mon.tagState = .unknown) := by
  obtain ⟨k, hk⟩ : ∃ k, (if n.removeModuleFaults.mon.tagState = .unknown then n.removeModuleFaults.reportFault .tag
    else n.removeModuleFaults) = k := ⟨_, rfl⟩
  have hkept {e : FaultEntry} (he : e ∈ n.removeModuleFaults.serv.faults) : e.code ≠ .limit ∧ e.code ≠ .tag ∧ e.code ≠ .gradeFail := by
    simpa [and_assoc] using (List.mem_filter.1 he).2
  have hreported : k = { n with line := { n.line with queue := k.line.queue }, serv := { n.serv with faults := k.serv.faults } }
      ∧ ∀ e ∈ k.serv.faults, e.code ≠ .limit ∧ e.code ≠ .gradeFail ∧ (e.code = .tag → n.mon.tagState = .unknown) := by
    rw [← hk]
    split
    next hunknown =>
      rw [Node.reportFault_eq]
      refine ⟨rfl, fun e he => ?_⟩
      rcases takeReport_mem (fun e he => (hkept he).2.1) he with hold | hnew
      · obtain ⟨hlimit, htag, hgrade⟩ := hkept hold
        exact ⟨hlimit, hgrade, fun h => absurd h htag⟩
      · rw [hnew]
        exact ⟨nofun, nofun, fun _ => hunknown⟩
    next =>
      refine ⟨rfl, fun e he => ?_⟩
      obtain ⟨hlimit, htag, hgrade⟩ := hkept he
      exact ⟨hlimit, hgrade, fun h => absurd h htag⟩
  obtain ⟨hnode, hfaults⟩ := hreported
  have hstarted := k.startRegime_eq
  have hfresh : n.Fresh → k.startRegime.Fresh := fun h => by
    refine Node.Fresh.startRegime (h.of_eq ?_ ?_ ?_)
    all_goals rw [hnode]
  have hevent : ∃ queue, n.moduleReports = { k.startRegime with line := { k.startRegime.line with queue := queue } } := by
    unfold Node.moduleReports
    rw [hk]
    split
    · exact ⟨k.startRegime.line.queue, rfl⟩
    · exact ⟨_, rfl⟩
  obtain ⟨queue, hevent⟩ := hevent
  have hserv : k.startRegime.serv = k.serv := by rw [hstarted]
  generalize k.startRegime = j at hevent hstarted hfresh hserv
  rw [hevent]
  refine ⟨?_, fun h => (hfresh h).of_eq rfl rfl rfl, ?_⟩
  · rw [hstarted, hnode]
  · dsimp only
    rw [hserv]
    exact hfaults

/-! ### The blocks in turn (R72) -/

/-- The node whose Module Monitor has taken the new module (R72). -/
def Node.moduleTaken (n : Node) : Node :=
  (n.onMon Monitor.changed).onMon fun m => { m with tagState := (n.onMon Monitor.changed).judgeTag m.tag }

theorem Node.moduleTaken_eq (n : Node) :
    n.moduleTaken = { n with mon := { n.mon.changed with tagState := n.judgeTag n.mon.tagSeen } } := rfl

/-- Its contactor open, its levels cleared, its exchange released and its grade cleared (R89, R114, R143, R176). -/
def Node.moduleCleared (n : Node) : Node :=
  (n.moduleTaken.hardwareOpen.clearLevelsToZero [.protect, .join, .serve, .test, .pulse]).railModule.gradeModule

theorem Node.changeModule_eq (n : Node) : n.changeModule =
    (n.moduleCleared.pairModule.modulePath.publish n.moduleCleared.pairModule.modulePath.grade.working).moduleReports := by
  unfold Node.moduleCleared Node.moduleTaken Node.moduleReports
  rfl

/-- What stands of a node whose levels, exchange and grade a module change has cleared. -/
structure Node.Cleared (n m : Node) : Prop where
  eq : m = { n with
    line := { n.line with queue := m.line.queue }, mon := n.moduleTaken.mon, duty := m.duty, rail := m.rail
    grade := { n.grade with state := .ungraded, attempts := 0, working := m.grade.working }, pos := n.hardwareOpen.pos }
  fresh : m.Fresh
  reports : m.duty.reports = []
  levels : ∀ i, (m.duty.get i).over
  zero : m.duty.conv.setpoint = 0
  held : m.rail.held = none
  wait : m.rail.wait = 0
  ordinary : m.rail.testOrdinary = none
  ended : m.rail.testEnded = false

theorem Node.moduleCleared_cleared {n : Node} (hreports : n.duty.reports = []) (hlive : n.live = true) : n.Cleared n.moduleCleared := by
  obtain ⟨hnode, hnone, hover, hzero⟩ := n.moduleTaken.hardwareOpen.clearLevelsToZero_all hreports
  obtain ⟨z, hz⟩ : ∃ z, n.moduleTaken.hardwareOpen.clearLevelsToZero [.protect, .join, .serve, .test, .pulse] = z := ⟨_, rfl⟩
  rw [hz] at hnode hnone hover hzero
  obtain ⟨hrailed, hheld, hwait, hordinary, hended⟩ := Node.railModule_ends (n := z) (by rw [hnode]; exact hlive) hover
  have hevent : n.moduleCleared = z.railModule.gradeModule := by rw [Node.moduleCleared, hz]
  have hgraded : z.railModule.gradeModule.Fresh := by
    obtain ⟨hcls, hcap, hres⟩ : z.railModule.freshRecord.cls = .none ∧ z.railModule.freshRecord.cap = none
        ∧ z.railModule.freshRecord.res = none := by
      unfold Node.freshRecord
      split <;> exact ⟨rfl, rfl, rfl⟩
    exact ⟨.inl rfl, hcls, hcap, hres⟩
  have hduty : z.railModule.gradeModule.duty = z.duty := by
    change z.railModule.duty = z.duty
    rw [hrailed]
  rw [hevent]
  refine ⟨?_, hgraded, ?_, ?_, ?_, hheld, hwait, hordinary, hended⟩
  · rw [Node.gradeModule, hrailed, hnode]
    rfl
  all_goals rw [hduty]
  · exact hnone
  · exact hover
  · exact hzero

/-- R72: pair and couple make their parts of the cleared node. -/
theorem Node.Cleared.pathed {n c : Node} (h : n.Cleared c) :
    c.Renews c.pairModule.modulePath ∧ n.Parts c.pairModule.modulePath
      ∧ (n.pos.phase = .inString → c.pairModule.modulePath.pos.phase = .vacating ∧ c.pairModule.modulePath.pos.leaveReason = .module) := by
  have hcpair : c.pair = n.pair := by rw [h.eq]
  have hphase : c.pos.phase = n.pos.phase := by
    rw [h.eq]
    change n.hardwareOpen.pos.phase = _
    unfold Node.hardwareOpen
    rw [Node.onPos_pos]
    split <;> rfl
  have hparts : n.Parts c.pairModule := by
    obtain ⟨hunsought, hunbonded, hsought, hparted, hbarred⟩ := Node.pairModule_parts h.fresh
    rw [hcpair] at hsought
    rw [Node.bonded, hcpair] at hparted
    exact ⟨hunsought, hunbonded, hsought, hparted, hbarred⟩
  obtain ⟨hpathed, hleaves⟩ := Node.modulePath_leaves hparts
  refine ⟨((Node.Renews.refl c).pairModule h.fresh).modulePath, hpathed, fun hin => hleaves ?_⟩
  rw [Node.pairModule_inString (hphase.trans hin), hphase, hin]

/-- R72, R95: what the whole module change makes of a live node, with the blocks that its pair and its couple leave in `k`. -/
structure Node.Anew (n k m : Node) : Prop where
  mon : m.mon = { n.moduleTaken.mon with watchGrade := m.mon.watchGrade }
  fresh : m.Fresh
  published : m.grade.published.cls = .none ∧ m.grade.published.cap = none ∧ m.grade.published.res = none
  generation : m.grade.generation = (n.grade.generation + 1) % 256
  attempts : m.grade.attempts = 0
  pair : m.pair = { k.pair with target := m.pair.target }
  pos : m.pos = k.pos
  contactor : k.pos.contactor = .safe
  levels : ∀ i, (m.duty.get i).over
  zero : m.duty.conv.setpoint = 0
  rail : m.rail.held = none ∧ m.rail.wait = 0
  pres : m.pres = n.pres
  faults : ∀ e ∈ m.serv.faults, e.code ≠ .limit ∧ e.code ≠ .gradeFail ∧ (e.code = .tag → m.mon.tagState = .unknown)
  settled : m.Settled

theorem Node.changeModule_anew {n : Node} (hreports : n.duty.reports = []) (hlive : n.live = true) :
    n.Anew n.moduleCleared.pairModule.modulePath n.changeModule := by
  have hcleared := Node.moduleCleared_cleared hreports hlive
  obtain ⟨hrenews, hparts, -⟩ := hcleared.pathed
  rw [Node.changeModule_eq]
  generalize n.moduleCleared.pairModule.modulePath = k at hrenews hparts
  have hfresh : k.Fresh := hrenews.fresh hcleared.fresh
  obtain ⟨queue, cands, target, hpublished⟩ := hfresh.publish hparts.unsought hparts.unbonded k.grade.working
  have hpublishedFresh : (k.publish k.grade.working).Fresh := by
    rw [hpublished]
    exact ⟨hfresh.state, hfresh.cls, hfresh.cap, hfresh.res⟩
  obtain ⟨htold, htoldFresh, hfaults⟩ := (k.publish k.grade.working).moduleReports_eq
  have hlast := htoldFresh hpublishedFresh
  generalize (k.publish k.grade.working).moduleReports = m at htold hlast hfaults
  rw [hpublished] at htold hfaults
  have hblocks := hcleared.eq
  have hthrough := hrenews.eq
  have hduty : m.duty = n.moduleCleared.duty := by
    have hkduty : k.duty = n.moduleCleared.duty := by rw [hthrough]
    rw [htold]
    exact hkduty
  have hmon : m.mon = { n.moduleTaken.mon with watchGrade := m.mon.watchGrade } := by
    have hwatch : k.mon.watchPosition = none := hrenews.watch (by rw [hblocks]; rfl)
    have hkmon : k.mon = { n.moduleTaken.mon with watchGrade := k.mon.watchGrade, watchPosition := k.mon.watchPosition } := by
      rw [hthrough, hblocks]
    rw [htold]
    dsimp only
    rw [hkmon, hwatch]
    rfl
  have htag : m.mon.tagState = k.mon.tagState := by rw [htold]
  refine ⟨hmon, hlast, ?_, ?_, ?_, ?_, ?_, ?_, ?_, ?_, ?_, ?_, ?_, ?_⟩
  · rw [htold]
    exact ⟨hfresh.cls, hfresh.cap, hfresh.res⟩
  · rw [htold, hthrough, hblocks]
  · rw [htold, hthrough, hblocks]
  · rw [htold]
  · rw [htold]
  · exact hrenews.contactor (by rw [hblocks]; exact n.hardwareOpen_contactor)
  · rw [hduty]
    exact hcleared.levels
  · rw [hduty]
    exact hcleared.zero
  · rw [htold]
    exact ⟨hrenews.held.trans hcleared.held, hrenews.wait hcleared.wait⟩
  · rw [htold, hthrough, hblocks]
  · rw [htag]
    exact hfaults
  · refine ⟨by rw [hduty]; exact hcleared.reports, .inl ?_⟩
    rw [htold]
    exact hrenews.ended.trans hcleared.ended

/-- Settles O22: what `changeModule_anew` says of the change, with the parts of pair and couple, to the end of the step. -/
theorem moduleChangeStartsAnew : Obligations.ModuleChangeStartsAnew := by
  intro n w hsettled hrun hlive
  have hanew := Node.changeModule_anew hsettled.1 hlive
  obtain ⟨-, hparts, hleaves⟩ := (Node.moduleCleared_cleared hsettled.1 hlive).pathed
  have hevent : n.moduleChange = n.changeModule := if_pos hrun
  generalize n.moduleCleared.pairModule.modulePath = k at hanew hparts hleaves
  obtain ⟨m, hm⟩ : ∃ m, n.changeModule = m := ⟨_, rfl⟩
  rw [hm] at hanew hevent
  have hnode := m.withPresence_eq n
  refine ⟨_, State.act_eq (f := Node.moduleChange) (by rw [hevent, Node.conclude_of_settled n hanew.settled, hnode]), ?_⟩
  dsimp only
  rw [hanew.pos, hanew.pair, hanew.contactor]
  obtain ⟨hcls, hcap, hres⟩ := hanew.published
  obtain ⟨hbarred, hbarTimer⟩ := hparts.barred
  obtain ⟨hheld, hwait⟩ := hanew.rail
  have hstate := hanew.fresh.state
  have hfaults := hanew.faults
  have hmon := hanew.mon
  rw [Node.moduleTaken_eq] at hmon
  have htag : m.mon.tagState = n.judgeTag n.mon.tagSeen := by rw [hmon]
  rw [hanew.pres] at hstate ⊢
  refine ⟨?_, ?_, ?_, ?_, ?_, ?_, ?_, ?_, ?_, ?_, fun habsent => ?_, fun hpresent hnone => ?_, fun p hplan hpresent => ?_, hstate, hanew.attempts,
    hanew.generation, hcls, hcap, hres, hparts.sought, fun x hpartner hbonded => ?_, hbarred, hbarTimer, hanew.levels, hanew.zero,
    rfl, rfl, hleaves, hwait, hheld, rfl, hfaults⟩
  case refine_11 => rw [htag, Node.judgeTag, if_pos habsent]
  case refine_12 => rw [htag, Node.judgeTag, if_neg (by simp [hpresent]), if_pos (by simp [hnone])]
  case refine_13 =>
    rw [htag, Node.judgeTag, if_neg (by simp [hpresent]), if_neg (by simp [hplan]), Node.planProfile, hplan]
  case refine_14 => exact hparts.parted x hpartner hbonded
  all_goals rw [hmon]; rfl

end Sys2Proof.Machine
end
